-- ==== Sys2Proof/Word.lean ====
section
/-! DEFINITION. The word types of the HN6420: bytes of the riser and the host port, terminal IDs, wrapping frame counts. -/

namespace Sys2Proof

/-- One byte of a riser word or a host frame (chapter 10). -/
abbrev Byte := BitVec 8

/-- A terminal ID, 32 bits (R2). -/
abbrev TermId := BitVec 32

/-- A frame number or a hold number: 16 bits, wrapping after 65535 (R53, R58). -/
abbrev Count16 := BitVec 16

end Sys2Proof
end

