-- ==== Sys2Proof/Syntax.lean ====
section
/-! DEFINITION. The commands the HN6420 takes: one constructor for each row of spec/opcode_table.json. -/

namespace Sys2Proof

/-- What the TRIP_N input of a line does (R139, R193): it is released, or it is low for a number of nanoseconds. -/
inductive TripPin where
  | release
  | low (nanoseconds : Nat)
  deriving DecidableEq, Repr

/-- The commands. Indexes are record indexes 0 to 79, lines 0 to 63, slots 2 to 17, channels 0 to 3. -/
inductive Instr where
  /-- VIN falls (R32). -/
  | vinLoss
  /-- VIN returns (R32); `keepBelow`: KEEP has been below its hold level since the last completed start-up without a
  KEEP_LOSS step of its own (it was never present, or stood low already; R31). -/
  | vinReturn (keepBelow : Bool)
  /-- KEEP falls below its hold level (R32). -/
  | keepLoss
  /-- RESET_N goes low and stays so for the given time or longer (R33, R193). -/
  | resetNLow (nanoseconds : Nat)
  /-- RESET_N rises (R33). -/
  | resetNRise
  /-- A new frame begins; MAINS_OK has this level at its sample (R36, R53). -/
  | frameStart (mainsOk : Bool)
  /-- The due outage start is handled (R39). -/
  | outageStart
  /-- The due outage end is handled (R41). -/
  | outageEnd
  /-- The due outage minute is handled (R42). -/
  | outageMinute
  /-- The due expiry of a record's wake timer is handled (R81). -/
  | wakeTimerExpiry (index : Nat)
  /-- The due expiry of a record's test timer is handled (R153). -/
  | testTimerExpiry (index : Nat)
  /-- The beacon is sent (R54). -/
  | beacon
  /-- The downlink half of slot 1 (R56). -/
  | attachWord
  /-- The downlink half of a terminal slot (R64). -/
  | terminalDownlink (slot : Nat)
  /-- The downlink half of a terminal slot whose head has reached the repeat limit (R64, R75). -/
  | repeatLimitLost (slot : Nat)
  /-- A word is received in the uplink half of slot 1 (R57). -/
  | attachUplink (word : List Byte)
  /-- A word is received in the uplink half of a terminal slot (R66). -/
  | terminalUplink (slot : Nat) (word : List Byte)
  /-- The oldest FIFO entry is taken: an attach-slot ANNOUNCE (R93). -/
  | announce
  /-- The oldest FIFO entry is taken: a CLAIM (R108). -/
  | claim
  /-- The oldest FIFO entry is taken: a RENEW (R121). -/
  | renew
  /-- The oldest FIFO entry is taken: a RELEASE (R123). -/
  | release
  /-- The oldest FIFO entry is taken: a REPORT (R71). -/
  | report
  /-- The oldest FIFO entry is taken: a REST_REQUEST (R73). -/
  | restRequest
  /-- The oldest FIFO entry is taken: a NOP (R70). -/
  | nop
  /-- The oldest FIFO entry is taken: a terminal-slot ANNOUNCE or a word of unknown kind (R71). -/
  | unknownUplinkKind
  /-- The due loss by silence of a slot's holder is handled (R72). -/
  | silenceLost (slot : Nat)
  /-- The due idle rest of a record is handled (R73). -/
  | idleRest (index : Nat)
  /-- The due expiry of the record attempt's window is handled (R90). -/
  | attachWindowExpiry
  /-- The due expiry of the discovery's window is handled (R99). -/
  | discoveryWindowExpiry
  /-- The due end of a pulse is handled (R137). -/
  | pulseEnd (line : Nat)
  /-- TRIP_N of a line changes, or the due trip of the line is handled (R139). -/
  | trip (line : Nat) (pin : TripPin)
  /-- A scan round completes with these readings, in mA and in units of 10 mV (R143). -/
  | scanRound (currents : List Nat) (reserve : Nat)
  /-- The due completion of a soft start is handled (R136). -/
  | softstartComplete (line : Nat)
  /-- The Lease Manager takes the overdraw notice of a line (R129). -/
  | overdrawNotice (line : Nat)
  /-- The due change of reserve level is handled (R46). -/
  | levelChange
  /-- The due expiry of a record's lease is handled (R122). -/
  | leaseExpiry (index : Nat)
  /-- The due expiry of a record's claim wait is handled (R119). -/
  | claimWaitExpiry (index : Nat)
  /-- The due window end of a RUNNING test is handled (R163). -/
  | testWindowEnd (channel : Nat)
  /-- The due countdown expiry of a BEGINNING test is handled (R161). -/
  | testBeginTimeout (channel : Nat)
  /-- A FETCH transaction of this many whole bytes, the type byte among them (R174). -/
  | fetch (bytes : Nat)
  /-- A transaction of these bytes, the first naming neither REQUEST nor FETCH (R173). -/
  | unknownTransaction (bytes : List Byte)
  /-- A whole REQUEST whose code names no request (R176). -/
  | unknownRequest (code : Byte) (params : List Byte)
  | identify (params : List Byte)
  | configure (params : List Byte)
  | readConfig (params : List Byte)
  | enrol (params : List Byte)
  | amend (params : List Byte)
  | retire (params : List Byte)
  | purge (params : List Byte)
  | reinstate (params : List Byte)
  | lookup (params : List Byte)
  | scanNext (params : List Byte)
  | wake (params : List Byte)
  | test (params : List Byte)
  | discover (params : List Byte)
  | reserveStatus (params : List Byte)
  | attentionRead (params : List Byte)
  | attentionClear (params : List Byte)
  | strangersRead (params : List Byte)
  | reset (params : List Byte)
  /-- A REQUEST transaction of these bytes after its type byte, which fails the frame judgement (R176). -/
  | requestBadFrame (bytes : List Byte)
  deriving DecidableEq, Repr

end Sys2Proof
end

