-- ==== Sys2Proof/Decode.lean ====
section
/-! DEFINITION. The command a word spells by the bits of spec/opcode_table.json. No row of that table gives any bits
(every row's "fields" is empty), so no word spells a command (log 6). -/

namespace Sys2Proof

/-- The command that a word spells by the table's bits: none, since no row has any (log 6). -/
def decodeTableWord (_nbits _w : Nat) : Option Instr := none

end Sys2Proof
end

