-- ==== Sys2Proof/Config.lean ====
section
/-! DEFINITION. What the spec leaves open, as constants with no body (log 7 and log 8). -/

namespace Sys2Proof

/-- The k-th byte "of no meaning" that the device shifts out (R173, R174): a free value (log 8). -/
opaque Config.meaninglessByte : Nat → Byte

/-- Whether the k-th RESET_N pulse of 1 to 10 µs is taken (R193: "may be taken or ignored"): a free value (log 7). -/
opaque Config.marginalResetTaken : Nat → Bool

end Sys2Proof
end

