-- ==== Sys2Proof/Machine/State.lean ====
section
/-! DEFINITION. The state of the HN6420, block by block (table 0-1), its faults and refusals, and the state after reset. -/

namespace Sys2Proof.Machine

/-! ## Roster (chapter 1) -/

/-- Service class (R4). -/
inductive Class where
  | lifeline | standard | deferrable
  deriving DecidableEq, Repr

/-- The seven record states (table 1-3). -/
inductive RecState where
  | pending | dormant | waking | attached | fed | testing | quarantined
  deriving DecidableEq, Repr

/-- Why a record is quarantined (R5, R12). -/
inductive QReason where
  | noWake | short | overdraw | unstable
  deriving DecidableEq, Repr

/-- Wake method of a record (R6). -/
inductive WakeMethod where
  | auto | pulse | mark
  deriving DecidableEq, Repr

/-- Verdict of a completed test (R9, table 7-3). -/
inductive Verdict where
  | pass | weak | fail
  deriving DecidableEq, Repr

/-- Why a test was aborted with its outcome stored (R9, table 7-4). -/
inductive AbortReason where
  | lost | mains | noReport | lowStart
  deriving DecidableEq, Repr

/-- Outcome of a test (R9). -/
inductive TestOutcome where
  | verdict (v : Verdict)
  | aborted (why : AbortReason)
  deriving DecidableEq, Repr

/-- What an accepted announce stores (R8). -/
structure Capabilities where
  markWake : Bool
  demand   : Nat
  deriving DecidableEq, Repr

/-- What a taken REPORT stores (R8); `charge` is none when unknown. -/
structure BatteryReport where
  voltage    : Nat
  charge     : Option Nat
  load       : Nat
  cutoffNear : Bool
  deriving DecidableEq, Repr

/-- One terminal record (table 1-1). Its index is its position in the roster. -/
structure Record where
  id            : TermId
  line          : Option Nat
  cls           : Class
  state         : RecState
  reason        : Option QReason
  slot          : Option Nat
  /-- The reference to the lease table entry of this record, which is keyed by the record: its presence (R5). -/
  lease         : Bool
  method        : WakeMethod
  wakeInterval  : Nat
  wakeTimer     : Option Nat
  wakeOnOutage  : Bool
  testInterval  : Nat
  testTimer     : Option Nat
  cap           : Nat
  ration        : Nat
  charge        : Nat
  rationSpent   : Bool
  capabilities  : Option Capabilities
  report        : Option BatteryReport
  /-- Verdict and last drop, present together (R9). -/
  verdict       : Option (Verdict × Nat)
  suspect       : Bool
  lastOutcome   : Option TestOutcome
  tests         : Nat
  failedWakes   : Nat
  lost          : Nat
  idle          : Nat
  deriving DecidableEq, Repr

/-- The Roster: 80 positions and the unattributed counter (R1, R27). The line binding table is held line by line. -/
structure Roster where
  records      : List (Option Record)
  unattributed : Nat
  deriving DecidableEq, Repr

/-! ## Mode and Reserve Controller (chapter 2) -/

/-- Mode states (table 2-3). -/
inductive Mode where
  | mains | outagePending | outage | returnPending
  deriving DecidableEq, Repr

/-- Reserve levels (table 2-4). -/
inductive Level where
  | normal | low | critical | exhausted
  deriving DecidableEq, Repr

/-- Evidence of the last reserve measurement (R45). -/
inductive Evidence where
  | none | down | up
  deriving DecidableEq, Repr

/-- State of the Mode and Reserve Controller (table 2-2). -/
structure ModeCtl where
  mode           : Mode
  lowCount       : Nat
  highCount      : Nat
  level          : Level
  evidence       : Evidence
  confirm        : Nat
  ceiling        : Nat
  framesToMinute : Nat
  minutes        : Nat
  tally          : Nat
  deriving DecidableEq, Repr

/-! ## Riser Controller (chapter 3) -/

/-- DEFER reasons (table 5-3). -/
inductive DeferReason where
  | mains | classBarred | ration | overCap | timeout | testing | noHeadroom | noLease
  deriving DecidableEq, Repr

/-- CUT reasons (table 3-3). -/
inductive CutReason where
  | expired | shed | ration | mains
  deriving DecidableEq, Repr

/-- Downlink commands (table 3-3). -/
inductive Cmd where
  | grant (steps : Nat)
  | queued
  | defer (why : DeferReason)
  | limit (steps : Nat)
  | cut (why : CutReason)
  | rest
  | testBegin (window : Nat)
  | testEnd (outcome : TestOutcome)
  deriving DecidableEq, Repr

/-- An entry of a downlink queue (R61). -/
structure QEntry where
  cmd   : Cmd
  seq   : Nat
  sends : Nat
  deriving DecidableEq, Repr

/-- What a HELD slot holds (R58, R61, R70, R72). -/
structure Holder where
  index   : Nat
  id      : TermId
  isOpen  : Bool
  queue   : List QEntry
  nextSeq : Nat
  lastUp  : Option Nat
  silence : Nat
  deriving DecidableEq, Repr

/-- A record, or the mark DISCOVERY: for whom a slot is reserved or a pulse runs (R58, R134). -/
inductive Claimant where
  | record (index : Nat) (id : TermId)
  | discovery
  deriving DecidableEq, Repr

/-- Terminal slot states (table 3-2). -/
inductive SlotUse where
  | free
  | reserved (for_ : Claimant)
  | held (h : Holder)
  | releasing
  deriving DecidableEq, Repr

/-- An entry of the slot map (R58). -/
structure Slot where
  hold : Count16
  use  : SlotUse
  deriving DecidableEq, Repr

/-- Where an uplink word arrived, with its tag (R57, R66). -/
inductive Origin where
  | attach (frame : Count16)
  | terminal (slot : Nat) (hold : Count16)
  deriving DecidableEq, Repr

/-- An entry of the uplink FIFO: the word as received and its tag (R67). -/
structure FifoEntry where
  origin : Origin
  word   : List Byte
  deriving DecidableEq, Repr

/-- State of the Riser Controller. Terminal slot n stands at position n - 2 of `slots`. -/
structure Riser where
  frame       : Count16
  /-- Frame 0 is still to begin (R34, R53). -/
  frameZero   : Bool
  /-- The last half of the frame that was taken: 0 none yet, 1 the beacon, 2n and 2n + 1 the downlink and the uplink half of
  slot n; the slot position is half of it (R53, table 0-1). -/
  half        : Nat
  slots       : List Slot
  fifo        : List FifoEntry
  assignNow   : Option (TermId × Nat)
  backoffNow  : Option TermId
  assignNext  : Option (TermId × Nat)
  backoffNext : Option TermId
  /-- The word driven in the last downlink half, none when the pair was left undriven (R53). -/
  drive       : Option (List Byte)
  deriving DecidableEq, Repr

/-! ## Wake Sequencer (chapter 4) -/

/-- Purposes of record entries (table 4-2). -/
inductive Purpose where
  | timer | host | outage | test | rewake
  deriving DecidableEq, Repr

/-- What a wake entry or an attempt is for (R79, R82, R83). -/
inductive WakeTarget where
  | record (index : Nat) (id : TermId) (purpose : Purpose)
  | discovery (line : Nat)
  deriving DecidableEq, Repr

/-- An entry of the wake queue (R84). -/
structure WakeEntry where
  target   : WakeTarget
  arrival  : Nat
  returned : Bool
  deriving DecidableEq, Repr

/-- Method of an attempt (R87). -/
inductive CallMethod where
  | mark | pulse
  deriving DecidableEq, Repr

/-- The attempt or discovery in progress (R79). -/
structure Attempt where
  target  : WakeTarget
  method  : CallMethod
  slot    : Nat
  window  : Nat
  pulsing : Bool
  permit  : Bool
  deriving DecidableEq, Repr

/-- An entry of the stranger list (R100). -/
structure Stranger where
  id    : TermId
  line  : Option Nat
  frame : Count16
  deriving DecidableEq, Repr

/-- Results of a discovery (table 4-4); a line with none holds no result. -/
inductive DiscoveryResult where
  | bound | conflict | stranger | empty | short
  deriving DecidableEq, Repr

/-- State of the Wake Sequencer (table 4-1). The wake queue is kept in joining order; R84 says which entry is its head. -/
structure Wake where
  queue     : List WakeEntry
  attempt   : Option Attempt
  eviction  : Option (Nat × TermId)
  strangers : List Stranger
  overflow  : Bool
  arrival   : Nat
  deriving DecidableEq, Repr

/-! ## Lease Manager (chapter 5) -/

/-- Phases of a lease (R105). -/
inductive Phase where
  | live | suspended
  deriving DecidableEq, Repr

/-- A lease table entry (R105). -/
structure Lease where
  index     : Nat
  id        : TermId
  steps     : Nat
  cls       : Class
  order     : Nat
  phase     : Phase
  countdown : Nat
  strikes   : Nat
  deriving DecidableEq, Repr

/-- A claim queue entry (R117). -/
structure ClaimEntry where
  index   : Nat
  id      : TermId
  steps   : Nat
  cls     : Class
  suspect : Bool
  arrival : Nat
  wait    : Nat
  deriving DecidableEq, Repr

/-- State of the Lease Manager (table 5-1). `claims` stands in the order of R117, its head first. -/
structure LeaseMgr where
  leases       : List Lease
  claims       : List ClaimEntry
  permit       : Option Nat
  grantOrder   : Nat
  committed    : Nat
  claimArrival : Nat
  deriving DecidableEq, Repr

/-! ## Lines: Line Feed Unit, Sense Scanner, and the per-line tables of the Roster and the Wake Sequencer -/

/-- Line switch states with what each holds (table 6-1). -/
inductive Switch where
  | off
  | pulse (countdown : Nat) (owner : Claimant)
  | softstart (count : Nat)
  | on
  | tripped
  deriving DecidableEq, Repr

/-- What the device keeps for one line. -/
structure Line where
  /-- The line binding table's entry (R3). -/
  binding   : Option Nat
  /-- The switch state (R134). -/
  switch    : Switch
  /-- The last current measurement in mA (R143). -/
  current   : Nat
  /-- The overdraw capture, present exactly while the overdraw-pending flag is set (R147). -/
  overdraw  : Option Nat
  /-- The last discovery result (R99). -/
  discovery : Option DiscoveryResult
  /-- Whether TRIP_N of the line is asserted (R139). -/
  tripLow   : Bool
  deriving DecidableEq, Repr

/-! ## Test Engine (chapter 7) -/

/-- Phases of a test (table 7-2). -/
inductive TestPhase where
  | beginning | running
  deriving DecidableEq, Repr

/-- A busy test channel (table 7-2). -/
structure Test where
  index     : Nat
  id        : TermId
  phase     : TestPhase
  countdown : Nat
  leaseHeld : Bool
  startV    : Option Nat
  lastV     : Option Nat
  deriving DecidableEq, Repr

/-- Kinds of agenda entries (R154). -/
inductive AgendaKind where
  | host | timer
  deriving DecidableEq, Repr

/-- An agenda entry (R154). -/
structure AgendaEntry where
  index   : Nat
  id      : TermId
  kind    : AgendaKind
  arrival : Nat
  deriving DecidableEq, Repr

/-- State of the Test Engine (table 7-1). The agenda stands in the order of R154. -/
structure TestEngine where
  agenda   : List AgendaEntry
  arrival  : Nat
  channels : List (Option Test)
  inHand   : Option (Nat × TermId)
  deriving DecidableEq, Repr

/-! ## Host Port (chapter 8) -/

/-- Port status (R172). -/
inductive PortStatus where
  | idle | working | ready
  deriving DecidableEq, Repr

/-- Kinds of reset (R31). -/
inductive ResetKind where
  | warm | cold
  deriving DecidableEq, Repr

/-- The response buffer's contents (R174); the field length is the number of fields. -/
structure Response where
  code   : Byte
  fields : List Byte
  check  : Byte
  deriving DecidableEq, Repr

/-- Device reasons of the attention set (table 8-5). -/
structure DevReasons where
  restarted : Option ResetKind
  mode      : Bool
  level     : Bool
  stranger  : Bool
  discovery : Bool
  deriving DecidableEq, Repr

/-- Record reasons of the attention set (table 8-5); an index has an entry while one of them is set. -/
structure RecReasons where
  quarantined : Bool
  verdict     : Bool
  lost        : Bool
  rationSpent : Bool
  bound       : Bool
  unplaced    : Bool
  deriving DecidableEq, Repr

/-- State of the Host Port (table 8-1) but for the settings. -/
structure HostPort where
  status   : PortStatus
  request  : List Byte
  response : Option Response
  overlap  : Bool
  device   : DevReasons
  records  : List RecReasons
  /-- What SDO carried in the last transaction the device answered, byte by byte; none is an undriven byte (R173, R174). -/
  sdo      : List (Option Byte)
  deriving DecidableEq, Repr

/-- The operating settings (table 8-4). -/
structure Settings where
  normalCeiling   : Nat
  lowCeiling      : Nat
  criticalCeiling : Nat
  lowEnter        : Nat
  lowLeave        : Nat
  criticalEnter   : Nat
  criticalLeave   : Nat
  exhaustedEnter  : Nat
  exhaustedLeave  : Nat
  levelConfirm    : Nat
  outageConfirm   : Nat
  returnConfirm   : Nat
  leaseLength     : Nat
  claimWait       : Nat
  pulseAllowance  : Nat
  overdrawMargin  : Nat
  silenceLimit    : Nat
  repeatLimit     : Nat
  idleLimit       : Nat
  lostLimit       : Nat
  attachWindow    : Nat
  wakeAttempts    : Nat
  pulseLength     : Nat
  testWindow      : Nat
  testFloor       : Nat
  passDrop        : Nat
  weakDrop        : Nat
  deriving DecidableEq, Repr

/-! ## Supplies, and the whole device -/

/-- Supply and reset pins, and what the reset of R31 to R33 needs. -/
structure Supply where
  /-- VIN is present. -/
  vin      : Bool
  /-- RESET_N is high. -/
  resetN   : Bool
  /-- Retention has been lost since the last completed start-up (R31; log 45). -/
  keepLost : Bool
  /-- A reset of this kind is done or held, and its start-up waits (R33); none once start-up is complete
  (log 45). -/
  holding  : Option ResetKind
  deriving DecidableEq, Repr

/-- Events that have come about and are not yet handled. The model's own: see log 1. -/
inductive Due where
  | outageStart
  | outageEnd
  | outageMinute
  | wakeTimer (index : Nat)
  | testTimer (index : Nat)
  | silenceLost (slot : Nat)
  | idleRest (index : Nat)
  | pulseEnd (line : Nat)
  | attachWindow
  | discoveryWindow
  | leaseExpiry (index : Nat)
  | claimWait (index : Nat)
  | testWindow (channel : Nat)
  | testBegin (channel : Nat)
  | softstart (line : Nat)
  | trip (line : Nat)
  | levelChange
  /-- The ration judgement of a scan round whose measurement also changes the level (R145). -/
  | rations
  /-- The agenda examination of a frame start (R156), or the one that follows the test timers of an outage minute once their
  entries have joined (R153). -/
  | agendaExam
  deriving DecidableEq, Repr

/-- The device: its blocks, the settings, the events due, and the counter of free values (log 8). -/
structure Device where
  supply    : Supply
  roster    : Roster
  mode      : ModeCtl
  riser     : Riser
  wake      : Wake
  lease     : LeaseMgr
  lines     : List Line
  /-- The last reserve voltage (R44, R143). -/
  reserve   : Nat
  /-- The scan round of the frame in hand has completed (R143). -/
  scanned   : Bool
  test      : TestEngine
  port      : HostPort
  settings  : Settings
  due       : List Due
  freeCount : Nat
  deriving DecidableEq, Repr

/-- The block with the queue of commands that wait for it, oldest first. -/
structure State where
  dev     : Device
  pending : List Instr
  deriving DecidableEq, Repr

/-- Faults. The spec names no event that stops the device, so there is none (safe: nothing stops where the device goes on). -/
inductive Fault where
  deriving DecidableEq, Repr

/-- Refusals. -/
inductive Refusal where
  /-- Raised by an arm of exec whose command has no meaning yet. Safe. No arm raises it. -/
  | notModelled (mnemonic : String)
  deriving DecidableEq, Repr

/-- The defaults of table 8-4. -/
def Settings.default : Settings where
  normalCeiling := 160
  lowCeiling := 80
  criticalCeiling := 32
  lowEnter := 2300
  lowLeave := 2360
  criticalEnter := 2220
  criticalLeave := 2280
  exhaustedEnter := 2100
  exhaustedLeave := 2200
  levelConfirm := 3
  outageConfirm := 10
  returnConfirm := 300
  leaseLength := 600
  claimWait := 300
  pulseAllowance := 6
  overdrawMargin := 2
  silenceLimit := 30
  repeatLimit := 8
  idleLimit := 600
  lostLimit := 4
  attachWindow := 20
  wakeAttempts := 3
  pulseLength := 5
  testWindow := 3000
  testFloor := 1180
  passDrop := 30
  weakDrop := 60

/-- No record reason (R186). -/
def RecReasons.empty : RecReasons := ⟨false, false, false, false, false, false⟩

/-- The initial values of R35. -/
def ModeCtl.initial (ceiling : Nat) : ModeCtl :=
  { mode := .mains, lowCount := 0, highCount := 0, level := .normal, evidence := .none, confirm := 0,
    ceiling := ceiling, framesToMinute := 600, minutes := 0, tally := 0 }

/-- The initial values of R78. -/
def Riser.initial : Riser :=
  { frame := 0, frameZero := true, half := 0, slots := List.replicate 16 ⟨0, .free⟩, fifo := [],
    assignNow := none, backoffNow := none, assignNext := none, backoffNext := none, drive := none }

/-- The initial values of table 4-1. -/
def Wake.initial : Wake :=
  { queue := [], attempt := none, eviction := none, strangers := [], overflow := false, arrival := 0 }

/-- The initial values of table 5-1. -/
def LeaseMgr.initial : LeaseMgr :=
  { leases := [], claims := [], permit := none, grantOrder := 1, committed := 0, claimArrival := 0 }

/-- The initial values of table 7-1. -/
def TestEngine.initial : TestEngine :=
  { agenda := [], arrival := 0, channels := [none, none, none, none], inHand := none }

/-- A line after a cold reset (R3, R99, R148, R149), with the level its TRIP_N has. -/
def Line.initial (tripLow : Bool) : Line :=
  { binding := none, switch := .off, current := 0, overdraw := none, discovery := none, tripLow := tripLow }

/-- The port after a reset and the start-up that raises RESTARTED of the given kind (R172, R186). -/
def HostPort.initial (restarted : Option ResetKind) : HostPort :=
  { status := .idle, request := [], response := none, overlap := false,
    device := ⟨restarted, false, false, false, false⟩, records := List.replicate 80 .empty, sdo := [] }

/-- The device after a cold reset and its start-up, powered, RESET_N high, every TRIP_N released (log 9). -/
def Device.reset : Device :=
  { supply := ⟨true, true, false, none⟩
    roster := ⟨List.replicate 80 none, 0⟩
    mode := .initial 160
    riser := .initial
    wake := .initial
    lease := .initial
    lines := List.replicate 64 (.initial false)
    reserve := 0
    scanned := false
    test := .initial
    port := .initial (some .cold)
    settings := .default
    due := []
    freeCount := 0 }

/-- The machine right after reset: nothing waits. -/
def State.reset : State := ⟨.reset, []⟩

end Sys2Proof.Machine
end

