-- ==== Sys2Proof/Machine/Operands.lean ====
section
/-! DEFINITION. Operand forms: byte order and check sums, the codes of table 10-7, uplink words (R191), host keys, entries
and settings (R192). -/

namespace Sys2Proof.Machine

/-! ## Bytes, most significant first (chapter 10), and check bytes -/

/-- The low `w` bytes of a number, most significant byte first. -/
def bytesBE (w n : Nat) : List Byte := (List.range w).map fun k => BitVec.ofNat 8 (n / 256 ^ (w - 1 - k))

/-- The number that bytes spell, most significant byte first. -/
def natBE (bs : List Byte) : Nat := bs.foldl (fun a b => a * 256 + b.toNat) 0

/-- The sum of bytes modulo 256. -/
def byteSum (bs : List Byte) : Byte := bs.foldl (· + ·) 0

/-- The check byte that brings the sum to 0 modulo 256 (R173, R174, R191). -/
def checkByte (bs : List Byte) : Byte := 0 - byteSum bs

/-- A word closed by its check byte. -/
def withCheck (bs : List Byte) : List Byte := bs ++ [checkByte bs]

/-- 01h for yes and 00h for no (R192). -/
def boolByte (b : Bool) : Byte := if b then 1 else 0

/-- A one-byte field, FFh when absent (R192). -/
def optByte (o : Option Nat) : Byte := match o with
  | some n => BitVec.ofNat 8 n
  | none => 0xFF

/-- A two-byte field, FFFFh when absent (R192). -/
def optWord (o : Option Nat) : List Byte := match o with
  | some n => bytesBE 2 n
  | none => [0xFF, 0xFF]

/-! ## Enumeration codes (table 10-7); an absent enumeration is 00h (R192) -/

def Class.code : Class → Byte
  | .lifeline => 1 | .standard => 2 | .deferrable => 3

def RecState.code : RecState → Byte
  | .pending => 1 | .dormant => 2 | .waking => 3 | .attached => 4 | .fed => 5 | .testing => 6 | .quarantined => 7

def QReason.code : QReason → Byte
  | .noWake => 1 | .short => 2 | .overdraw => 3 | .unstable => 4

def WakeMethod.code : WakeMethod → Byte
  | .auto => 1 | .pulse => 2 | .mark => 3

def CallMethod.code : CallMethod → Byte
  | .pulse => 2 | .mark => 3

def Switch.code : Switch → Byte
  | .off => 1 | .pulse _ _ => 2 | .softstart _ => 3 | .on => 4 | .tripped => 5

def DiscoveryResult.code : DiscoveryResult → Byte
  | .bound => 1 | .conflict => 2 | .stranger => 3 | .empty => 4 | .short => 5

def DeferReason.code : DeferReason → Nat
  | .mains => 1 | .classBarred => 2 | .ration => 3 | .overCap => 4 | .timeout => 5 | .testing => 6 | .noHeadroom => 7
  | .noLease => 8

def CutReason.code : CutReason → Nat
  | .expired => 1 | .shed => 2 | .ration => 3 | .mains => 4

def Verdict.code : Verdict → Nat
  | .pass => 1 | .weak => 2 | .fail => 3

def TestOutcome.code : TestOutcome → Nat
  | .verdict v => v.code
  | .aborted .lost => 4
  | .aborted .mains => 5
  | .aborted .noReport => 6
  | .aborted .lowStart => 7

def Mode.code : Mode → Byte
  | .mains => 1 | .outagePending => 2 | .outage => 3 | .returnPending => 4

def Level.code : Level → Byte
  | .normal => 1 | .low => 2 | .critical => 3 | .exhausted => 4

def Purpose.code : Purpose → Byte
  | .timer => 1 | .host => 2 | .outage => 3 | .test => 4 | .rewake => 5

def AgendaKind.code : AgendaKind → Byte
  | .host => 1 | .timer => 2

def Phase.code : Phase → Byte
  | .live => 1 | .suspended => 2

def TestPhase.code : TestPhase → Byte
  | .beginning => 1 | .running => 2

def ResetKind.code : ResetKind → Byte
  | .warm => 1 | .cold => 2

/-- The code of an enumeration field, 00h when absent (R192). -/
def optCode {α : Type} (f : α → Byte) : Option α → Byte
  | some a => f a
  | none => 0

/-- The class a value names (table 10-7). -/
def Class.ofCode : Nat → Option Class
  | 1 => some .lifeline | 2 => some .standard | 3 => some .deferrable | _ => none

/-- The wake method a value names (table 10-7). -/
def WakeMethod.ofCode : Nat → Option WakeMethod
  | 1 => some .auto | 2 => some .pulse | 3 => some .mark | _ => none

/-- A yes/no value (R192). -/
def yesNo : Nat → Option Bool
  | 0 => some false | 1 => some true | _ => none

/-! ## Downlink words (tables 10-1 to 10-3) -/

/-- Mode bits of the beacon (table 10-1). -/
def Mode.beaconBits : Mode → Nat
  | .mains => 0 | .outagePending => 1 | .outage => 2 | .returnPending => 3

/-- Level bits of the beacon (table 10-1). -/
def Level.beaconBits : Level → Nat
  | .normal => 0 | .low => 1 | .critical => 2 | .exhausted => 3

/-- The attach state (R54). -/
inductive AttachState where
  | open_ | closed | calling
  deriving DecidableEq, Repr

/-- Attach state bits of the beacon (table 10-1). -/
def AttachState.beaconBits : AttachState → Nat
  | .open_ => 0 | .closed => 1 | .calling => 2

/-- The beacon word (table 10-1). -/
def beaconWord (frame : Count16) (m : Mode) (l : Level) (a : AttachState) : List Byte :=
  withCheck (bytesBE 2 frame.toNat ++ [BitVec.ofNat 8 (m.beaconBits + 4 * l.beaconBits + 16 * a.beaconBits)])

/-- The attach downlink words (R55). -/
inductive AttachDown where
  | open_ | closed | wake (id : TermId) | assign (id : TermId) (slot : Nat) | backoff (id : TermId)
  deriving DecidableEq, Repr

/-- The bytes of an attach downlink word (table 10-2). -/
def AttachDown.bytes : AttachDown → List Byte
  | .open_ => withCheck (1 :: bytesBE 4 0 ++ [0])
  | .closed => withCheck (2 :: bytesBE 4 0 ++ [0])
  | .wake id => withCheck (3 :: bytesBE 4 id.toNat ++ [0])
  | .assign id n => withCheck (4 :: bytesBE 4 id.toNat ++ [BitVec.ofNat 8 n])
  | .backoff id => withCheck (5 :: bytesBE 4 id.toNat ++ [0])

/-- The kind code of a command (table 10-3). Two commands are of one kind when their codes agree (R62). -/
def Cmd.kind : Cmd → Nat
  | .grant _ => 1 | .queued => 2 | .defer _ => 3 | .limit _ => 4 | .cut _ => 5 | .rest => 6 | .testBegin _ => 7
  | .testEnd _ => 8

/-- The parameter of a command (table 10-3). -/
def Cmd.param : Cmd → Nat
  | .grant n => n | .queued => 0 | .defer r => r.code | .limit n => n | .cut r => r.code | .rest => 0 | .testBegin w => w
  | .testEnd o => o.code

/-- The acknowledgement byte of a downlink word (table 10-3, R64). -/
def ackByte : Option Nat → Byte
  | some n => BitVec.ofNat 8 (128 + n)
  | none => 0

/-- NOP in a terminal slot (table 10-3). -/
def nopWord (ack : Option Nat) : List Byte := withCheck [0, ackByte ack, 0, 0]

/-- A command in a terminal slot (table 10-3). -/
def cmdWord (c : Cmd) (seq : Nat) (ack : Option Nat) : List Byte :=
  withCheck ([BitVec.ofNat 8 (16 * c.kind + seq), ackByte ack] ++ bytesBE 2 c.param)

/-! ## Uplink words (table 10-4, R191) -/

/-- Kinds of uplink word. -/
inductive UpKind where
  | claim | renew | release | report | restRequest | nop | announce | unknown
  deriving DecidableEq, Repr

/-- Byte `k` of a word as a number. -/
def byteAt (w : List Byte) (k : Nat) : Nat := (w.getD k 0).toNat

/-- A word received in a slot of 9 bytes has a good check byte (R191). -/
def goodWord (w : List Byte) : Bool := decide (9 ≤ w.length) && byteSum (w.take 9) == 0

/-- The kind that byte 0 names; a code not listed is unknown (R191). -/
def upKind (w : List Byte) : UpKind := match byteAt w 0 / 16 with
  | 1 => .claim | 2 => .renew | 3 => .release | 4 => .report | 5 => .restRequest | 6 => .nop | 7 => .announce
  | _ => .unknown

/-- The uplink sequence number. -/
def upSeq (w : List Byte) : Nat := byteAt w 0 % 16

/-- The acknowledgement field: none when its present bit is 0 (R191). -/
def upAck (w : List Byte) : Option Nat := if byteAt w 1 / 128 = 1 then some (byteAt w 1 % 16) else none

/-- The steps of a CLAIM: bits 5-0 of byte 2 (R191). -/
def claimSteps (w : List Byte) : Nat := byteAt w 2 % 64

/-- The battery report of a REPORT, its values stored as R191 gives. -/
def reportOf (w : List Byte) : BatteryReport :=
  { voltage := min (natBE [w.getD 2 0, w.getD 3 0]) 2000
    charge := if byteAt w 4 ≤ 100 then some (byteAt w 4) else none
    load := min (natBE [w.getD 5 0, w.getD 6 0]) 2000
    cutoffNear := byteAt w 7 % 2 == 1 }

/-- Cause of an announce (R93). -/
inductive AnnounceCause where
  | woken | self
  deriving DecidableEq, Repr

/-- What an ANNOUNCE carries (table 10-4). -/
structure Announce where
  id       : TermId
  markWake : Bool
  cause    : AnnounceCause
  demand   : Nat
  frame    : Count16
  deriving DecidableEq, Repr

/-- The announce a word carries, with its arrival frame number (R57). -/
def announceOf (w : List Byte) (frame : Count16) : Announce :=
  { id := BitVec.ofNat 32 (natBE [w.getD 2 0, w.getD 3 0, w.getD 4 0, w.getD 5 0])
    markWake := byteAt w 6 / 128 == 1
    cause := if byteAt w 6 / 64 % 2 = 0 then .woken else .self
    demand := byteAt w 6 % 64
    frame := frame }

/-- A terminal ID that a terminal may have: neither 0 nor FFFFFFFFh (R2). -/
def validId (t : TermId) : Bool := t != 0 && t != 0xFFFFFFFF#32

/-! ## Host frames (R176, R192) -/

/-- Result codes (table 8-3). -/
inductive Result where
  | ok | end_ | badFrame | unknownRequest | badValue | notFound | duplicateId | lineTaken | rosterFull | wrongState
  | wrongMode | locked | already | queueFull
  deriving DecidableEq, Repr

/-- The code of a result (table 10-6). -/
def Result.code : Result → Byte
  | .ok => 0x00 | .end_ => 0x01 | .badFrame => 0x80 | .unknownRequest => 0x81 | .badValue => 0x82 | .notFound => 0x83
  | .duplicateId => 0x84 | .lineTaken => 0x85 | .rosterFull => 0x86 | .wrongState => 0x87 | .wrongMode => 0x88
  | .locked => 0x89 | .already => 0x8A | .queueFull => 0x8B

/-- A result with its field bytes; only OK and END carry any (table 10-12). -/
abbrev Answer := Result × List Byte

/-- A key of a host request (R192). -/
inductive Key where
  | index (i : Nat) | id (t : TermId) | line (l : Nat)
  deriving DecidableEq, Repr

/-- The key that 5 bytes spell; none where the key type or the value is outside its choices or range, which R176 answers
with BAD_VALUE at its step 3. -/
def parseKey (bs : List Byte) : Option Key :=
  if bs.length = 5 then
    let v := natBE (bs.drop 1)
    match byteAt bs 0 with
    | 1 => if v < 80 then some (.index v) else none
    | 2 => if validId (BitVec.ofNat 32 v) then some (.id (BitVec.ofNat 32 v)) else none
    | 3 => if v < 64 then some (.line v) else none
    | _ => none
  else none

/-- Entries of one number byte and a 2-byte value (R192); none where the length is no multiple of 3. -/
def parseEntries : List Byte → Option (List (Nat × Nat))
  | [] => some []
  | a :: b :: c :: rest => match parseEntries rest with
    | some es => some ((a.toNat, natBE [b, c]) :: es)
    | none => none
  | [_] => none
  | [_, _] => none

/-- No number is named twice. -/
def distinctNumbers : List (Nat × Nat) → Bool
  | [] => true
  | e :: es => !(es.any fun f => f.1 == e.1) && distinctNumbers es

/-- The value an entry list gives to a number. -/
def entryValue (es : List (Nat × Nat)) (n : Nat) : Option Nat := (es.find? fun e => e.1 == n).map Prod.snd

/-! ## Settings by number (R192: row order of table 8-4, 01h to 1Bh) -/

/-- A setting's value by its number. -/
def Settings.get (s : Settings) : Nat → Option Nat
  | 1 => some s.normalCeiling | 2 => some s.lowCeiling | 3 => some s.criticalCeiling | 4 => some s.lowEnter
  | 5 => some s.lowLeave | 6 => some s.criticalEnter | 7 => some s.criticalLeave | 8 => some s.exhaustedEnter
  | 9 => some s.exhaustedLeave | 10 => some s.levelConfirm | 11 => some s.outageConfirm | 12 => some s.returnConfirm
  | 13 => some s.leaseLength | 14 => some s.claimWait | 15 => some s.pulseAllowance | 16 => some s.overdrawMargin
  | 17 => some s.silenceLimit | 18 => some s.repeatLimit | 19 => some s.idleLimit | 20 => some s.lostLimit
  | 21 => some s.attachWindow | 22 => some s.wakeAttempts | 23 => some s.pulseLength | 24 => some s.testWindow
  | 25 => some s.testFloor | 26 => some s.passDrop | 27 => some s.weakDrop | _ => none

/-- A setting written by its number. -/
def Settings.put (s : Settings) (n v : Nat) : Settings := match n with
  | 1 => { s with normalCeiling := v } | 2 => { s with lowCeiling := v } | 3 => { s with criticalCeiling := v }
  | 4 => { s with lowEnter := v } | 5 => { s with lowLeave := v } | 6 => { s with criticalEnter := v }
  | 7 => { s with criticalLeave := v } | 8 => { s with exhaustedEnter := v } | 9 => { s with exhaustedLeave := v }
  | 10 => { s with levelConfirm := v } | 11 => { s with outageConfirm := v } | 12 => { s with returnConfirm := v }
  | 13 => { s with leaseLength := v } | 14 => { s with claimWait := v } | 15 => { s with pulseAllowance := v }
  | 16 => { s with overdrawMargin := v } | 17 => { s with silenceLimit := v } | 18 => { s with repeatLimit := v }
  | 19 => { s with idleLimit := v } | 20 => { s with lostLimit := v } | 21 => { s with attachWindow := v }
  | 22 => { s with wakeAttempts := v } | 23 => { s with pulseLength := v } | 24 => { s with testWindow := v }
  | 25 => { s with testFloor := v } | 26 => { s with passDrop := v } | 27 => { s with weakDrop := v } | _ => s

/-- The range of a setting by its number (table 8-4); an empty range for a number that names none. -/
def settingRange : Nat → Nat × Nat
  | 1 => (0, 480) | 2 => (0, 480) | 3 => (0, 480) | 4 => (0, 3000) | 5 => (0, 3000) | 6 => (0, 3000) | 7 => (0, 3000)
  | 8 => (0, 3000) | 9 => (0, 3000) | 10 => (1, 15) | 11 => (1, 100) | 12 => (50, 3000) | 13 => (100, 3000)
  | 14 => (50, 3000) | 15 => (1, 12) | 16 => (1, 8) | 17 => (10, 100) | 18 => (4, 15) | 19 => (100, 6000) | 20 => (1, 15)
  | 21 => (5, 60) | 22 => (1, 7) | 23 => (2, 20) | 24 => (600, 18000) | 25 => (0, 2000) | 26 => (1, 500) | 27 => (1, 500)
  | _ => (1, 0)

/-- A setting entry names a setting and a value in its range. -/
def settingOk (e : Nat × Nat) : Bool := (settingRange e.1).1 ≤ e.2 && e.2 ≤ (settingRange e.1).2

/-- The orders of the NOTE under table 8-4 (R47, R163). -/
def Settings.ordered (s : Settings) : Bool :=
  s.exhaustedEnter < s.exhaustedLeave && s.exhaustedLeave ≤ s.criticalEnter && s.criticalEnter < s.criticalLeave &&
  s.criticalLeave ≤ s.lowEnter && s.lowEnter < s.lowLeave &&
  s.criticalCeiling ≤ s.lowCeiling && s.lowCeiling ≤ s.normalCeiling && s.passDrop < s.weakDrop

end Sys2Proof.Machine
end

