-- ==== Sys2Proof/Machine/Ops.lean ====
section
/-! DEFINITION. Named operations over the device's tables: records, lines, slots, downlink queues, line orders, leases,
claims, the agenda and the channels. Every block's handling goes through these. -/

namespace Sys2Proof.Machine

/-! ## Ranks and bars -/

/-- Rank of a class, 0 the highest (R4). -/
def Class.rank : Class → Nat
  | .lifeline => 0 | .standard => 1 | .deferrable => 2

/-- Claim cap given at ENROL when none is named (table 1-2). -/
def Class.defaultCap : Class → Nat
  | .lifeline => 40 | .standard => 24 | .deferrable => 12

/-- Wake on outage given at ENROL when none is named (table 1-2). -/
def Class.defaultWakeOnOutage : Class → Bool
  | .lifeline => true | .standard => false | .deferrable => false

/-- Demand where the announce states none (table 1-2). -/
def Class.defaultDemand : Class → Nat
  | .lifeline => 12 | .standard => 10 | .deferrable => 8

/-- A class is barred at a level (table 2-5). -/
def Level.bars : Level → Class → Bool
  | .normal, _ => false
  | .low, c => c == .deferrable
  | .critical, c => c != .lifeline
  | .exhausted, _ => true

/-- The outage clock, claims and record wakes run: OUTAGE or RETURN_PENDING (table 2-3). -/
def Mode.inOutage : Mode → Bool
  | .outage => true | .returnPending => true | .mains => false | .outagePending => false

/-- A counter of order that stays at FFFFFFFFh once there (R84, R107, R111, R154). -/
def nextOrder (n : Nat) : Nat := min (n + 1) 0xFFFFFFFF

/-- The greatest outage charge and unattributed charge (R26, R27). -/
def maxCharge : Nat := 1099511627775

/-- The greatest outage tally (R52). -/
def maxTally : Nat := 281474976710655

/-- mA·frames in one mAh (0.5, R125). -/
def chargePerMAh : Nat := 36000

/-- The due events with the agenda examination put after the test timers that come first: it follows once all of an outage minute
have joined (R153). One that already stands there serves. -/
def Due.thenExam : List Due → List Due
  | [] => [.agendaExam]
  | e :: es => match e with
    | .testTimer i => .testTimer i :: thenExam es
    | .agendaExam => .agendaExam :: es
    | e => .agendaExam :: e :: es

/-- Events that nothing else comes before once they are due (log 1): the timer expiries of an outage minute, which its one
handling takes in (R81, R153), and a trip of a line that an order took out of OFF, which follows the order at once (R135). -/
def Due.urgent : Due → Bool
  | .wakeTimer _ => true
  | .testTimer _ => true
  | .trip _ => true
  | _ => false

/-! ## Records -/

namespace Device

/-- The device takes events: VIN is present and no reset is held (R32, R33). -/
def running (d : Device) : Bool := d.supply.vin && d.supply.holding.isNone

/-- The half `p` of the frame is still to come: frame 0 has begun, and no half as late has been taken in this frame (R53). -/
def inTurn (d : Device) (p : Nat) : Bool := !d.riser.frameZero && d.riser.half < p

/-- The record at an index, if the position holds one (R1). -/
def rec? (d : Device) (i : Nat) : Option Record := (d.roster.records[i]?).join

/-- The record at an index changed. -/
def modRec (d : Device) (i : Nat) (f : Record → Record) : Device :=
  { d with roster := { d.roster with records := d.roster.records.modify i (Option.map f) } }

/-- The position of an index written. -/
def putRec (d : Device) (i : Nat) (r : Option Record) : Device :=
  { d with roster := { d.roster with records := d.roster.records.set i r } }

/-- The index of the record that holds a terminal ID (R2). -/
def findId (d : Device) (t : TermId) : Option Nat :=
  d.roster.records.findIdx? fun r => match r with
    | some r => r.id == t
    | none => false

/-- The index holds a record with this terminal ID (R11). -/
def names (d : Device) (i : Nat) (t : TermId) : Bool := match d.rec? i with
  | some r => r.id == t
  | none => false

/-- The record at an index is in a state. -/
def inState (d : Device) (i : Nat) (st : RecState) : Bool := match d.rec? i with
  | some r => r.state == st
  | none => false

/-! ## Lines -/

/-- A line's entry. -/
def line? (d : Device) (l : Nat) : Option Line := d.lines[l]?

/-- A line's entry changed. -/
def modLine (d : Device) (l : Nat) (f : Line → Line) : Device := { d with lines := d.lines.modify l f }

/-- An event made due, after those already due (log 1). -/
def addDue (d : Device) (e : Due) : Device := { d with due := d.due ++ [e] }

/-- The trip of a line made due: ahead of all that is due but the urgent events before it (R135, log 1). -/
def addTrip (d : Device) (l : Nat) : Device :=
  { d with due := d.due.takeWhile Due.urgent ++ .trip l :: d.due.dropWhile Due.urgent }

/-- The agenda examination that the entry of a test timer calls for made due (R153, R156). -/
def addExam (d : Device) : Device := { d with due := Due.thenExam d.due }

/-- OFF order (table 6-2). -/
def orderOff (d : Device) (l : Nat) : Device := d.modLine l fun x => match x.switch with
  | .tripped => x
  | _ => { x with switch := .off }

/-- An order took the line out of OFF: where its TRIP_N is asserted the trip is due at once, as an event of its own after the
handling that gave the order (R135, R139, log 1). -/
def tripIfAsserted (d : Device) (l : Nat) : Device := match d.line? l with
  | some x => if x.tripLow then d.addTrip l else d
  | none => d

/-- SOFTSTART order (table 6-2, R136). -/
def orderSoftstart (d : Device) (l : Nat) : Device := match d.line? l with
  | some x => if x.switch = .off then (d.modLine l fun x => { x with switch := .softstart 2 }).tripIfAsserted l else d
  | none => d

/-- PULSE order (table 6-2, R137). -/
def orderPulse (d : Device) (l : Nat) (owner : Claimant) : Device := match d.line? l with
  | some x =>
    if x.switch = .off then
      (d.modLine l fun x => { x with switch := .pulse d.settings.pulseLength owner }).tripIfAsserted l
    else d
  | none => d

/-- Unlatch order (table 6-2, R138). -/
def orderUnlatch (d : Device) (l : Nat) : Device := d.modLine l fun x => match x.switch with
  | .tripped => { x with switch := .off }
  | _ => x

/-- The line of the record at an index. -/
def lineOf (d : Device) (i : Nat) : Option Nat := (d.rec? i).bind Record.line

/-- An order to the line of a record, where it has one. -/
def onLineOf (d : Device) (i : Nat) (order : Device → Nat → Device) : Device := match d.lineOf i with
  | some l => order d l
  | none => d

end Device

/-! ## Slots -/

/-- The slot is held by this record (R58). -/
def Slot.heldBy (s : Slot) (i : Nat) (t : TermId) : Bool := match s.use with
  | .held h => h.index == i && h.id == t
  | _ => false

/-- The slot is FREE. -/
def Slot.isFree (s : Slot) : Bool := s.use == .free

/-- A holder at its assignment: not yet open, nothing queued, no uplink taken, next downlink sequence 1 (R59). -/
def Holder.fresh (i : Nat) (t : TermId) : Holder :=
  { index := i, id := t, isOpen := false, queue := [], nextSeq := 1, lastUp := none, silence := 0 }

/-- The sequence number after another: 1 to 15, never 0 (R61). -/
def seqAfter (n : Nat) : Nat := if n = 15 then 1 else n + 1

/-- The queue less its oldest entry that is neither CUT nor REST (R63). -/
def dropOldest : List QEntry → List QEntry
  | [] => []
  | e :: es => if e.cmd.kind = 5 ∨ e.cmd.kind = 6 then e :: dropOldest es else es

/-- A command posted to a holder's queue: in place of one of its kind (R62), else at the tail (R61), a full queue first
losing its oldest entry that is neither CUT nor REST (R63). -/
def Holder.post (h : Holder) (c : Cmd) : Holder :=
  if h.queue.any fun e => e.cmd.kind == c.kind then
    { h with queue := h.queue.map fun e => if e.cmd.kind = c.kind then { e with cmd := c } else e }
  else
    let q := if h.queue.length < 4 then h.queue else dropOldest h.queue
    { h with queue := q ++ [⟨c, h.nextSeq, 0⟩], nextSeq := seqAfter h.nextSeq }

namespace Device

/-- The entry of terminal slot `n`, 2 to 17. -/
def slot? (d : Device) (n : Nat) : Option Slot := if n < 2 then none else d.riser.slots[n - 2]?

/-- The slot map changed at terminal slot `n`. -/
def modSlot (d : Device) (n : Nat) (f : Slot → Slot) : Device :=
  if n < 2 then d else { d with riser := { d.riser with slots := d.riser.slots.modify (n - 2) f } }

/-- The holder of terminal slot `n` changed, where it is HELD. -/
def modHolder (d : Device) (n : Nat) (f : Holder → Holder) : Device := d.modSlot n fun s => match s.use with
  | .held h => { s with use := .held (f h) }
  | _ => s

/-- The slot HELD by a record (R61). -/
def heldSlot (d : Device) (i : Nat) (t : TermId) : Option Nat :=
  (d.riser.slots.findIdx? fun s => s.heldBy i t).map (· + 2)

/-- The lowest-numbered FREE terminal slot (R59). -/
def lowestFree (d : Device) : Option Nat := (d.riser.slots.findIdx? Slot.isFree).map (· + 2)

/-- A terminal slot is RELEASING. -/
def anyReleasing (d : Device) : Bool := d.riser.slots.any fun s => s.use == .releasing

/-- A command posted to a record: discarded where the record holds no slot (R61). -/
def post (d : Device) (i : Nat) (t : TermId) (c : Cmd) : Device := match d.heldSlot i t with
  | some n => d.modHolder n fun h => h.post c
  | none => d

/-- A FREE slot reserved (R59). -/
def reserveSlot (d : Device) (n : Nat) (c : Claimant) : Device := d.modSlot n fun s => { s with use := .reserved c }

/-- A RESERVED slot freed at once; any other slot is left as it is (R59). -/
def freeSlot (d : Device) (n : Nat) : Device := d.modSlot n fun s => match s.use with
  | .reserved _ => { s with use := .free }
  | _ => s

/-- A slot assigned to a record: its hold number rises, and it is HELD, not yet open (R59). -/
def assignSlot (d : Device) (n : Nat) (i : Nat) (t : TermId) : Device := d.modSlot n fun s =>
  { hold := s.hold + 1, use := .held (.fresh i t) }

/-- The slot that a record holds released: RELEASING, its queue discarded (R60). -/
def releaseSlot (d : Device) (i : Nat) (t : TermId) : Device := match d.heldSlot i t with
  | some n => d.modSlot n fun s => { s with use := .releasing }
  | none => d

/-- The downlink queue of a record's slot is empty (R73). -/
def queueEmpty (d : Device) (i : Nat) (t : TermId) : Bool := match d.heldSlot i t with
  | some n => match (d.slot? n).map Slot.use with
    | some (.held h) => h.queue.isEmpty
    | _ => true
  | none => true

/-- ASSIGN handed over for the next frame (R55). -/
def handAssign (d : Device) (t : TermId) (n : Nat) : Device :=
  { d with riser := { d.riser with assignNext := some (t, n) } }

/-- BACKOFF handed over for the next frame (R55). -/
def handBackoff (d : Device) (t : TermId) : Device := { d with riser := { d.riser with backoffNext := some t } }

/-! ## Leases and claims -/

/-- The lease of the record at an index (R105). -/
def leaseOf (d : Device) (i : Nat) : Option Lease := d.lease.leases.find? fun l => l.index == i

/-- The claim queue entry of the record at an index (R117). -/
def claimOf (d : Device) (i : Nat) : Option ClaimEntry := d.lease.claims.find? fun c => c.index == i

/-- The record at an index has a claim queue entry. -/
def hasClaim (d : Device) (i : Nat) : Bool := (d.claimOf i).isSome

/-- A record's lease changed. -/
def modLease (d : Device) (i : Nat) (f : Lease → Lease) : Device :=
  { d with lease := { d.lease with leases := d.lease.leases.map fun l => if l.index = i then f l else l } }

/-- A record's lease taken out of the table, its steps out of the committed sum (R124 step 1). -/
def removeLease (d : Device) (l : Lease) : Device :=
  { d with lease := { d.lease with
      leases := d.lease.leases.filter fun x => x.index != l.index
      committed := d.lease.committed - l.steps } }

/-- A record's claim queue entry removed. -/
def removeClaim (d : Device) (i : Nat) : Device :=
  { d with lease := { d.lease with claims := d.lease.claims.filter fun c => c.index != i } }

/-- Steps added to the committed sum (R106). -/
def addCommitted (d : Device) (n : Nat) : Device :=
  { d with lease := { d.lease with committed := d.lease.committed + n } }

/-- Steps taken from the committed sum (R106). -/
def subCommitted (d : Device) (n : Nat) : Device :=
  { d with lease := { d.lease with committed := d.lease.committed - n } }

/-- Headroom: the ceiling in force minus the committed sum (R106). -/
def headroom (d : Device) : Nat := d.mode.ceiling - d.lease.committed

/-- The record holds a LIVE lease. -/
def hasLive (d : Device) (i : Nat) : Bool := match d.leaseOf i with
  | some l => l.phase == .live
  | none => false

end Device

/-- The order of the claim queue (R117). -/
def ClaimEntry.before (a b : ClaimEntry) : Bool :=
  if a.cls.rank ≠ b.cls.rank then a.cls.rank < b.cls.rank
  else if a.suspect ≠ b.suspect then a.suspect
  else if a.arrival ≠ b.arrival then a.arrival < b.arrival
  else a.index < b.index

/-- A claim entry put in its place (R117). -/
def insertClaim (c : ClaimEntry) : List ClaimEntry → List ClaimEntry
  | [] => [c]
  | x :: xs => if c.before x then c :: x :: xs else x :: insertClaim c xs

/-- A queue entry ranks ahead of a new claim of this class and suspect flag (R110). -/
def ClaimEntry.ahead (e : ClaimEntry) (cls : Class) (suspect : Bool) : Bool :=
  e.cls.rank < cls.rank || (e.cls.rank == cls.rank && (e.suspect || !suspect))

/-! ## Agenda and channels -/

/-- The order of the agenda (R154). -/
def AgendaEntry.before (a b : AgendaEntry) : Bool :=
  if a.kind ≠ b.kind then a.kind == .host
  else if a.arrival ≠ b.arrival then a.arrival < b.arrival
  else a.index < b.index

/-- An agenda entry put in its place (R154). -/
def insertAgenda (e : AgendaEntry) : List AgendaEntry → List AgendaEntry
  | [] => [e]
  | x :: xs => if e.before x then e :: x :: xs else x :: insertAgenda e xs

namespace Device

/-- The record at an index has an agenda entry. -/
def inAgenda (d : Device) (i : Nat) : Bool := d.test.agenda.any fun e => e.index == i

/-- An agenda entry made (R154). -/
def joinAgenda (d : Device) (i : Nat) (t : TermId) (k : AgendaKind) : Device :=
  { d with test := { d.test with
      agenda := insertAgenda ⟨i, t, k, d.test.arrival⟩ d.test.agenda
      arrival := nextOrder d.test.arrival } }

/-- A wake in hand that names the record cleared (R158). -/
def clearInHand (d : Device) (i : Nat) : Device := match d.test.inHand with
  | some (j, _) => if j = i then { d with test := { d.test with inHand := none } } else d
  | none => d

/-- A record's agenda entry removed, and with it a wake in hand for the record (R154, R158). -/
def removeAgenda (d : Device) (i : Nat) : Device :=
  ({ d with test := { d.test with agenda := d.test.agenda.filter fun e => e.index != i } } : Device).clearInHand i

/-- The channel that holds a record's test (R150). -/
def channelOf (d : Device) (i : Nat) : Option Nat :=
  d.test.channels.findIdx? fun c => match c with
    | some t => t.index == i
    | none => false

/-- The test in a channel. -/
def test? (d : Device) (c : Nat) : Option Test := (d.test.channels[c]?).join

/-- The lowest-numbered FREE channel (R150). -/
def freeChannel (d : Device) : Option Nat := d.test.channels.findIdx? Option.isNone

/-- A channel written. -/
def putChannel (d : Device) (c : Nat) (t : Option Test) : Device :=
  { d with test := { d.test with channels := d.test.channels.set c t } }

/-- The test of a record changed. -/
def modTest (d : Device) (i : Nat) (f : Test → Test) : Device :=
  { d with test := { d.test with channels := d.test.channels.map fun c => match c with
      | some t => if t.index = i then some (f t) else some t
      | none => none } }

/-- A record is idle-eligible (R73). -/
def idleEligible (d : Device) (i : Nat) : Bool := match d.rec? i with
  | some r => r.state == .attached && !d.hasClaim i && !d.inAgenda i && d.queueEmpty i r.id
  | none => false

end Device

end Sys2Proof.Machine
end

