-- ==== Sys2Proof/Machine/Flags.lean ====
section
/-! DEFINITION. Flags and levels the outside sees: the attention set and ATTN_N (R186, R187), the status byte (R174), and
the FEED outputs (R134). -/

namespace Sys2Proof.Machine

/-- The record has a reason in the attention set (R186). -/
def RecReasons.any (r : RecReasons) : Bool :=
  r.quarantined || r.verdict || r.lost || r.rationSpent || r.bound || r.unplaced

/-- The device has a reason in the attention set (R186). -/
def DevReasons.any (r : DevReasons) : Bool := r.restarted.isSome || r.mode || r.level || r.stranger || r.discovery

/-- The second byte of a reason set (R192). -/
def RecReasons.byte (r : RecReasons) : Byte := BitVec.ofNat 8
  (r.quarantined.toNat + 2 * r.verdict.toNat + 4 * r.lost.toNat + 8 * r.rationSpent.toNat + 16 * r.bound.toNat
    + 32 * r.unplaced.toNat)

/-- The first byte of a reason set (R192). -/
def DevReasons.byte (r : DevReasons) : Byte := BitVec.ofNat 8
  (r.restarted.isSome.toNat + 2 * r.mode.toNat + 4 * r.level.toNat + 8 * r.stranger.toNat + 16 * r.discovery.toNat)

/-- The reasons of a record less those whose bits are set in a byte (R189). -/
def RecReasons.clear (r : RecReasons) (b : Byte) : RecReasons :=
  { quarantined := r.quarantined && !b.getLsbD 0, verdict := r.verdict && !b.getLsbD 1, lost := r.lost && !b.getLsbD 2
    rationSpent := r.rationSpent && !b.getLsbD 3, bound := r.bound && !b.getLsbD 4
    unplaced := r.unplaced && !b.getLsbD 5 }

/-- The device reasons less those whose bits are set in a byte; RESTARTED goes whatever its kind (R189). -/
def DevReasons.clear (r : DevReasons) (b : Byte) : DevReasons :=
  { restarted := if b.getLsbD 0 then none else r.restarted, mode := r.mode && !b.getLsbD 1
    level := r.level && !b.getLsbD 2, stranger := r.stranger && !b.getLsbD 3, discovery := r.discovery && !b.getLsbD 4 }

/-- The status code of the port (10.2). -/
def PortStatus.bits : PortStatus → Nat
  | .idle => 0 | .working => 1 | .ready => 2

namespace Device

/-- Device reasons raised (R186). -/
def raiseDev (d : Device) (f : DevReasons → DevReasons) : Device :=
  { d with port := { d.port with device := f d.port.device } }

/-- Record reasons raised; a raise that names another record than the index holds is discarded (R186). -/
def raiseRec (d : Device) (i : Nat) (t : TermId) (f : RecReasons → RecReasons) : Device :=
  if d.names i t then { d with port := { d.port with records := d.port.records.modify i f } } else d

/-- The reasons of the record at an index. -/
def reasonsOf (d : Device) (i : Nat) : RecReasons := d.port.records.getD i .empty

/-- The attention entry of an index removed (R22). -/
def dropReasons (d : Device) (i : Nat) : Device :=
  { d with port := { d.port with records := d.port.records.set i .empty } }

/-- The attention set is not empty (R186). -/
def attention (d : Device) : Bool := d.port.device.any || d.port.records.any RecReasons.any

/-- ATTN_N is driven low (R187): the set is not empty, and VIN is present with no reset held. -/
def attnLow (d : Device) : Bool := d.running && d.attention

/-- The status byte (R174, 10.2): 0101b, attention, overlap mark, port status. -/
def statusByte (d : Device) : Byte := BitVec.ofNat 8
  (80 + 8 * d.attention.toNat + 4 * d.port.overlap.toNat + d.port.status.bits)

end Device

/-- The levels of a FEED output (R134, R193). -/
inductive FeedLevel where
  | off | ramp | full
  deriving DecidableEq, Repr

/-- The level a switch state gives its FEED output (table 6-1). -/
def Switch.level : Switch → FeedLevel
  | .off => .off | .tripped => .off | .softstart _ => .ramp | .pulse _ _ => .full | .on => .full

/-- The level of a line's FEED output: off while VIN is absent or a reset is held (R32, R33, R134). -/
def Device.feedLevel (d : Device) (l : Nat) : FeedLevel :=
  if d.running then match d.line? l with
    | some x => x.switch.level
    | none => .off
  else .off

/-- The word on the riser pair: none while VIN is absent or a reset is held (R32, R33, R53). -/
def Device.riserWord (d : Device) : Option (List Byte) := if d.running then d.riser.drive else none

/-- What SDO carries in byte `k` of a transaction, none where it is undriven: the byte of the last transaction answered, and
nothing past its last byte, or while VIN is absent or a reset is held, when the port does not answer (R32, R33, R173, R193). -/
def Device.sdoByte (d : Device) (k : Nat) : Option Byte := if d.running then (d.port.sdo[k]?).join else none

end Sys2Proof.Machine
end

