-- ==== Sys2Proof/Machine/Transition.lean ====
section
/-! DEFINITION. The Roster's transition requests (R11, table 1-4): what each cause does from each state, and what the Roster
writes with the new state (R5, R10, R14, R80). -/

namespace Sys2Proof.Machine

/-- The causes of table 1-4 that a block or the host port names. -/
inductive Cause where
  | discoveryBound | amendGaveLine | wakeStarted | spontaneousAnnounce | amendRemovedLine | lostLimit
  | matchingAnnounce | windowExpired | attemptAbandoned | attemptsExhausted | trip | leaseGranted | testStarted
  | restDelivered | leaseEnded | secondStrike | testEndedLease | testEndedNoLease | lost | restartTeardown | reinstate
  deriving DecidableEq, Repr

/-- Table 1-4: the state a cause leads to from a state; none where the request is discarded. -/
def Cause.target : Cause → RecState → Option RecState
  | .discoveryBound, .pending => some .attached
  | .amendGaveLine, .pending => some .dormant
  | .wakeStarted, .dormant => some .waking
  | .spontaneousAnnounce, .dormant => some .attached
  | .amendRemovedLine, .dormant => some .pending
  | .amendRemovedLine, .quarantined => some .pending
  | .lostLimit, .dormant => some .quarantined
  | .matchingAnnounce, .waking => some .attached
  | .windowExpired, .waking => some .dormant
  | .attemptAbandoned, .waking => some .dormant
  | .attemptsExhausted, .waking => some .quarantined
  | .trip, .waking => some .quarantined
  | .trip, .attached => some .quarantined
  | .trip, .fed => some .quarantined
  | .trip, .testing => some .quarantined
  | .leaseGranted, .attached => some .fed
  | .testStarted, .attached => some .testing
  | .testStarted, .fed => some .testing
  | .restDelivered, .attached => some .dormant
  | .leaseEnded, .fed => some .attached
  | .secondStrike, .fed => some .quarantined
  | .secondStrike, .testing => some .quarantined
  | .testEndedLease, .testing => some .fed
  | .testEndedNoLease, .testing => some .attached
  | .lost, .attached => some .dormant
  | .lost, .fed => some .dormant
  | .lost, .testing => some .dormant
  | .restartTeardown, .attached => some .dormant
  | .restartTeardown, .fed => some .dormant
  | .restartTeardown, .testing => some .dormant
  | .reinstate, .quarantined => some .dormant
  | _, _ => none

/-- The quarantine reason of a cause that leads to QUARANTINED (table 1-4). -/
def Cause.reason : Cause → Option QReason
  | .lostLimit => some .unstable
  | .attemptsExhausted => some .noWake
  | .trip => some .short
  | .secondStrike => some .overdraw
  | _ => none

/-- The wake timer loaded from the wake interval (R6, R80). -/
def Record.loadWake (r : Record) : Record :=
  { r with wakeTimer := if r.wakeInterval = 0 then none else some r.wakeInterval }

/-- The test timer loaded from the test interval (R6, R152). -/
def Record.loadTest (r : Record) : Record :=
  { r with testTimer := if r.testInterval = 0 then none else some r.testInterval }

/-- A record that enters a state by a cause: the parts that R5 ties to the state, idle frames on leaving ATTACHED (R10),
the quarantine reason (R14) and the wake timer on becoming DORMANT (R80). -/
def Record.enter (r : Record) (c : Cause) (st : RecState) : Record := match st with
  | .pending => { r with state := .pending, reason := none, slot := none, lease := false, idle := 0 }
  | .dormant => ({ r with state := .dormant, reason := none, slot := none, lease := false, idle := 0 } : Record).loadWake
  | .waking => { r with state := .waking, idle := 0 }
  | .attached => { r with state := .attached, lease := false }
  | .fed => { r with state := .fed, lease := true, idle := 0 }
  | .testing => { r with state := .testing, idle := 0 }
  | .quarantined => { r with state := .quarantined, reason := c.reason, slot := none, lease := false, idle := 0 }

namespace Device

/-- A transition request (R11): the device after it where it is taken, none where it is discarded. -/
def transition (d : Device) (i : Nat) (t : TermId) (c : Cause) : Option Device := match d.rec? i with
  | some r => if r.id = t then match c.target r.state with
      | some st => some (d.modRec i fun r => r.enter c st)
      | none => none
    else none
  | none => none

/-- A request whose discard changes nothing. -/
def request (d : Device) (i : Nat) (t : TermId) (c : Cause) : Device := (d.transition i t c).getD d

end Device

end Sys2Proof.Machine
end

