-- ==== Sys2Proof/Machine/Waking.lean ====
section
/-! DEFINITION. The wake queue, its examination, the start of an attempt, the pulse permit and eviction (R82 to R88, R101,
R126). -/

namespace Sys2Proof.Machine

/-- The place of a target among entries that share an arrival order: records by index, then discoveries by line (R84). -/
def WakeTarget.tieBefore : WakeTarget → WakeTarget → Bool
  | .record i _ _, .record j _ _ => i < j
  | .record _ _ _, .discovery _ => true
  | .discovery _, .record _ _ _ => false
  | .discovery l, .discovery m => l < m

/-- The entry is the record entry of this index. -/
def WakeEntry.isRecord (e : WakeEntry) (i : Nat) : Bool := match e.target with
  | .record j _ _ => j == i
  | .discovery _ => false

/-- The entry is the discovery entry of this line. -/
def WakeEntry.isLine (e : WakeEntry) (l : Nat) : Bool := match e.target with
  | .record _ _ _ => false
  | .discovery m => m == l

/-- The entry is a discovery entry. -/
def WakeEntry.isDiscovery (e : WakeEntry) : Bool := match e.target with
  | .record _ _ _ => false
  | .discovery _ => true

/-- The claimant that a target reserves a slot and pulses a line for. -/
def WakeTarget.claimant : WakeTarget → Claimant
  | .record i t _ => .record i t
  | .discovery _ => .discovery

namespace Device

/-- The band of an entry: the rank of its record's class; discoveries stand with STANDARD (R84). -/
def wakeBand (d : Device) (e : WakeEntry) : Nat := match e.target with
  | .record i _ _ => match d.rec? i with
    | some r => r.cls.rank
    | none => 2
  | .discovery _ => 1

/-- The order of the wake queue (R84). -/
def wakeBefore (d : Device) (a b : WakeEntry) : Bool :=
  if d.wakeBand a ≠ d.wakeBand b then d.wakeBand a < d.wakeBand b
  else if a.returned ≠ b.returned then a.returned
  else if a.arrival ≠ b.arrival then if a.returned then b.arrival < a.arrival else a.arrival < b.arrival
  else a.target.tieBefore b.target

/-- The head of the wake queue (R84). -/
def wakeHead (d : Device) : Option WakeEntry :=
  d.wake.queue.foldl (fun best e => match best with
    | some b => if d.wakeBefore e b then some e else some b
    | none => some e) none

/-- The entry that a record has in the wake queue. -/
def wakeEntryOf (d : Device) (i : Nat) : Option WakeEntry := d.wake.queue.find? fun e => e.isRecord i

/-- An entry joins the wake queue with the next arrival order (R82 to R84, R91). -/
def joinWake (d : Device) (t : WakeTarget) (returned : Bool) : Device :=
  { d with wake := { d.wake with
      queue := d.wake.queue ++ [⟨t, d.wake.arrival, returned⟩]
      arrival := nextOrder d.wake.arrival } }

/-- An entry taken out of the wake queue. -/
def dropEntry (d : Device) (e : WakeEntry) : Device :=
  { d with wake := { d.wake with queue := d.wake.queue.filter fun x => x.target != e.target } }

/-- A record's entry taken out of the wake queue. -/
def dropWakeRecord (d : Device) (i : Nat) : Device :=
  { d with wake := { d.wake with queue := d.wake.queue.filter fun x => !x.isRecord i } }

/-- The method of a record's next attempt (R87). -/
def callMethod (d : Device) (r : Record) : CallMethod := match r.method with
  | .mark => .mark
  | .pulse => .pulse
  | .auto => match r.capabilities with
    | some c => if c.markWake && r.failedWakes + 1 < d.settings.wakeAttempts then .mark else .pulse
    | none => .pulse

/-- A pulse permit can be granted: none stands and the headroom covers pulse allowance (R126). -/
def permitOk (d : Device) : Bool := d.lease.permit.isNone && d.settings.pulseAllowance ≤ d.headroom

/-- A pulse permit granted (R126). -/
def grantPermit (d : Device) : Device :=
  { d with lease := { d.lease with
      permit := some d.settings.pulseAllowance
      committed := d.lease.committed + d.settings.pulseAllowance } }

/-- The attempt in progress set (R88). -/
def setAttempt (d : Device) (a : Attempt) : Device := { d with wake := { d.wake with attempt := some a } }

/-- The outstanding eviction set or cleared (R101, R102). -/
def setEviction (d : Device) (e : Option (Nat × TermId)) : Device := { d with wake := { d.wake with eviction := e } }

/-- A record that may be evicted for a head of this rank (R101). -/
def evictable (d : Device) (headRank : Nat) (i : Nat) : Bool := match d.rec? i with
  | some r => d.idleEligible i && headRank ≤ r.cls.rank
  | none => false

/-- The evictable record with the most idle frames, the lowest index among equals (R101). -/
def evictee (d : Device) (headRank : Nat) : Option (Nat × Record) :=
  (List.range 80).foldl (fun best i => match d.rec? i with
    | some r => if d.evictable headRank i then match best with
        | some (_, b) => if b.idle < r.idle then some (i, r) else best
        | none => some (i, r)
      else best
    | none => best) none

/-- The judgement of eviction for a head held back by the slot condition alone (R101). -/
def judgeEviction (d : Device) (headRank : Nat) : Device :=
  if d.wake.eviction.isSome || d.anyReleasing then d
  else match d.evictee headRank with
    | some (i, r) =>
      (d.post i r.id .rest).setEviction (some (i, r.id))
    | none => d

/-- What R86 needs to know of a head: its rank for eviction, its method, its line, whether its mode condition holds. -/
structure HeadView where
  rank   : Nat
  method : CallMethod
  line   : Option Nat
  modeOk : Bool

/-- The view of a head; none for a record entry whose record is gone. -/
def headView (d : Device) (e : WakeEntry) : Option HeadView := match e.target with
  | .record i t _ => match d.rec? i with
    | some r => if r.id = t then some ⟨r.cls.rank, d.callMethod r, r.line, d.mode.mode.inOutage⟩ else none
    | none => none
  | .discovery l => some ⟨1, .pulse, some l, true⟩

/-- The Roster's part in a start: the record goes WAKING with the reserved slot; none where it is discarded (R88). -/
def startTransition (d : Device) (e : WakeEntry) (n : Nat) : Option Device := match e.target with
  | .record i t _ => (d.transition i t .wakeStarted).map fun d => d.modRec i fun r => { r with slot := some n }
  | .discovery _ => some d

/-- The start of a head whose transition is taken (R88). -/
def startAttempt (d : Device) (e : WakeEntry) (v : HeadView) (n : Nat) : Device :=
  let d := if v.method = .pulse then d.grantPermit else d
  let d := (d.reserveSlot n e.target.claimant).dropEntry e
  let d := d.setAttempt ⟨e.target, v.method, n, d.settings.attachWindow, v.method == .pulse, v.method == .pulse⟩
  match v.method, v.line with
  | .pulse, some l => d.orderPulse l e.target.claimant
  | _, _ => d

/-- The examination of the head (R85, R86). A head whose transition the Roster discards is dropped and the next is
examined (R88); the fuel is the number of entries. -/
def examineLoop : Nat → Device → Device
  | 0, d => d
  | fuel + 1, d =>
    if d.wake.attempt.isSome then d
    else match d.wakeHead with
      | none => d
      | some e => match d.headView e with
        | none => examineLoop fuel (d.dropEntry e)
        | some v =>
          if !v.modeOk then d
          else if v.method = .pulse ∧ d.mode.level = .exhausted then d
          else match d.lowestFree with
            | none => d.judgeEviction v.rank
            | some n =>
              if v.method = .pulse ∧ !d.permitOk then d
              else match d.startTransition e n with
                | none => examineLoop fuel (d.dropEntry e)
                | some d' => d'.startAttempt e v n

/-- An examination of the wake queue head (R85). -/
def examineWake (d : Device) : Device := examineLoop (d.wake.queue.length + 1) d

/-- After a join, removal or move that made `d'` of `d`: an examination where the head has changed (R84). -/
def headCheck (d d' : Device) : Device := if d'.wakeHead = d.wakeHead then d' else d'.examineWake

/-- How a request for a record entry is judged (R82). -/
inductive EntryAnswer where
  | refused | queued | taken
  deriving DecidableEq, Repr

/-- The judgement of a request for a record entry (R82). -/
def judgeEntry (d : Device) (i : Nat) (t : TermId) : EntryAnswer :=
  if !(d.names i t) || !(d.inState i .dormant) || !d.mode.mode.inOutage then .refused
  else if (d.wakeEntryOf i).isSome then .queued else .taken

/-- A record entry made where the request is taken, with no examination. -/
def joinEntry (d : Device) (i : Nat) (t : TermId) (p : Purpose) : Device :=
  if d.judgeEntry i t = .taken then d.joinWake (.record i t p) false else d

/-- A request for a record entry (R82), with the examination that a change of head calls for (R84). -/
def requestEntry (d : Device) (i : Nat) (t : TermId) (p : Purpose) : Device := headCheck d (d.joinEntry i t p)

/-- A line counts as taken (R3). -/
def lineTaken (d : Device) (l : Nat) : Bool :=
  (match d.line? l with
    | some x => x.binding.isSome
    | none => false)
  || d.wake.queue.any (fun e => e.isLine l)
  || (match d.wake.attempt with
    | some a => match a.target with
      | .discovery m => m == l
      | .record _ _ _ => false
    | none => false)

/-- An outstanding eviction of this record completes, and the head is examined (R102). -/
def completeEviction (d : Device) (i : Nat) (t : TermId) : Device :=
  if d.wake.eviction = some (i, t) then (d.setEviction none).examineWake else d

end Device

end Sys2Proof.Machine
end

