-- ==== Sys2Proof/Machine/Agenda.lean ====
section
/-! DEFINITION. The examination of the agenda: which tests start, and the test wake (R156 to R159). -/

namespace Sys2Proof.Machine.Device

/-- Conditions 3 and 4 of R157, for a record. -/
def testable (d : Device) (r : Record) : Bool :=
  (match r.report with
    | some b => d.settings.testFloor ≤ b.voltage
    | none => true)
  && (match d.mode.level with
    | .normal => true
    | .low => r.cls != .lifeline
    | .critical => false
    | .exhausted => false)

/-- An agenda entry is eligible (R157). -/
def eligible (d : Device) (e : AgendaEntry) : Bool := match d.rec? e.index with
  | some r => d.mode.mode == .outage && r.id == e.id
      && ((r.state == .attached && !d.hasClaim e.index) || r.state == .fed) && d.testable r
  | none => false

/-- The start of a test on a channel (R159). -/
def startTest (d : Device) (e : AgendaEntry) (c : Nat) : Device := match d.transition e.index e.id .testStarted with
  | none => d
  | some d' =>
    let d' := d'.putChannel c (some
      { index := e.index, id := e.id, phase := .beginning, countdown := d.settings.testWindow
        leaseHeld := d.inState e.index .fed, startV := none, lastV := none })
    (d'.removeAgenda e.index).post e.index e.id (.testBegin d.settings.testWindow)

/-- One entry met on the walk of R157. -/
def walkEntry (d : Device) (e : AgendaEntry) : Device :=
  if d.eligible e then match d.freeChannel with
    | some c => d.startTest e c
    | none => d
  else d

/-- The first entry that a test wake may be asked for (R158). -/
def wakeCandidate (d : Device) : Option AgendaEntry := d.test.agenda.find? fun e => match d.rec? e.index with
  | some r => r.id == e.id && r.state == .dormant && d.mode.mode == .outage && d.testable r
  | none => false

/-- A record placed in hand (R158). -/
def setInHand (d : Device) (i : Nat) (t : TermId) : Device := { d with test := { d.test with inHand := some (i, t) } }

/-- The test wake of R158. -/
def testWake (d : Device) : Device :=
  if d.freeChannel.isSome && d.test.inHand.isNone then match d.wakeCandidate with
    | some e =>
      if d.judgeEntry e.index e.id = .refused then d
      else (d.setInHand e.index e.id).requestEntry e.index e.id .test
    | none => d
  else d

/-- The examination of the agenda (R156): the walk of R157, then the test wake of R158. -/
def examineAgenda (d : Device) : Device :=
  if d.test.agenda.isEmpty then d else (d.test.agenda.foldl walkEntry d).testWake

end Sys2Proof.Machine.Device
end

