-- ==== Sys2Proof/Machine/Leasing.lean ====
section
/-! DEFINITION. The Lease Manager: grants and queue service (R112, R118), the claim intake (R108 to R116), lease ends (R124),
the return of a permit (R126), suspension and resume (R130, R131). -/

namespace Sys2Proof.Machine

/-- Reasons a lease ends (table 5-5). -/
inductive LeaseEnd where
  | expired | released | ration | shed | mains | lost | quarantine | retire
  deriving DecidableEq, Repr

/-- The CUT posted at a lease end (table 5-5). -/
def LeaseEnd.cut : LeaseEnd → Option CutReason
  | .expired => some .expired
  | .ration => some .ration
  | .shed => some .shed
  | .mains => some .mains
  | .released => none
  | .lost => none
  | .quarantine => none
  | .retire => none

namespace Device

/-- A lease entry made, with the next grant order and a countdown of lease length (R107, R112 step 3). -/
def addLease (d : Device) (i : Nat) (t : TermId) (steps : Nat) (cls : Class) : Device :=
  { d with lease := { d.lease with
      leases := d.lease.leases ++ [⟨i, t, steps, cls, d.lease.grantOrder, .live, d.settings.leaseLength, 0⟩]
      grantOrder := nextOrder d.lease.grantOrder } }

/-- A grant (R112): where the Roster takes the request, a lease is made, the line soft-starts and GRANT is posted; where it
discards it, no lease is made. In both cases a claim queue entry of the record goes. -/
def grant (d : Device) (i : Nat) (t : TermId) (steps : Nat) : Device := match d.transition i t .leaseGranted with
  | none => d.removeClaim i
  | some d' =>
    let cls := ((d.rec? i).map Record.cls).getD .deferrable
    let d' := (d'.removeClaim i).addCommitted steps
    let d' := d'.addLease i t steps cls
    (d'.onLineOf i orderSoftstart).post i t (.grant steps)

/-- Service of the claim queue (R118): the head is granted while the headroom covers it. -/
def serveLoop : Nat → Device → Device
  | 0, d => d
  | fuel + 1, d => match d.lease.claims with
    | [] => d
    | c :: _ => if c.steps ≤ d.headroom then serveLoop fuel (d.grant c.index c.id c.steps) else d

/-- Where a service made one of these claims' agenda records FED, the agenda is examined (R156). -/
def examineIfGranted (d : Device) (claims : List ClaimEntry) : Device :=
  if claims.any fun c => d.inAgenda c.index && d.inState c.index .fed then d.examineAgenda else d

/-- Service of the claim queue, the report of the headroom to the Wake Sequencer (R118), and the agenda examination that a
grant to an agenda record calls for (R156; log 16). -/
def serve (d : Device) : Device :=
  ((d.serveLoop d.lease.claims.length).examineWake).examineIfGranted d.lease.claims

/-- A record's claim queue entry removed with an answer, without service. -/
def deferClaim (d : Device) (c : ClaimEntry) (why : DeferReason) : Device :=
  (d.removeClaim c.index).post c.index c.id (.defer why)

/-- A record's claim queue entry removed without an answer, and the queue served, where it has one (table 5-4). -/
def dropClaim (d : Device) (i : Nat) : Device := if d.hasClaim i then (d.removeClaim i).serve else d

/-- The record's part in a lease end (R124 step 3): a FED record goes ATTACHED; a TESTING record stays, its lease field and
its channel's lease held field cleared (R150). -/
def leaseEndRecord (d : Device) (i : Nat) (t : TermId) : Device :=
  if d.inState i .fed then d.request i t .leaseEnded
  else (d.modRec i fun r => { r with lease := false }).modTest i fun x => { x with leaseHeld := false }

/-- Steps 1 to 4 of a lease end (R124). -/
def endLeaseQuiet (d : Device) (l : Lease) (why : LeaseEnd) : Device :=
  let d := d.removeLease l
  let d := if l.phase = .live then d.onLineOf l.index orderOff else d
  let d := d.leaseEndRecord l.index l.id
  match why.cut with
  | some c => d.post l.index l.id (.cut c)
  | none => d

/-- A lease end whole (R124), where the record has a lease. -/
def endLease (d : Device) (i : Nat) (why : LeaseEnd) : Device := match d.leaseOf i with
  | some l => (d.endLeaseQuiet l why).serve
  | none => d

/-! ## Claims -/

/-- The first failing check of R109. -/
def claimCheck (d : Device) (r : Record) (steps : Nat) : Option DeferReason :=
  if !d.mode.mode.inOutage then some .mains
  else if d.mode.level.bars r.cls then some .classBarred
  else if r.rationSpent then some .ration
  else if steps = 0 ∨ r.cap < steps then some .overCap
  else none

/-- A claim entry made, with the next claim arrival order and a wait of claim wait (R111). -/
def addClaim (d : Device) (i : Nat) (r : Record) (steps : Nat) : Device :=
  { d with lease := { d.lease with
      claims := insertClaim ⟨i, r.id, steps, r.cls, r.suspect, d.lease.claimArrival, d.settings.claimWait⟩ d.lease.claims
      claimArrival := nextOrder d.lease.claimArrival } }

/-- The steps of a record's claim entry replaced (R113). -/
def setClaimSteps (d : Device) (i steps : Nat) : Device :=
  { d with lease := { d.lease with
      claims := d.lease.claims.map fun e => if e.index = i then { e with steps := steps } else e } }

/-- A new claim that is not granted joins the queue (R111). -/
def joinClaim (d : Device) (i : Nat) (r : Record) (steps : Nat) : Device :=
  ((d.addClaim i r steps).post i r.id .queued).serve

/-- A new claim that has passed its checks (R110). -/
def judgeClaim (d : Device) (i : Nat) (r : Record) (steps : Nat) : Device :=
  if !(d.lease.claims.any fun e => e.ahead r.cls r.suspect) && steps ≤ d.headroom then
    let d' := d.grant i r.id steps
    if d'.inAgenda i && d'.inState i .fed then d'.examineAgenda else d'
  else d.joinClaim i r steps

/-- A claim from an ATTACHED record: new (R109, R110) or an update of its entry (R113). -/
def attachedClaim (d : Device) (i : Nat) (r : Record) (steps : Nat) : Device := match d.claimOf i, d.claimCheck r steps with
  | none, some why => d.post i r.id (.defer why)
  | none, none => d.judgeClaim i r steps
  | some c, some why => (d.deferClaim c why).serve
  | some _, none => ((d.setClaimSteps i steps).post i r.id .queued).serve

/-- A claim from a FED record: a resize of its lease, which it renews (R114). -/
def resizeClaim (d : Device) (i : Nat) (r : Record) (l : Lease) (steps : Nat) : Device :=
  let d := d.modLease i fun x => { x with countdown := d.settings.leaseLength }
  if steps = 0 ∨ r.cap < steps then d.post i r.id (.defer .overCap)
  else if steps < l.steps then
    let d := (d.modLease i fun x => { x with steps := steps }).subCommitted (l.steps - steps)
    (d.post i r.id (.grant steps)).serve
  else if steps = l.steps then d.post i r.id (.grant steps)
  else if steps - l.steps ≤ d.headroom && !(d.lease.claims.any fun e => e.cls.rank < l.cls.rank) then
    let d := (d.modLease i fun x => { x with steps := steps }).addCommitted (steps - l.steps)
    d.post i r.id (.grant steps)
  else d.post i r.id (.defer .noHeadroom)

/-- A claim from a TESTING record (R115). -/
def testingClaim (d : Device) (i : Nat) (r : Record) : Device :=
  let d := if d.hasLive i then d.modLease i fun x => { x with countdown := d.settings.leaseLength } else d
  d.post i r.id (.defer .testing)

/-- The claim intake (R108): a claim for an index that does not hold the ID, or in another state, is discarded. -/
def takeClaim (d : Device) (i : Nat) (t : TermId) (steps : Nat) : Device := match d.rec? i with
  | some r =>
    if r.id = t then match r.state with
      | .attached => d.attachedClaim i r steps
      | .fed => match d.leaseOf i with
        | some l => d.resizeClaim i r l steps
        | none => d
      | .testing => d.testingClaim i r
      | .pending => d
      | .dormant => d
      | .waking => d
      | .quarantined => d
    else d
  | none => d

/-- The steps of an automatic claim: the demand, lowered to the claim cap (R116). -/
def autoSteps (r : Record) : Nat :=
  min (match r.capabilities with
    | some c => c.demand
    | none => r.cls.defaultDemand) r.cap

/-- An automatic claim (R116). -/
def autoClaim (d : Device) (i : Nat) (t : TermId) : Device := match d.rec? i with
  | some r => d.takeClaim i t (autoSteps r)
  | none => d

/-- The Lease Manager's part in a REPORT (R116). -/
def leaseReport (d : Device) (i : Nat) (t : TermId) (cutoffNear : Bool) : Device :=
  if cutoffNear && d.mode.mode.inOutage && d.inState i .attached && !d.hasClaim i then d.autoClaim i t else d

/-- A RENEW (R121). -/
def takeRenew (d : Device) (i : Nat) (t : TermId) : Device := match d.rec? i with
  | some r =>
    if r.id = t then match r.state with
      | .fed => d.modLease i fun x => { x with countdown := d.settings.leaseLength }
      | .testing =>
        if d.hasLive i then d.modLease i fun x => { x with countdown := d.settings.leaseLength } else d
      | .attached => if d.hasClaim i then d.post i t .queued else d.post i t (.defer .noLease)
      | .pending => d
      | .dormant => d
      | .waking => d
      | .quarantined => d
    else d
  | none => d

/-- A RELEASE (R123). -/
def takeRelease (d : Device) (i : Nat) (t : TermId) : Device := match d.rec? i with
  | some r =>
    if r.id = t then match r.state with
      | .fed => d.endLease i .released
      | .testing => d.endLease i .released
      | .attached => d.dropClaim i
      | .pending => d
      | .dormant => d
      | .waking => d
      | .quarantined => d
    else d
  | none => d

/-! ## Permit, suspension, resume -/

/-- The standing permit's steps taken out of the committed sum, without service (R126). -/
def clearPermit (d : Device) : Device := match d.lease.permit with
  | some n => { d with lease := { d.lease with permit := none, committed := d.lease.committed - n } }
  | none => d

/-- A permit returned (R126): no effect where none stands. -/
def returnPermit (d : Device) : Device := match d.lease.permit with
  | some _ => d.clearPermit.serve
  | none => d

/-- Suspension of a LIVE lease (R130). -/
def suspend (d : Device) (i : Nat) : Device :=
  if d.hasLive i then (d.modLease i fun x => { x with phase := .suspended }).onLineOf i orderOff else d

/-- Resume of a lease (R131): a SUSPENDED lease becomes LIVE, reloaded, and its line soft-starts. -/
def resume (d : Device) (i : Nat) : Device := match d.leaseOf i with
  | some l =>
    if l.phase = .suspended then
      (d.modLease i fun x => { x with phase := .live, countdown := d.settings.leaseLength }).onLineOf i orderSoftstart
    else d
  | none => d

end Device

end Sys2Proof.Machine
end

