-- ==== Sys2Proof/Machine/Teardown.lean ====
section
/-! DEFINITION. The end of attempts and pulses (R89 to R92), the teardown of quarantine and retirement (R14, R22), LOST
(R75 to R77), the teardown of a restarted terminal (R97) and the delivery of REST (R74). -/

namespace Sys2Proof.Machine.Device

/-! ## Pulses and attempts -/

/-- The line that an attempt's target pulses. -/
def targetLine (d : Device) (t : WakeTarget) : Option Nat := match t with
  | .record i _ _ => d.lineOf i
  | .discovery l => some l

/-- The attempt in progress with its pulse marked ended and its permit given back (R79, R89). -/
def pulseOver (d : Device) : Device :=
  { d with wake := { d.wake with attempt := d.wake.attempt.map fun a => { a with pulsing := false, permit := false } } }

/-- A pulse still running stopped: the switch OFF and the permit returned (R89). -/
def stopPulse (d : Device) : Device := match d.wake.attempt with
  | some a =>
    if a.pulsing then
      let d := match d.targetLine a.target with
        | some l => d.orderOff l
        | none => d
      d.pulseOver.returnPermit
    else d
  | none => d

/-- No attempt in progress. -/
def clearAttempt (d : Device) : Device := { d with wake := { d.wake with attempt := none } }

/-- The Line Feed Unit's report of a pulse's end on a line: the permit is returned (R89, R137). -/
def reportPulseEnd (d : Device) (l : Nat) : Device := match d.wake.attempt with
  | some a => if a.pulsing && d.targetLine a.target == some l then d.pulseOver.returnPermit else d
  | none => d

/-- The attempt in progress is for this record. -/
def attemptFor (d : Device) (i : Nat) : Bool := match d.wake.attempt with
  | some a => match a.target with
    | .record j _ _ => j == i
    | .discovery _ => false
  | none => false

/-- A record attempt abandoned, uncounted: pulse stopped, permit returned, slot freed at once, head examined (R14 step 4,
R92). The Roster's part is the caller's. -/
def abandonAttempt (d : Device) : Device := match d.wake.attempt with
  | some a => ((d.stopPulse.freeSlot a.slot).clearAttempt).examineWake
  | none => d

/-- The abandonment of the attempt or discovery whose permit shedding withdrew (R91): pulse stopped, slot freed, a record
DORMANT again, its entry made again as returned. The examination follows when shedding is complete (log 15). -/
def abandonReturned (d : Device) : Device := match d.wake.attempt with
  | some a =>
    if a.permit then
      let d := match d.targetLine a.target with
        | some l => d.orderOff l
        | none => d
      let d := (d.freeSlot a.slot).clearAttempt
      match a.target with
      | .record i t p => match d.transition i t .attemptAbandoned with
        | some d' => d'.joinWake (.record i t p) true
        | none => d
      | .discovery l => d.joinWake (.discovery l) true
    else d
  | none => d

/-! ## Teardown of quarantine and retirement -/

/-- Step 3 of the teardown (R14, R169): the record's channel freed and its agenda entry removed, nothing stored; where one of
the two was there, the agenda is examined, before steps 4 to 6 (log 37). -/
def dropTest (d : Device) (i : Nat) : Device :=
  let had := (d.channelOf i).isSome || d.inAgenda i
  let d := match d.channelOf i with
    | some c => d.putChannel c none
    | none => d
  let d := d.removeAgenda i
  if had then d.examineAgenda else d

/-- Step 4 of the teardown (R14): the record's wake queue entry removed, its attempt abandoned. -/
def dropWake (d : Device) (i : Nat) : Device :=
  let d := headCheck d (d.dropWakeRecord i)
  if d.attemptFor i then d.abandonAttempt else d

/-- Steps 1 to 6 of the teardown (R14), and then, last, the end of an eviction that names the record, with its examination of the
head (R102; log 41). -/
def teardown (d : Device) (i : Nat) (t : TermId) (why : LeaseEnd) : Device :=
  let d := (d.endLease i why).dropClaim i
  let d := (d.dropTest i).dropWake i
  let d := (d.releaseSlot i t).onLineOf i orderOff
  d.completeEviction i t

/-- A quarantine: the transition and, where it is taken, the teardown and QUARANTINED raised (R14); none where it is
discarded. -/
def quarantine (d : Device) (i : Nat) (t : TermId) (c : Cause) : Option Device :=
  (d.transition i t c).map fun d =>
    (d.raiseRec i t fun r => { r with quarantined := true }).teardown i t .quarantine

/-- The attention raise is the last step of the teardown (R14 step 7); it touches the attention set alone. -/
def quarantineD (d : Device) (i : Nat) (t : TermId) (c : Cause) : Device := (d.quarantine i t c).getD d

/-! ## LOST, restart, REST -/

/-- The abort of a test by LOST or restart (R167): ABORTED(LOST) stored, the channel freed, the agenda examined. -/
def abortLost (d : Device) (i : Nat) : Device := match d.channelOf i with
  | some c =>
    let d := d.modRec i fun r => { r with lastOutcome := some (.aborted .lost) }
    (d.putChannel c none).examineAgenda
  | none => d

/-- What LOST and the teardown of a restarted terminal share (R76, R97): slot, lease, claim, test, eviction, in this order (log
40). -/
def lostTeardown (d : Device) (i : Nat) (t : TermId) : Device :=
  let d := ((d.releaseSlot i t).endLease i .lost).dropClaim i
  (d.abortLost i).completeEviction i t

/-- The judgement of lost this outage (R77). -/
def judgeLost (d : Device) (i : Nat) (t : TermId) : Device := match d.rec? i with
  | some r =>
    if d.settings.lostLimit ≤ r.lost then d.quarantineD i t .lostLimit
    else if r.cls = .lifeline ∧ d.mode.mode = .outage then d.requestEntry i t .rewake
    else d
  | none => d

/-- The holder of a slot declared LOST (R75 to R77). -/
def declareLost (d : Device) (i : Nat) (t : TermId) : Device := match d.transition i t .lost with
  | some d =>
    let d := d.modRec i fun r => { r with lost := min (r.lost + 1) 15 }
    let d := d.raiseRec i t fun r => { r with lost := true }
    (d.lostTeardown i t).judgeLost i t
  | none => d

/-- The teardown of a restarted terminal (R97). -/
def restartTeardown (d : Device) (i : Nat) (t : TermId) : Device := match d.transition i t .restartTeardown with
  | some d => d.lostTeardown i t
  | none => d

/-- A delivered REST (R74): whether the Roster took it, and the device after. -/
def restDelivered (d : Device) (i : Nat) (t : TermId) : Option Device :=
  (d.transition i t .restDelivered).map fun d => ((d.releaseSlot i t).dropClaim i).completeEviction i t

/-! ## Retirement -/

/-- Charge moved to the unattributed counter (R27). -/
def addUnattributed (d : Device) (n : Nat) : Device :=
  { d with roster := { d.roster with unattributed := min (d.roster.unattributed + n) maxCharge } }

/-- RETIRE of the record at an index (R22): out of service as the teardown of R14 has it, with no attention raised; the
switch unlatched; charge moved, line unbound, attention entry and record removed. The record stands QUARANTINED while the
teardown runs, so that no request of the teardown's own acts on it. -/
def retireRecord (d : Device) (i : Nat) : Device := match d.rec? i with
  | some r =>
    let d := d.modRec i fun r => { r with state := .quarantined, slot := none, lease := false, idle := 0 }
    let d := (d.teardown i r.id .retire).onLineOf i orderUnlatch
    let d := d.addUnattributed r.charge
    let d := match r.line with
      | some l => d.modLine l fun x => { x with binding := none }
      | none => d
    (d.dropReasons i).putRec i none
  | none => d

end Sys2Proof.Machine.Device
end

