-- ==== Sys2Proof/Machine/Testing.lean ====
section
/-! DEFINITION. The Test Engine's tests: the delivery of TEST_BEGIN (R160), reports (R161, R162), verdicts (R163) and the end
of a test (R164 to R166). -/

namespace Sys2Proof.Machine

/-- The verdict of a drop (table 7-3). -/
def judgeDrop (s : Settings) (drop : Nat) : Verdict :=
  if drop ≤ s.passDrop then .pass else if drop ≤ s.weakDrop then .weak else .fail

/-- The suspect flag after a verdict (R165). -/
def Verdict.suspect (v : Verdict) (was : Bool) : Bool := match v with
  | .fail => true
  | .pass => false
  | .weak => was

/-- The test result fields after an outcome (R165). -/
def Record.storeOutcome (r : Record) (o : TestOutcome) (drop : Nat) : Record := match o with
  | .verdict v => { r with lastOutcome := some o, verdict := some (v, drop), suspect := v.suspect r.suspect,
                           tests := min (r.tests + 1) 255 }
  | .aborted _ => { r with lastOutcome := some o }

namespace Device

/-- The results of a test stored, and VERDICT raised for a verdict (R165). -/
def storeOutcome (d : Device) (i : Nat) (t : TermId) (o : TestOutcome) (drop : Nat) : Device :=
  let d := d.modRec i fun r => r.storeOutcome o drop
  match o with
  | .verdict _ => d.raiseRec i t fun r => { r with verdict := true }
  | .aborted _ => d

/-- Steps 1 to 3 of a test's end (R164): the lease resumed, and the record FED or ATTACHED. -/
def resumeRecord (d : Device) (i : Nat) (t : TermId) : Device :=
  let d := d.resume i
  d.request i t (if (d.leaseOf i).isSome then .testEndedLease else .testEndedNoLease)

/-- The record's battery report shows cutoff-near set (R166). -/
def nearCutoff (d : Device) (i : Nat) : Bool := match (d.rec? i).bind Record.report with
  | some b => b.cutoffNear
  | none => false

/-- Steps 1 to 5 of a test's end (R164): resume, record, results, TEST_END posted. -/
def closeTest (d : Device) (t : Test) (o : TestOutcome) (drop : Nat) : Device :=
  ((d.resumeRecord t.index t.id).storeOutcome t.index t.id o drop).post t.index t.id (.testEnd o)

/-- The end of the test in a channel (R164), with the automatic claim of R166. -/
def endTest (d : Device) (c : Nat) (t : Test) (o : TestOutcome) (drop : Nat) (byCutoff : Bool) : Device :=
  let d := d.closeTest t o drop
  let d := if d.inState t.index .attached && (byCutoff || d.nearCutoff t.index) then d.autoClaim t.index t.id else d
  (d.putChannel c none).examineAgenda

/-- The abort of the test in a channel at outage end (R168): no automatic claim, no examination. -/
def endTestMains (d : Device) (c : Nat) : Device := match d.test? c with
  | some t => (d.closeTest t (.aborted .mains) 0).putChannel c none
  | none => d

/-- A delivered TEST_BEGIN with its window (R160). -/
def testBegun (d : Device) (i : Nat) (window : Nat) : Device := match (d.channelOf i).bind d.test? with
  | some t =>
    if t.phase = .beginning then
      (d.modTest i fun x => { x with phase := .running, countdown := window }).suspend i
    else d
  | none => d

/-- A report in a test's RUNNING phase (R162). -/
def runningReport (d : Device) (c : Nat) (t : Test) (b : BatteryReport) : Device := match t.startV with
  | none =>
    let t' : Test := { t with startV := some b.voltage, lastV := some b.voltage }
    let d := d.putChannel c (some t')
    if b.voltage < d.settings.testFloor then d.endTest c t' (.aborted .lowStart) 0 b.cutoffNear
    else if b.cutoffNear then d.endTest c t' (.verdict .fail) 0 true
    else d
  | some v =>
    let t' : Test := { t with lastV := some b.voltage }
    let d := d.putChannel c (some t')
    if b.cutoffNear then d.endTest c t' (.verdict .fail) (v - b.voltage) true else d

/-- The Test Engine's part in a REPORT (R161, R162). -/
def testReport (d : Device) (i : Nat) (b : BatteryReport) : Device := match d.channelOf i with
  | some c => match d.test? c with
    | some t => match t.phase with
      | .beginning => if b.cutoffNear then d.endTest c t (.aborted .lowStart) 0 true else d
      | .running => d.runningReport c t b
    | none => d
  | none => d

/-- The countdown of a channel's test has reached 0 (R161, R163). -/
def testExpired (d : Device) (c : Nat) (phase : TestPhase) : Device := match d.test? c with
  | some t =>
    if t.phase = phase ∧ t.countdown = 0 then match phase, t.startV, t.lastV with
      | .running, some a, some b => d.endTest c t (.verdict (judgeDrop d.settings (a - b))) (a - b) false
      | .running, _, _ => d.endTest c t (.aborted .noReport) 0 false
      | .beginning, _, _ => d.endTest c t (.aborted .noReport) 0 false
    else d
  | none => d

end Device

end Sys2Proof.Machine
end

