-- ==== Sys2Proof/Machine/Reserve.lean ====
section
/-! DEFINITION. Shedding (R127), changes of level and ceiling (R45 to R51), and outage start, end and minute (R39 to R43). -/

namespace Sys2Proof.Machine

/-- The ceiling of a level (R47). -/
def Settings.ceilingOf (s : Settings) : Level → Nat
  | .normal => s.normalCeiling | .low => s.lowCeiling | .critical => s.criticalCeiling | .exhausted => 0

/-- The next lower level. -/
def Level.lower : Level → Level
  | .normal => .low | .low => .critical | .critical => .exhausted | .exhausted => .exhausted

/-- The next higher level. -/
def Level.higher : Level → Level
  | .normal => .normal | .low => .normal | .critical => .low | .exhausted => .critical

/-- The enter threshold of the next lower level, absent in EXHAUSTED (R45). -/
def Settings.enterBelow (s : Settings) : Level → Option Nat
  | .normal => some s.lowEnter | .low => some s.criticalEnter | .critical => some s.exhaustedEnter | .exhausted => none

/-- The leave threshold of a level, absent in NORMAL (R45). -/
def Settings.leaveAbove (s : Settings) : Level → Option Nat
  | .normal => none | .low => some s.lowLeave | .critical => some s.criticalLeave | .exhausted => some s.exhaustedLeave

/-- The evidence of a measurement against a level (R45). -/
def Settings.evidence (s : Settings) (l : Level) (v : Nat) : Evidence :=
  if (s.enterBelow l).any (fun t => v < t) then .down
  else if (s.leaveAbove l).any (fun t => t < v) then .up
  else .none

/-- The kept evidence and confirm count after a measurement (R45). -/
def ModeCtl.measure (m : ModeCtl) (s : Settings) (v : Nat) : ModeCtl := match s.evidence m.level v with
  | .none => { m with evidence := .none, confirm := 0 }
  | e => if e = m.evidence then { m with confirm := m.confirm + 1 } else { m with evidence := e, confirm := 1 }

/-- A lease is cut before another: lower class, then higher grant order, then higher index (R127 step 4). -/
def Lease.cutBefore (a b : Lease) : Bool :=
  if a.cls.rank ≠ b.cls.rank then b.cls.rank < a.cls.rank
  else if a.order ≠ b.order then b.order < a.order
  else b.index < a.index

namespace Device

/-- The lease that the fit step of shedding cuts next. -/
def nextCut (d : Device) : Option Lease :=
  d.lease.leases.foldl (fun best l => match best with
    | some b => if l.cutBefore b then some l else some b
    | none => some l) none

/-- Step 1 of shedding: a standing permit withdrawn, and its attempt abandoned (R127, R91). -/
def shedPermit (d : Device) : Device := match d.lease.permit with
  | some _ => d.clearPermit.abandonReturned
  | none => d

/-- Step 2 of shedding: the leases of barred classes. -/
def shedLeases (d : Device) : Device :=
  d.lease.leases.foldl (fun d l => if d.mode.level.bars l.cls then d.endLeaseQuiet l .shed else d) d

/-- Step 3 of shedding: the claims of barred classes. -/
def shedClaims (d : Device) : Device :=
  d.lease.claims.foldl (fun d c => if d.mode.level.bars c.cls then d.deferClaim c .classBarred else d) d

/-- Step 4 of shedding: leases cut until the committed sum fits the ceiling in force. -/
def fitLoop : Nat → Device → Device
  | 0, d => d
  | fuel + 1, d =>
    if d.mode.ceiling < d.lease.committed then match d.nextCut with
      | some l => fitLoop fuel (d.endLeaseQuiet l .shed)
      | none => d
    else d

/-- Shedding (R127). -/
def shed (d : Device) : Device :=
  let d := ((d.shedPermit).shedLeases).shedClaims
  (d.fitLoop d.lease.leases.length).serve

/-- The level change that the confirm count has reached (R45, R46, R49). At a rise the head of the wake queue is examined before
the agenda (log 33). -/
def changeLevel (d : Device) : Device :=
  let go (l : Level) : Device :=
    ({ d with mode := { d.mode with level := l, evidence := .none, confirm := 0, ceiling := d.settings.ceilingOf l } }
      : Device).raiseDev fun r => { r with level := true }
  match d.mode.evidence with
  | .down => ((go d.mode.level.lower).shed).examineWake
  | .up => (((go d.mode.level.higher).serve).examineWake).examineAgenda
  | .none => d

/-- The ration judgement of one record (R125). -/
def judgeRation (d : Device) (i : Nat) : Device := match d.rec? i with
  | some r =>
    if r.ration ≠ 0 ∧ r.rationSpent = false ∧ r.ration * chargePerMAh ≤ r.charge then
      let d := d.modRec i fun r => { r with rationSpent := true }
      let d := d.raiseRec i r.id fun r => { r with rationSpent := true }
      let d := d.endLease i .ration
      match d.claimOf i with
      | some c => (d.deferClaim c .ration).serve
      | none => d
    else d
  | none => d

/-- The ration judgement of every record, in rising index order (R125). -/
def judgeRations (d : Device) : Device := (List.range 80).foldl judgeRation d

end Device

/-! ## Outage start, end and minute -/

/-- The Roster's part in outage start, for one record (R28), with the wake timer of a DORMANT record and the test timer
loaded (R103, R152). -/
def Record.outageStart (r : Record) : Record :=
  let r := { r with charge := 0, rationSpent := false, lost := 0, tests := 0 }
  let r := if r.state = .dormant then r.loadWake else r
  r.loadTest

/-- The timers of one record at an outage minute (R81, R153). -/
def Record.minute (r : Record) : Record :=
  let r := if r.state = .dormant then { r with wakeTimer := r.wakeTimer.map (· - 1) } else r
  if r.state = .pending ∨ r.state = .quarantined then r else { r with testTimer := r.testTimer.map (· - 1) }

namespace Device

/-- Outage start in the controller and the Lease Manager (R36, R39, R132). -/
def outageMode (d : Device) : Device :=
  ({ d with
    mode := { d.mode with mode := .outage, lowCount := 0, tally := 0, minutes := 0, framesToMinute := 600 }
    lease := { d.lease with grantOrder := 1 } } : Device).raiseDev fun r => { r with mode := true }

/-- Outage start in the Roster: the outage fields of every record and the unattributed counter (R28), and the timers. -/
def outageRecords (d : Device) : Device :=
  { d with roster := ⟨d.roster.records.map (Option.map Record.outageStart), 0⟩ }

/-- The OUTAGE entries, in rising index order (R103). -/
def outageEntries (d : Device) : Device :=
  (List.range 80).foldl (fun d i => match d.rec? i with
    | some r => if r.wakeOnOutage then d.joinEntry i r.id .outage else d
    | none => d) d

/-- Outage start, handed to its four blocks (R39, R40). The head is examined once, after every entry has joined (log 13). -/
def outageStart (d : Device) : Device := d.outageMode.outageRecords.outageEntries.examineWake

/-- The Lease Manager's part in outage end (R132). -/
def outageEndLeases (d : Device) : Device :=
  let d := d.lease.leases.foldl (fun d l => d.endLeaseQuiet l .mains) d
  (d.lease.claims.foldl (fun d c => d.deferClaim c .mains) d).examineWake

/-- The Wake Sequencer's part in outage end (R104). -/
def outageEndWakes (d : Device) : Device :=
  let d := { d with wake := { d.wake with queue := d.wake.queue.filter fun e => e.isDiscovery } }
  match d.wake.attempt with
  | some a => match a.target with
    | .record i t _ => (d.request i t .attemptAbandoned).abandonAttempt
    | .discovery _ => d.examineWake
  | none => d.examineWake

/-- The Test Engine's part in outage end (R168). -/
def outageEndTests (d : Device) : Device :=
  let d := (List.range 4).foldl endTestMains d
  { d with test := { d.test with agenda := [], inHand := none } }

/-- Outage end (R37, R41), taken by the Lease Manager, the Wake Sequencer and the Test Engine in this order (R132, R168, log
32). -/
def outageEnd (d : Device) : Device :=
  let d := ({ d with mode := { d.mode with mode := .mains, highCount := 0 } } : Device).raiseDev
    fun r => { r with mode := true }
  d.outageEndLeases.outageEndWakes.outageEndTests

/-- The timers that an outage minute brought to 0, as due events: wake timers, then test timers, in rising index order. -/
def timersDue (d : Device) (was : Device) : List Due :=
  ((List.range 80).filter fun i => (d.rec? i).any (fun r => r.wakeTimer == some 0)
      && !(was.rec? i).any (fun r => r.wakeTimer == some 0)).map .wakeTimer
  ++ ((List.range 80).filter fun i => (d.rec? i).any (fun r => r.testTimer == some 0)
      && !(was.rec? i).any (fun r => r.testTimer == some 0)).map .testTimer

/-- An outage minute (R42, R43). The Wake Sequencer's timers are handled before the Test Engine's (log 38). -/
def outageMinute (d : Device) : Device :=
  let d' := { d with
    mode := { d.mode with minutes := min (d.mode.minutes + 1) 65535, framesToMinute := 600 }
    roster := { d.roster with records := d.roster.records.map (Option.map Record.minute) } }
  { d' with due := d'.timersDue d ++ d'.due }

/-- A record's wake timer has reached 0 (R81): a TIMER entry asked for, the timer reloaded. -/
def wakeTimerExpired (d : Device) (i : Nat) : Device := match d.rec? i with
  | some r =>
    if r.wakeTimer = some 0 then (d.modRec i Record.loadWake).requestEntry i r.id .timer else d
  | none => d

/-- A record's test timer has reached 0 (R153): reloaded, and a TIMER entry placed unless the record is TESTING or has one. An entry
placed calls for the examination that follows the minute's last test timer; the reload alone calls for none. The timer of a PENDING or QUARANTINED record does not count, and no entry is placed for one (R15, R153). -/
def testTimerExpired (d : Device) (i : Nat) : Device := match d.rec? i with
  | some r =>
    if r.testTimer = some 0 ∧ r.state ≠ .pending ∧ r.state ≠ .quarantined then
      let d := d.modRec i Record.loadTest
      if r.state = .testing ∨ d.inAgenda i then d else (d.joinAgenda i r.id .timer).addExam
    else d
  | none => d

end Device

end Sys2Proof.Machine
end

