-- ==== Sys2Proof/Machine/Announcing.lean ====
section
/-! DEFINITION. Announces (R93 to R97), discovery outcomes (R98, R99), the stranger list (R100), window expiry (R90) and trips
(R139 to R141). -/

namespace Sys2Proof.Machine

/-- The demand stored for an announced demand (R8, R96). -/
def storedDemand (c : Class) (demand : Nat) : Nat :=
  if demand = 0 ∨ demand = 63 then c.defaultDemand else min demand 40

namespace Device

/-! ## The stranger list -/

/-- STRANGER raised. -/
def raiseStranger (d : Device) : Device := d.raiseDev fun r => { r with stranger := true }

/-- The stranger list set. -/
def setStrangers (d : Device) (l : List Stranger) : Device := { d with wake := { d.wake with strangers := l } }

/-- An ID offered to the stranger list (R100). -/
def offerStranger (d : Device) (t : TermId) (line : Option Nat) (frame : Count16) : Device :=
  match d.wake.strangers.find? fun s => s.id == t with
  | some s =>
    if s.line.isNone && line.isSome then
      (d.setStrangers (d.wake.strangers.map fun s => if s.id = t then { s with line := line } else s)).raiseStranger
    else d
  | none =>
    if d.wake.strangers.length < 4 then (d.setStrangers (d.wake.strangers ++ [⟨t, line, frame⟩])).raiseStranger
    else ({ d with wake := { d.wake with overflow := true } } : Device).raiseStranger

/-! ## Acceptance -/

/-- The acceptance of an announce on a slot (R96). -/
def accept (d : Device) (i : Nat) (c : Cause) (n : Nat) (a : Announce) : Device := match d.transition i a.id c with
  | none => d
  | some d =>
    let d := ((d.modRec i fun r => { r with slot := some n }).assignSlot n i a.id).handAssign a.id n
    let d := d.modRec i fun r =>
      { r with capabilities := some ⟨a.markWake, storedDemand r.cls a.demand⟩, failedWakes := 0 }
    let d := d.clearInHand i
    let d := if d.inAgenda i then d.examineAgenda else d
    d.completeEviction i a.id

/-- A spontaneous announce from a DORMANT record (R95, R96). The head, where the removal of the record's wake queue entry has changed
it, is examined after the whole acceptance (log 43), and so after the agenda (log 44). -/
def announceDormant (d : Device) (i : Nat) (a : Announce) : Device := match d.lowestFree with
  | some n => headCheck d ((d.dropWakeRecord i).accept i .spontaneousAnnounce n a)
  | none => d.handBackoff a.id

/-- The matching announce of the record attempt in progress (R94). A pulse still running is stopped, its permit returned and the
claim queue served, before the acceptance (log 35). -/
def announceMatch (d : Device) (i : Nat) (at_ : Attempt) (a : Announce) : Device :=
  (((d.stopPulse).accept i .matchingAnnounce at_.slot a).clearAttempt).examineWake

/-- An announce judged again after the teardown of a restarted terminal: as from a DORMANT record (R97); where the
teardown's own examinations have started an attempt for the record, as its matching announce (log 20). -/
def announceAgain (d : Device) (i : Nat) (a : Announce) : Device := match d.wake.attempt with
  | some at_ => if d.attemptFor i then d.announceMatch i at_ a else d.announceDormant i a
  | none => d.announceDormant i a

/-- A spontaneous announce (R95, table 4-3). -/
def announceSpontaneous (d : Device) (a : Announce) : Device := match d.findId a.id with
  | none => (d.handBackoff a.id).offerStranger a.id none a.frame
  | some i => match (d.rec? i).map Record.state with
    | some .dormant => d.announceDormant i a
    | some .attached => (d.restartTeardown i a.id).announceAgain i a
    | some .fed => (d.restartTeardown i a.id).announceAgain i a
    | some .testing => (d.restartTeardown i a.id).announceAgain i a
    | some .quarantined => d.handBackoff a.id
    | some .pending => (d.handBackoff a.id).raiseRec i a.id fun r => { r with unplaced := true }
    | some .waking => d
    | none => d

/-! ## Discovery -/

/-- A discovery ends with a result (R99): stored, DISCOVERY raised, the head examined. -/
def endDiscovery (d : Device) (l : Nat) (res : DiscoveryResult) : Device :=
  let d := (d.modLine l fun x => { x with discovery := some res }).raiseDev fun r => { r with discovery := true }
  d.clearAttempt.examineWake

/-- A record bound to a line, in the record and the line binding table together (R3, R98). -/
def bindLine (d : Device) (i l : Nat) : Device :=
  (d.modRec i fun r => { r with line := some l }).modLine l fun x => { x with binding := some i }

/-- The first WOKEN announce during a discovery decides it (R98, table 4-4). -/
def decideDiscovery (d : Device) (at_ : Attempt) (l : Nat) (a : Announce) : Device :=
  let d := d.stopPulse
  match d.findId a.id with
  | none =>
    (((d.freeSlot at_.slot).handBackoff a.id).offerStranger a.id (some l) a.frame).endDiscovery l .stranger
  | some i =>
    if d.inState i .pending then
      let d := ((d.bindLine i l).accept i .discoveryBound at_.slot a).raiseRec i a.id fun r => { r with bound := true }
      d.endDiscovery l .bound
    else ((d.freeSlot at_.slot).handBackoff a.id).endDiscovery l .conflict

/-- An announce that the attach slot's record attempt does not wait for (R94). -/
def announceForeign (d : Device) (a : Announce) : Device :=
  let d := d.handBackoff a.id
  if (d.findId a.id).isNone then d.offerStranger a.id none a.frame else d

/-- The judgement of a taken ANNOUNCE (R93). -/
def judgeAnnounce (d : Device) (a : Announce) : Device :=
  if !validId a.id then d
  else match d.wake.attempt with
    | none => d.announceSpontaneous a
    | some at_ => match at_.target, a.cause with
      | .record i t _, _ => if a.id = t then d.announceMatch i at_ a else d.announceForeign a
      | .discovery l, .woken => d.decideDiscovery at_ l a
      | .discovery _, .self => d.announceSpontaneous a

/-! ## Window expiry -/

/-- The attach window of a record attempt has expired (R90). -/
def attachExpired (d : Device) : Device := match d.wake.attempt with
  | some a => match a.target with
    | .record i t p =>
      if a.window = 0 then
        let d := d.stopPulse.modRec i fun r => { r with failedWakes := min (r.failedWakes + 1) 7 }
        match d.rec? i with
        | some r =>
          if r.failedWakes < d.settings.wakeAttempts then
            let d := (d.freeSlot a.slot).clearAttempt
            match d.transition i t .windowExpired with
            | some d => (d.joinEntry i t p).examineWake
            | none => d.examineWake
          else (d.quarantineD i t .attemptsExhausted).examineWake
        | none => d
      else d
    | .discovery _ => d
  | none => d

/-- The window of a discovery has expired (R99). -/
def discoveryExpired (d : Device) : Device := match d.wake.attempt with
  | some a => match a.target with
    | .discovery l => if a.window = 0 then (d.stopPulse.freeSlot a.slot).endDiscovery l .empty else d
    | .record _ _ _ => d
  | none => d

/-! ## Pulse end and trips -/

/-- A pulse countdown has reached 0 (R137): the switch OFF, the end reported. -/
def pulseEnded (d : Device) (l : Nat) : Device := match (d.line? l).map Line.switch with
  | some (.pulse 0 _) => (d.orderOff l).reportPulseEnd l
  | _ => d

/-- A soft-start count has reached 0 (R136): the switch ON. -/
def softstartDone (d : Device) (l : Nat) : Device := match (d.line? l).map Line.switch with
  | some (.softstart 0) => d.modLine l fun x => { x with switch := .on }
  | _ => d

/-- A trip on a bound line (R140). -/
def tripBound (d : Device) (l i : Nat) (wasPulse : Bool) : Device :=
  let d := d.modLine l fun x => { x with switch := .tripped }
  let t := ((d.rec? i).map Record.id).getD 0
  match d.quarantine i t .trip with
  | some d => if wasPulse then d.reportPulseEnd l else d
  | none =>
    let d := d.modLine l fun x => { x with switch := .off }
    if wasPulse then d.reportPulseEnd l else d

/-- A trip on an unbound line (R141); during its discovery pulse it decides the discovery with SHORT (R99). -/
def tripUnbound (d : Device) (l : Nat) (sw : Switch) : Device :=
  let d := d.modLine l fun x => { x with switch := .off }
  match sw, d.wake.attempt with
  | .pulse _ .discovery, some a => match a.target with
    | .discovery m => if m = l then ((d.reportPulseEnd l).freeSlot a.slot).endDiscovery l .short else d
    | .record _ _ _ => d
  | _, _ => d

/-- A trip is handled (R139): judged against the switch state at this moment. -/
def tripped (d : Device) (l : Nat) : Device := match d.line? l with
  | some x => match x.switch with
    | .off => d
    | .tripped => d
    | .pulse n o => match x.binding with
      | some i => d.tripBound l i true
      | none => d.tripUnbound l (.pulse n o)
    | .softstart n => match x.binding with
      | some i => d.tripBound l i false
      | none => d.tripUnbound l (.softstart n)
    | .on => match x.binding with
      | some i => d.tripBound l i false
      | none => d.tripUnbound l .on
  | none => d

/-- A due trip is handled (R139), judged by the switch. That one which finds TRIP_N released changes nothing is the model's reading
(log 11). -/
def tripDue (d : Device) (l : Nat) : Device := match d.line? l with
  | some x => if x.tripLow then d.tripped l else d
  | none => d

end Device

end Sys2Proof.Machine
end

