-- ==== Sys2Proof/Machine/Scanning.lean ====
section
/-! DEFINITION. The scan round (R143 to R147), the overdraw notice (R129), and the uplink path: arrival (R57, R66) and take
(R67 to R71). -/

namespace Sys2Proof.Machine

/-- The switch of a line after a scan round: a soft-start count lowered (R136). -/
def Switch.round : Switch → Switch
  | .softstart n => .softstart (n - 1)
  | s => s

/-- The row of the table that an entry's take belongs to: a terminal-slot ANNOUNCE stands with the unknown kinds (R71). -/
def FifoEntry.row (e : FifoEntry) : UpKind := match e.origin, upKind e.word with
  | .terminal _ _, .announce => .unknown
  | _, k => k

namespace Device

/-! ## Scan round -/

/-- Charge of one round added to the outage tally (R52). -/
def addTally (d : Device) (m : Nat) : Device :=
  { d with mode := { d.mode with tally := min (d.mode.tally + m) maxTally } }

/-- Charge of one round added to a record and to the tally (R26, R144). -/
def addCharge (d : Device) (i m : Nat) : Device :=
  (d.modRec i fun r => { r with charge := min (r.charge + m) maxCharge }).addTally m

/-- The charge that a line's measurement adds, by its switch state (table 6-3). -/
def chargeLine (d : Device) (x : Line) (m : Nat) : Device := match x.switch, x.binding with
  | .on, some i => if (d.rec? i).isSome then d.addCharge i m else d
  | .softstart _, some i => if (d.rec? i).isSome then d.addCharge i m else d
  | .pulse _ (.record i t), _ => if d.names i t then d.addCharge i m else d
  | .pulse _ .discovery, _ => (d.addUnattributed m).addTally m
  | _, _ => d

/-- The limit of R146 for the line of a bound record: its LIVE lease's steps and the margin, in mA. -/
def overdrawLimit (d : Device) (binding : Option Nat) : Option Nat := match binding.bind d.leaseOf with
  | some l => if l.phase = .live then some ((l.steps + d.settings.overdrawMargin) * 25) else none
  | none => none

/-- The overdraw capture of an ON line after a measurement (R146, R147). -/
def captureOf (d : Device) (x : Line) (m : Nat) : Option Nat := match x.switch, x.overdraw, d.overdrawLimit x.binding with
  | .on, none, some lim => if lim < m then some m else none
  | _, o, _ => o

/-- One line of a scan round: charge, overdraw capture, last current, soft-start count (R136, R143 to R147). -/
def scanLine (d : Device) (l reading : Nat) : Device := match d.line? l with
  | some x =>
    let m := min reading 1500
    let d := (d.chargeLine x m).modLine l fun x => { x with
      current := m, overdraw := d.captureOf x m, switch := x.switch.round }
    match x.switch.round with
    | .softstart 0 => d.addDue (.softstart l)
    | _ => d
  | none => d

/-- The reserve measurement (R44, R45): kept, judged; a level change that it completes is due, with the round's ration
judgement beside it as a handling of its own, in either order (R145, log 14); otherwise the ration judgement follows at once.
The round's overdraw notices are taken after both (log 36). -/
def scanReserve (d : Device) (reading : Nat) : Device :=
  let v := min reading 3000
  let d := { d with reserve := v, mode := d.mode.measure d.settings v }
  if d.settings.levelConfirm ≤ d.mode.confirm ∧ d.mode.evidence ≠ .none then (d.addDue .rations).addDue .levelChange
  else d.judgeRations

/-- The frame in hand has begun and its scan round has not completed: one completes in each frame, after its frame start, the
first in frame 0 (R143, R34, log 39). It comes after the beacon of its frame (R54), which `Device.beaconFirst` sees to. -/
def roundOpen (d : Device) : Bool := !d.riser.frameZero && !d.scanned

/-- A scan round (R143). -/
def scanRound (d : Device) (currents : List Nat) (reserve : Nat) : Device :=
  (((List.range 64).zip currents).foldl (fun d p => d.scanLine p.1 p.2) ({ d with scanned := true } : Device)).scanReserve
    reserve

/-- The take of a line's overdraw notice (R129). -/
def takeNotice (d : Device) (l : Nat) : Device := match d.line? l with
  | some x => match x.overdraw with
    | some m =>
      let d := d.modLine l fun x => { x with overdraw := none }
      match d.overdrawLimit x.binding, x.binding.bind d.leaseOf with
      | some lim, some lease =>
        if m ≤ lim then d
        else if lease.strikes = 0 then
          (d.modLease lease.index fun y => { y with strikes := 1 }).post lease.index lease.id (.limit lease.steps)
        else d.quarantineD lease.index lease.id .secondStrike
      | _, _ => d
    | none => d
  | none => d

/-! ## Uplink arrival -/

/-- A word put at the tail of the uplink FIFO, where it has room (R57, R66, R67). -/
def enterFifo (d : Device) (e : FifoEntry) : Device :=
  if d.riser.fifo.length < 16 then { d with riser := { d.riser with fifo := d.riser.fifo ++ [e] } } else d

/-- A word received in the uplink half of slot 1 (R57). -/
def attachUplink (d : Device) (w : List Byte) : Device :=
  let d := { d with riser := { d.riser with half := 3, drive := none } }
  if goodWord w then d.enterFifo ⟨.attach d.riser.frame, w.take 9⟩ else d

/-- A word received in the uplink half of a terminal slot (R66). -/
def terminalUplink (d : Device) (n : Nat) (w : List Byte) : Device :=
  let d := { d with riser := { d.riser with half := 2 * n + 1, drive := none } }
  if goodWord w then match d.slot? n with
    | some s => match s.use with
      | .held h =>
        if h.isOpen then (d.modHolder n fun h => { h with silence := 0 }).enterFifo ⟨.terminal n s.hold, w.take 9⟩
        else d
      | .free => d
      | .reserved _ => d
      | .releasing => d
    | none => d
  else d

/-! ## Uplink take -/

/-- The delivery of the head command by an acknowledgement (R65, R69): the device after, and whether the rest of the word is
handled (not when the Roster takes a delivered REST). -/
def deliver (d : Device) (n : Nat) (h : Holder) (ack : Option Nat) : Device × Bool := match h.queue with
  | [] => (d, true)
  | e :: es =>
    if ack = some e.seq then
      let d := d.modHolder n fun h => { h with queue := es }
      match e.cmd with
      | .rest => match d.restDelivered h.index h.id with
        | some d' => (d', false)
        | none => (d, true)
      | .testBegin w => (d.testBegun h.index w, true)
      | .grant _ => (d, true)
      | .queued => (d, true)
      | .defer _ => (d, true)
      | .limit _ => (d, true)
      | .cut _ => (d, true)
      | .testEnd _ => (d, true)
    else (d, true)

/-- Idle frames set to 0 by a word whose kind resets them (R71). -/
def resetIdle (d : Device) (i : Nat) : Device := d.modRec i fun r => { r with idle := 0 }

/-- A REST_REQUEST (R73). -/
def takeRestRequest (d : Device) (i : Nat) (t : TermId) : Device :=
  if d.inState i .attached && !d.hasClaim i && !d.inAgenda i then d.post i t .rest else d

/-- A REPORT (R71): to the Roster, the Test Engine and the Lease Manager in this order (log 17). -/
def takeReport (d : Device) (i : Nat) (t : TermId) (b : BatteryReport) : Device :=
  ((d.modRec i fun r => { r with report := some b }).testReport i b).leaseReport i t b.cutoffNear

/-- The dispatch of a new word by its kind (table 3-4). -/
def dispatch (d : Device) (i : Nat) (t : TermId) (w : List Byte) : Device := match upKind w with
  | .claim => (d.resetIdle i).takeClaim i t (claimSteps w)
  | .renew => (d.resetIdle i).takeRenew i t
  | .release => (d.resetIdle i).takeRelease i t
  | .report => d.takeReport i t (reportOf w)
  | .restRequest => (d.resetIdle i).takeRestRequest i t
  | .nop => d
  | .announce => d
  | .unknown => d

/-- The sequence comparison (R70) and, for a new word, its dispatch. A duplicate leaves the idle frames as they are (log 34). -/
def takeSequence (d : Device) (n : Nat) (h : Holder) (w : List Byte) : Device :=
  if h.lastUp = some (upSeq w) then d
  else (d.modHolder n fun h => { h with lastUp := some (upSeq w) }).dispatch h.index h.id w

/-- The take of a terminal-slot entry: holder check (R68), acknowledgement (R69), sequence (R70), dispatch (R71). -/
def takeTerminal (d : Device) (n : Nat) (hold : Count16) (w : List Byte) : Device := match d.slot? n with
  | some s => match s.use with
    | .held h =>
      if s.hold = hold then
        let r := d.deliver n h (upAck w)
        if r.2 then r.1.takeSequence n h w else r.1
      else d
    | .free => d
    | .reserved _ => d
    | .releasing => d
  | none => d

/-- The take of the oldest FIFO entry, whichever it is (R57, R67). -/
def takeWord (d : Device) : Device := match d.riser.fifo with
  | [] => d
  | e :: es =>
    let d := { d with riser := { d.riser with fifo := es } }
    match e.origin with
    | .attach frame => if upKind e.word = .announce then d.judgeAnnounce (announceOf e.word frame) else d
    | .terminal n hold => d.takeTerminal n hold e.word

/-- The take of the oldest FIFO entry where it is of this row; otherwise nothing is taken (log 19). -/
def takeRow (d : Device) (k : UpKind) : Device := match d.riser.fifo with
  | [] => d
  | e :: _ => if e.row = k then d.takeWord else d

end Device

end Sys2Proof.Machine
end

