-- ==== Sys2Proof/Machine/Framing.lean ====
section
/-! DEFINITION. The frame start (R36, R37, R42, R53, R58, R72, R73 and the countdowns), the downlink halves (R54 to R56, R64)
and the handling of due events (log 1). -/

namespace Sys2Proof.Machine

/-! ## The parts of a frame start -/

/-- The judgement of a MAINS_OK sample (R36, R37): the controller's state, and the outage start or end that it calls for. The
change of mode that an outage start or end makes is made when that event is handled. -/
def ModeCtl.sample (m : ModeCtl) (s : Settings) (high : Bool) : ModeCtl × Option Due := match m.mode, high with
  | .mains, true => (m, none)
  | .mains, false =>
    ({ m with mode := .outagePending, lowCount := 1 }, if s.outageConfirm ≤ 1 then some .outageStart else none)
  | .outagePending, true => ({ m with mode := .mains, lowCount := 0 }, none)
  | .outagePending, false =>
    ({ m with lowCount := m.lowCount + 1 }, if s.outageConfirm ≤ m.lowCount + 1 then some .outageStart else none)
  | .outage, false => (m, none)
  | .outage, true => ({ m with mode := .returnPending, highCount := 1 }, none)
  | .returnPending, false => ({ m with mode := .outage, highCount := 0 }, none)
  | .returnPending, true =>
    ({ m with highCount := m.highCount + 1 }, if s.returnConfirm ≤ m.highCount + 1 then some .outageEnd else none)

/-- The outage clock at a frame start (R42): it runs in OUTAGE and RETURN_PENDING, but not where the outage ends. -/
def ModeCtl.clock (m : ModeCtl) (event : Option Due) : ModeCtl × Option Due :=
  if m.mode.inOutage && event != some .outageEnd then
    ({ m with framesToMinute := m.framesToMinute - 1 },
      if m.framesToMinute - 1 = 0 then some .outageMinute else none)
  else (m, none)

/-- A slot at a frame start (R58, R72). -/
def Slot.frame (s : Slot) : Slot := match s.use with
  | .free => s
  | .reserved _ => s
  | .releasing => { s with use := .free }
  | .held h =>
    if h.isOpen then { s with use := .held { h with silence := min (h.silence + 1) 255 } }
    else { s with use := .held { h with isOpen := true } }

/-- The slot was HELD and open, and its raised silence count reaches the limit (R72). -/
def Slot.silent (s : Slot) (limit : Nat) : Bool := match s.use with
  | .held h => h.isOpen && limit ≤ min (h.silence + 1) 255
  | _ => false

/-- A switch at a frame start: a pulse countdown lowered (R137). -/
def Switch.frame : Switch → Switch
  | .pulse n o => .pulse (n - 1) o
  | s => s

/-- A lease at a frame start: a LIVE countdown lowered (R121). -/
def Lease.frame (l : Lease) : Lease := if l.phase = .live then { l with countdown := l.countdown - 1 } else l

/-- Positions of a list whose entry satisfies a test, in rising order. -/
def positions {α : Type} (l : List α) (p : α → Bool) : List Nat :=
  (List.range l.length).filter fun k => (l[k]?).any p

/-- The ID that a WAKE carries for a target; WAKE(ANY) carries FFFFFFFFh (table 10-2). -/
def WakeTarget.wakeId : WakeTarget → TermId
  | .record _ t _ => t
  | .discovery _ => 0xFFFFFFFF#32

namespace Device

/-- The Riser Controller's part: frame number, no half taken yet, attach words due, slot map (R53, R55, R58, R72); the frame's
scan round is still to come (R143). -/
def frameRiser (d : Device) : Device :=
  { d with
    scanned := false
    riser := { d.riser with
      frame := if d.riser.frameZero then d.riser.frame else d.riser.frame + 1
      frameZero := false
      half := 0
      slots := d.riser.slots.map Slot.frame
      assignNow := d.riser.assignNext, assignNext := none
      backoffNow := d.riser.backoffNext, backoffNext := none
      drive := none } }

/-- Idle frames of the idle-eligible records raised (R73), eligibility judged on `was`. -/
def frameIdle (d was : Device) : Device :=
  (List.range 80).foldl (fun d i =>
    if was.idleEligible i then d.modRec i fun r => { r with idle := min (r.idle + 1) 65535 } else d) d

/-- The countdowns of every block lowered by one (R90, R119, R121, R137, R160). -/
def frameCountdowns (d : Device) : Device :=
  { d with
    lease := { d.lease with
      leases := d.lease.leases.map Lease.frame
      claims := d.lease.claims.map fun c => { c with wait := c.wait - 1 } }
    wake := { d.wake with attempt := d.wake.attempt.map fun a => { a with window := a.window - 1 } }
    lines := d.lines.map fun x => { x with switch := x.switch.frame }
    test := { d.test with channels := d.test.channels.map (Option.map fun t => { t with countdown := t.countdown - 1 }) } }

/-- The window expiry that a frame start makes due. -/
def windowDue (d : Device) : List Due := match d.wake.attempt with
  | some a => if a.window = 0 then match a.target with
      | .record _ _ _ => [.attachWindow]
      | .discovery _ => [.discoveryWindow]
    else []
  | none => []

/-- The test countdowns that have reached 0. -/
def testsDue (d : Device) : List Due :=
  (positions d.test.channels fun c => c.any fun t => t.countdown == 0).map fun c => match d.test? c with
    | some t => match t.phase with
      | .beginning => .testBegin c
      | .running => .testWindow c
    | none => .testWindow c

/-- The idle rests that a frame start makes due: raised counts at the limit (R73). -/
def idleDue (d was : Device) : List Due :=
  ((List.range 80).filter fun i => was.idleEligible i
    && (d.rec? i).any (fun r => d.settings.idleLimit ≤ r.idle)).map .idleRest

/-- The events that a frame start brings about in the blocks, in the order in which they are handled where the sender names
none; the agenda examination of R156 comes last. -/
def frameDue (d was : Device) : List Due :=
  (positions was.riser.slots fun s => s.silent d.settings.silenceLimit).map (fun k => .silenceLost (k + 2))
  ++ d.idleDue was
  ++ (positions d.lines fun x => match x.switch with
      | .pulse 0 _ => true
      | _ => false).map .pulseEnd
  ++ d.windowDue
  ++ (d.lease.leases.filter fun l => l.phase == .live && l.countdown == 0).map (fun l => .leaseExpiry l.index)
  ++ (d.lease.claims.filter fun c => c.wait == 0).map (fun c => .claimWait c.index)
  ++ d.testsDue
  ++ [.agendaExam]

/-- The Mode and Reserve Controller's part of a frame start: the sample judged, MODE raised for a change (R38), the clock run.
The events it calls for come first among the due ones. -/
def frameMode (d : Device) (mainsOk : Bool) : Device × List Due :=
  let j := d.mode.sample d.settings mainsOk
  let k := j.1.clock j.2
  let d' : Device := { d with mode := k.1 }
  (if j.1.mode = d.mode.mode then d' else d'.raiseDev fun r => { r with mode := true }, j.2.toList ++ k.2.toList)

/-- An outstanding eviction whose record is no longer ATTACHED, found at a frame start (R102). -/
def evictionStale (d : Device) : Bool := match d.wake.eviction with
  | some (i, t) => !(d.names i t && d.inState i .attached)
  | none => false

/-- The mode passes between OUTAGE and RETURN_PENDING (R85). -/
def modeFlips (was d : Device) : Bool := was.mode.mode != d.mode.mode && was.mode.mode.inOutage && d.mode.mode.inOutage

/-- The head examined at a frame start where a slot became FREE (R58), an eviction completes (R102) or the mode passes
between OUTAGE and RETURN_PENDING (R85). -/
def frameExamine (d was : Device) : Device :=
  let d' := if d.evictionStale then d.setEviction none else d
  if was.anyReleasing || d.evictionStale || modeFlips was d then d'.examineWake else d'

/-- Where the agenda examination of the frame start, or of an outage minute's test timers, is next, it is carried out (R153, R156). -/
def finish (d : Device) : Device := match d.due with
  | .agendaExam :: es => ({ d with due := es } : Device).examineAgenda
  | _ => d

/-- A frame start (R53). The events it brings about are due after it (log 1); the examination of the wake queue head that it calls
for is made in it (log 24). -/
def frameStart (d : Device) (mainsOk : Bool) : Device :=
  let j := ((d.frameRiser.frameIdle d).frameCountdowns).frameMode mainsOk
  (({ j.1 with due := j.1.due ++ j.2 ++ j.1.frameDue d } : Device).frameExamine d).finish

/-! ## Downlink halves -/

/-- The attach state (R54). -/
def attachState (d : Device) : AttachState :=
  if d.wake.attempt.isSome then .calling else if d.lowestFree.isSome then .open_ else .closed

/-- A half taken, with the word driven in it, or none (R53). -/
def drive (d : Device) (half : Nat) (w : Option (List Byte)) : Device :=
  { d with riser := { d.riser with half := half, drive := w } }

/-- The beacon (R54). -/
def beacon (d : Device) : Device :=
  d.drive 1 (some (beaconWord d.riser.frame d.mode.mode d.mode.level d.attachState))

/-- The beacon of the frame in hand, where it is still to come, sent before the frame's scan round: a level that the round changes
appears in the beacon of the next frame (R46, R54, log 39). -/
def beaconFirst (d : Device) : Device := if d.inTurn 1 then d.beacon else d

/-- The attach word of the frame (R55, R56): ASSIGN, then BACKOFF, then WAKE, then OPEN or CLOSED. -/
def attachChoice (d : Device) : AttachDown := match d.riser.assignNow, d.riser.backoffNow, d.wake.attempt with
  | some (t, n), _, _ => .assign t n
  | none, some t, _ => .backoff t
  | none, none, some a => .wake a.target.wakeId
  | none, none, none => if d.lowestFree.isSome then .open_ else .closed

/-- The downlink half of slot 1 (R56): the chosen word sent, the other due words dropped. -/
def attachWord (d : Device) : Device :=
  let d' := d.drive 2 (some d.attachChoice.bytes)
  { d' with riser := { d'.riser with assignNow := none, backoffNow := none } }

/-- The downlink half of a terminal slot (R64). -/
def terminalDownlink (d : Device) (n : Nat) : Device := match (d.slot? n).map Slot.use with
  | some (.held h) =>
    if h.isOpen then match h.queue with
      | [] => d.drive (2 * n) (some (nopWord h.lastUp))
      | e :: es =>
        if d.settings.repeatLimit ≤ e.sends then (d.drive (2 * n) none).declareLost h.index h.id
        else (d.modHolder n fun h => { h with queue := { e with sends := e.sends + 1 } :: es }).drive (2 * n)
          (some (cmdWord e.cmd e.seq h.lastUp))
    else d.drive (2 * n) none
  | _ => d.drive (2 * n) none

/-- The downlink half of a slot whose head has reached the repeat limit: nothing is sent, and the holder is declared LOST
(R64, R75). In any other slot nothing comes about. -/
def repeatLimitLost (d : Device) (n : Nat) : Device := match (d.slot? n).map Slot.use with
  | some (.held h) => match h.queue with
    | e :: _ => if h.isOpen && d.settings.repeatLimit ≤ e.sends then (d.drive (2 * n) none).declareLost h.index h.id else d
    | [] => d
  | _ => d

/-! ## Due events -/

/-- A slot's holder is declared LOST by silence (R72, R75). -/
def silenceLost (d : Device) (n : Nat) : Device := match (d.slot? n).map Slot.use with
  | some (.held h) => d.declareLost h.index h.id
  | _ => d

/-- REST posted to a record at the idle limit (R73). -/
def idleRest (d : Device) (i : Nat) : Device := match d.rec? i with
  | some r => if r.state = .attached then d.post i r.id .rest else d
  | none => d

/-- A LIVE lease whose countdown has reached 0 ends (R122). -/
def leaseExpired (d : Device) (i : Nat) : Device := match d.leaseOf i with
  | some l => if l.phase = .live ∧ l.countdown = 0 then d.endLease i .expired else d
  | none => d

/-- A queued claim whose wait has reached 0 is removed, and the queue served (R119). -/
def claimWaitExpired (d : Device) (i : Nat) : Device := match d.claimOf i with
  | some c => if c.wait = 0 then (d.deferClaim c .timeout).serve else d
  | none => d

/-- The handling of a due event. -/
def handle (d : Device) : Due → Device
  | .outageStart => d.outageStart
  | .outageEnd => d.outageEnd
  | .outageMinute => d.outageMinute
  | .wakeTimer i => d.wakeTimerExpired i
  | .testTimer i => d.testTimerExpired i
  | .silenceLost n => d.silenceLost n
  | .idleRest i => d.idleRest i
  | .pulseEnd l => d.pulseEnded l
  | .attachWindow => d.attachExpired
  | .discoveryWindow => d.discoveryExpired
  | .leaseExpiry i => d.leaseExpired i
  | .claimWait i => d.claimWaitExpired i
  | .testWindow c => d.testExpired c .running
  | .testBegin c => d.testExpired c .beginning
  | .softstart l => d.softstartDone l
  | .trip l => d.tripDue l
  | .levelChange => d.changeLevel
  | .rations => d.judgeRations
  | .agendaExam => d.examineAgenda

/-- The oldest due event handled. -/
def handleFirst (d : Device) : Device := match d.due with
  | [] => d
  | e :: es => (({ d with due := es } : Device).handle e).finish

/-- Due events handled, oldest first, until none is left; `fuel` bounds their number (log 22). -/
def settleLoop : Nat → Device → Device
  | 0, d => d
  | fuel + 1, d => if d.due.isEmpty then d else settleLoop fuel d.handleFirst

/-- Every due event handled, before an event from outside is taken (log 1). -/
def settle (d : Device) : Device := d.settleLoop 4096

/-- The urgent events that stand before an event handled; `fuel` bounds their number (log 22). -/
def hastenLoop (e : Due) : Nat → Device → Device
  | 0, d => d
  | fuel + 1, d => match d.due with
    | x :: _ => if x.urgent && x != e then hastenLoop e fuel d.handleFirst else d
    | [] => d

/-- The urgent events that stand before an event handled, since nothing comes before them: the timers of an outage minute in
rising index order, the wake timers before the test timers, and trips that follow an order at once (R81, R135, R153, log 1,
log 38). -/
def hasten (d : Device) (e : Due) : Device := hastenLoop e 4096 d

/-- A due event that the sender names is handled, after the urgent events before it; where it has not come about nothing
happens (log 1, log 2). -/
def takeDue (d : Device) (e : Due) : Device :=
  if d.due.contains e then
    let d' := d.hasten e
    (({ d' with due := d'.due.erase e } : Device).handle e).finish
  else d

/-- What the device does of itself while no command waits: the oldest due event, else the oldest uplink word, else the first
pending overdraw notice, else nothing (log 3). -/
def tick (d : Device) : Device :=
  if !d.running then d
  else if !d.due.isEmpty then d.handleFirst
  else if !d.riser.fifo.isEmpty then d.takeWord
  else match d.lines.findIdx? fun x => x.overdraw.isSome with
    | some l => d.takeNotice l
    | none => d

end Device

end Sys2Proof.Machine
end

