-- ==== Sys2Proof/Machine/Resetting.lean ====
section
/-! DEFINITION. Supplies and resets (R29 to R35, R182): what each kind of reset leaves, and the start-up. -/

namespace Sys2Proof.Machine

/-- A record after a warm reset (R29). -/
def Record.warm (r : Record) : Record :=
  let r := { r with
    state := match r.state with
      | .pending => .pending
      | .quarantined => .quarantined
      | .dormant => .dormant
      | .waking => .dormant
      | .attached => .dormant
      | .fed => .dormant
      | .testing => .dormant
    slot := none, lease := false, idle := 0, charge := 0, lost := 0, tests := 0, rationSpent := false }
  r.loadWake.loadTest

/-- A line after a reset (R3, R29, R99, R148, R149): its TRIP_N keeps the level it has (log 11). -/
def Line.after (x : Line) (kind : ResetKind) : Line := match kind with
  | .warm => { Line.initial x.tripLow with binding := x.binding }
  | .cold => .initial x.tripLow

namespace Device

/-- The state after a reset of a kind, before start-up (R31): working state initial; records, bindings and settings kept by a
warm reset, initial after a cold one. -/
def resetTo (d : Device) (kind : ResetKind) : Device :=
  let settings := match kind with
    | .warm => d.settings
    | .cold => .default
  { supply := d.supply
    roster := ⟨match kind with
      | .warm => d.roster.records.map (Option.map Record.warm)
      | .cold => List.replicate 80 none, 0⟩
    mode := .initial settings.normalCeiling
    riser := .initial
    wake := .initial
    lease := .initial
    lines := d.lines.map fun x => x.after kind
    reserve := 0
    scanned := false
    test := .initial
    port := { HostPort.initial none with sdo := d.port.sdo }
    settings := settings
    due := []
    freeCount := d.freeCount }

/-- Start-up (R34): RESTARTED raised with the kind; retention is judged from here on (R31). The spec names no end of start-up: that
it is complete in this same step, with no duration, so that the loss mark is cleared here and no reset arrives during it (R31, R33),
is the model's choice (log 45). -/
def startUp (d : Device) (kind : ResetKind) : Device :=
  ({ d with supply := { d.supply with keepLost := false, holding := none } } : Device).raiseDev
    fun r => { r with restarted := some kind }

/-- A reset, and start-up unless RESET_N is low, which makes it wait (R33). -/
def resetAndStart (d : Device) (kind : ResetKind) : Device :=
  if d.supply.resetN then (d.resetTo kind).startUp kind
  else
    let d := d.resetTo kind
    { d with supply := { d.supply with holding := some kind } }

/-- VIN falls (R32): work in progress stops where it stands. -/
def vinFalls (d : Device) : Device := { d with supply := { d.supply with vin := false } }

/-- VIN returns (R31, R32): retention judged, then a warm or a cold reset. While VIN is present nothing comes about. -/
def vinReturns (d : Device) (keepBelow : Bool) : Device :=
  if d.supply.vin then d
  else
    let lost := d.supply.keepLost || keepBelow
    ({ d with supply := { d.supply with vin := true, keepLost := lost } } : Device).resetAndStart
      (if lost then .cold else .warm)

/-- KEEP falls below its hold level (R31, R32): retention is lost, and with VIN present a cold reset follows at once. -/
def keepFalls (d : Device) : Device :=
  let d := { d with supply := { d.supply with keepLost := true } }
  if d.supply.vin then d.resetAndStart .cold else d

/-- RESET_N is taken as low (R33): a warm reset that is held. While VIN is absent only the level is kept. -/
def resetNFalls (d : Device) : Device :=
  let d := { d with supply := { d.supply with resetN := false } }
  if d.supply.vin then d.resetAndStart .warm else d

/-- RESET_N goes low for a time (R193): under 1 µs it is ignored, from 10 µs on it is a reset, between the two it may be taken
or ignored (free value, log 7). -/
def resetNLow (d : Device) (ns : Nat) : Device :=
  if !d.supply.resetN || ns < 1000 then d
  else if ns < 10000 then
    let d' := { d with freeCount := d.freeCount + 1 }
    if Config.marginalResetTaken d.freeCount then d'.resetNFalls else d'
  else d.resetNFalls

/-- RESET_N rises (R33): a held reset is complete, and start-up follows. -/
def resetNRises (d : Device) : Device :=
  let d := { d with supply := { d.supply with resetN := true } }
  match d.supply.vin, d.supply.holding with
  | true, some kind => d.startUp kind
  | _, _ => d

end Device

end Sys2Proof.Machine
end

