-- ==== Sys2Proof/Machine/Views.lean ====
section
/-! DEFINITION. The record view and the other response fields (R177, R179, R181, R188, R190; tables 10-8 to 10-13). -/

namespace Sys2Proof.Machine

/-- Part 1 of a record view (table 10-8). -/
def Record.part1 (r : Record) (i : Nat) (reasons : RecReasons) : List Byte :=
  bytesBE 1 i ++ bytesBE 4 r.id.toNat ++ [optByte r.line, r.cls.code, r.state.code, optCode QReason.code r.reason,
    r.method.code] ++ bytesBE 2 r.wakeInterval ++ optWord r.wakeTimer ++ [boolByte r.wakeOnOutage]
  ++ bytesBE 2 r.testInterval ++ optWord r.testTimer ++ bytesBE 1 r.cap ++ bytesBE 2 r.ration ++ bytesBE 5 r.charge
  ++ [boolByte r.rationSpent, reasons.byte]

/-- The charge byte of a battery report (table 10-9). -/
def chargeByte (b : Option BatteryReport) : Byte := match b with
  | some b => match b.charge with
    | some c => BitVec.ofNat 8 c
    | none => 0xFE
  | none => 0xFF

/-- Part 2 of a record view (table 10-9). -/
def Record.part2 (r : Record) (i : Nat) : List Byte :=
  bytesBE 1 i ++ bytesBE 4 r.id.toNat
  ++ [optByte (r.capabilities.map Capabilities.demand), boolByte (r.capabilities.any Capabilities.markWake)]
  ++ optWord (r.report.map BatteryReport.voltage) ++ [chargeByte r.report] ++ optWord (r.report.map BatteryReport.load)
  ++ [boolByte (r.report.any BatteryReport.cutoffNear)]
  ++ [optCode (fun v => BitVec.ofNat 8 v.1.code) r.verdict] ++ optWord (r.verdict.map Prod.snd)
  ++ [boolByte r.suspect, optCode (fun o => BitVec.ofNat 8 o.code) r.lastOutcome]
  ++ bytesBE 1 r.tests ++ bytesBE 1 r.failedWakes ++ bytesBE 1 r.lost ++ bytesBE 2 r.idle

namespace Device

/-- The slot hold code of a record's slot (table 10-10), as the slot map has it. -/
def slotHold (d : Device) (r : Record) : Byte := match (r.slot.bind d.slot?).map Slot.use with
  | some (.reserved _) => 1
  | some (.held _) => 2
  | _ => 0

/-- The purpose code of a record's wake queue entry (table 10-10). -/
def purposeOf (d : Device) (i : Nat) : Byte := match (d.wakeEntryOf i).map WakeEntry.target with
  | some (.record _ _ p) => p.code
  | _ => 0

/-- The attempt in progress, where it is for this record. -/
def attemptOf (d : Device) (i : Nat) : Option Attempt := if d.attemptFor i then d.wake.attempt else none

/-- The test in progress of a record. -/
def testOf (d : Device) (i : Nat) : Option Test := (d.channelOf i).bind d.test?

/-- Part 3 of a record view (table 10-10). -/
def part3 (d : Device) (r : Record) (i : Nat) : List Byte :=
  bytesBE 1 i ++ bytesBE 4 r.id.toNat ++ [r.state.code, optByte r.slot, d.slotHold r]
  ++ [optByte ((d.leaseOf i).map Lease.steps), optCode Phase.code ((d.leaseOf i).map Lease.phase)]
  ++ optWord ((d.leaseOf i).map Lease.countdown) ++ [optByte ((d.leaseOf i).map Lease.strikes)]
  ++ [optByte ((d.claimOf i).map ClaimEntry.steps)] ++ optWord ((d.claimOf i).map ClaimEntry.wait)
  ++ [d.purposeOf i, optCode CallMethod.code ((d.attemptOf i).map Attempt.method),
    optByte ((d.attemptOf i).map Attempt.window)]
  ++ [optCode AgendaKind.code ((d.test.agenda.find? fun e => e.index == i).map AgendaEntry.kind)]
  ++ [optByte (d.channelOf i), optCode TestPhase.code ((d.testOf i).map Test.phase)]
  ++ optWord ((d.testOf i).map Test.countdown) ++ [boolByte ((d.testOf i).any Test.leaseHeld)]
  ++ optWord ((d.testOf i).bind Test.startV) ++ optWord ((d.testOf i).bind Test.lastV)

/-- One part of the view of the record at an index; the single byte FFh where there is none (R192). -/
def viewPart (d : Device) (i part : Nat) : List Byte := match d.rec? i with
  | some r => match part with
    | 1 => r.part1 i (d.reasonsOf i)
    | 2 => r.part2 i
    | _ => d.part3 r i
  | none => [0xFF]

/-- The line bytes that a LOOKUP by line appends (10.2). -/
def lineBytes (d : Device) (l : Nat) : List Byte := match d.line? l with
  | some x => [x.switch.code] ++ bytesBE 2 x.current ++ [optCode DiscoveryResult.code x.discovery]
  | none => []

/-- The number of wake queue record entries with a purpose. -/
def countPurpose (d : Device) (p : Purpose) : Nat := (d.wake.queue.filter fun e => match e.target with
  | .record _ _ q => q == p
  | .discovery _ => false).length

/-- What is in progress (table 10-13). -/
def progressByte (d : Device) : Byte := match d.wake.attempt with
  | some a => match a.target with
    | .record _ _ _ => 1
    | .discovery _ => 2
  | none => 0

/-- The fields of RESERVE_STATUS (R181, table 10-13). -/
def reserveFields (d : Device) : List Byte :=
  [d.mode.mode.code, d.mode.level.code] ++ bytesBE 2 d.reserve ++ bytesBE 2 d.mode.ceiling
  ++ bytesBE 2 d.lease.committed ++ bytesBE 2 d.headroom
  ++ bytesBE 1 d.lease.leases.length ++ bytesBE 1 (d.lease.leases.filter fun l => l.phase == .suspended).length
  ++ [optByte d.lease.permit] ++ bytesBE 1 d.lease.claims.length
  ++ bytesBE 1 (d.countPurpose .timer) ++ bytesBE 1 (d.countPurpose .host) ++ bytesBE 1 (d.countPurpose .outage)
  ++ bytesBE 1 (d.countPurpose .test) ++ bytesBE 1 (d.countPurpose .rewake)
  ++ bytesBE 1 (d.wake.queue.filter WakeEntry.isDiscovery).length ++ [d.progressByte]
  ++ bytesBE 1 (d.test.channels.filter Option.isSome).length ++ bytesBE 1 d.test.agenda.length
  ++ bytesBE 6 d.mode.tally ++ bytesBE 5 d.roster.unattributed
  ++ bytesBE 2 d.mode.minutes ++ bytesBE 2 d.mode.framesToMinute

/-- The indexes at or above a start that have an attention entry (R188). -/
def attentionFrom (d : Device) (start : Nat) : List Nat :=
  (List.range 80).filter fun i => start ≤ i && (d.reasonsOf i).any

/-- The fields of ATTENTION_READ (R188, table 10-12). -/
def attentionFields (d : Device) (start : Nat) : List Byte :=
  let all := d.attentionFrom start
  let shown := all.take 8
  [d.port.device.byte, optCode ResetKind.code d.port.device.restarted, boolByte (decide (8 < all.length))]
  ++ bytesBE 1 shown.length ++ shown.flatMap fun i => [BitVec.ofNat 8 i, (d.reasonsOf i).byte]

/-- The fields of STRANGERS_READ (R190, table 10-12). -/
def strangerFields (d : Device) : List Byte :=
  bytesBE 1 d.wake.strangers.length ++ [boolByte d.wake.overflow]
  ++ d.wake.strangers.flatMap fun s => bytesBE 4 s.id.toNat ++ [optByte s.line] ++ bytesBE 2 s.frame.toNat

end Device

/-- The fields of IDENTIFY (R177, table 10-12). -/
def identifyFields : List Byte := [0xA5, 0x64, 0x20, 0x01, 80, 64, 16, 4]

end Sys2Proof.Machine
end

