-- ==== Sys2Proof/Machine/HostPort.lean ====
section
/-! DEFINITION. The Host Port: transactions (R173 to R176), and what each request does when it is carried out (R16 to R25,
R83, R155, R177 to R190). A request's function gives the device after it and the answer; RESET gives none. -/

namespace Sys2Proof.Machine

/-- OK with no fields. -/
def okBare : Answer := (.ok, [])

/-- A result with no fields. -/
def fails (r : Result) : Answer := (r, [])

/-! ## ENROL and AMEND entries (R192) -/

/-- A field number names a field of the list of R18, and is not named twice. -/
def fieldNumbersOk (es : List (Nat × Nat)) : Bool := distinctNumbers es && es.all fun e => 1 ≤ e.1 && e.1 ≤ 8

/-- A line value is a line or "none" (R192). -/
def lineValueOk (v : Nat) : Bool := v < 64 || v == 65535

/-- A field's value is in its range (table 1-1, R192). -/
def fieldValueOk (e : Nat × Nat) : Bool := match e.1 with
  | 1 => (Class.ofCode e.2).isSome
  | 2 => lineValueOk e.2
  | 3 => (WakeMethod.ofCode e.2).isSome
  | 4 => e.2 ≤ 1440
  | 5 => (yesNo e.2).isSome
  | 6 => e.2 ≤ 10080
  | 7 => 1 ≤ e.2 && e.2 ≤ 40
  | 8 => e.2 ≤ 65535
  | _ => false

/-- The line that a value names; none for FFFFh. -/
def lineValue (v : Nat) : Option Nat := if v < 64 then some v else none

/-- A record as ENROL makes it (R17). -/
def Record.enrolled (t : TermId) (c : Class) (es : List (Nat × Nat)) : Record :=
  let line := (entryValue es 2).bind lineValue
  let r : Record :=
    { id := t, line := line, cls := c, state := if line.isSome then .dormant else .pending, reason := none, slot := none
      lease := false, method := ((entryValue es 3).bind WakeMethod.ofCode).getD .auto
      wakeInterval := (entryValue es 4).getD 0, wakeTimer := none
      wakeOnOutage := ((entryValue es 5).bind yesNo).getD c.defaultWakeOnOutage
      testInterval := (entryValue es 6).getD 0, testTimer := none
      cap := (entryValue es 7).getD c.defaultCap, ration := (entryValue es 8).getD 0, charge := 0, rationSpent := false
      capabilities := none, report := none, verdict := none, suspect := false, lastOutcome := none
      tests := 0, failedWakes := 0, lost := 0, idle := 0 }
  r.loadWake.loadTest

/-- The fields of R21 and the class (R19) written. -/
def Record.amend (r : Record) (es : List (Nat × Nat)) : Record :=
  let r := { r with
    cls := ((entryValue es 1).bind Class.ofCode).getD r.cls
    method := ((entryValue es 3).bind WakeMethod.ofCode).getD r.method
    wakeOnOutage := ((entryValue es 5).bind yesNo).getD r.wakeOnOutage
    cap := (entryValue es 7).getD r.cap }
  let r := match entryValue es 4 with
    | some v => ({ r with wakeInterval := v } : Record).loadWake
    | none => r
  let r := match entryValue es 6 with
    | some v => ({ r with testInterval := v } : Record).loadTest
    | none => r
  match entryValue es 8 with
  | some v => { r with
      ration := v, rationSpent := r.rationSpent && v != 0 && decide (v * chargePerMAh ≤ r.charge) }
  | none => r

/-- The bytes of a response: result code, length, fields, check byte (table 10-5). -/
def Response.bytes (r : Response) : List Byte := [r.code, BitVec.ofNat 8 r.fields.length] ++ r.fields ++ [r.check]

namespace Device

/-- The record that a key names by index or by terminal ID (R2). -/
def keyed (d : Device) : Key → Option (Nat × Record)
  | .index i => (d.rec? i).map fun r => (i, r)
  | .id t => (d.findId t).bind fun i => (d.rec? i).map fun r => (i, r)
  | .line _ => none

/-- A request that carries one key of type index or terminal ID: BAD_VALUE for any other parameters (R176, R192), then
NOT_FOUND where no record matches. -/
def withKey (d : Device) (p : List Byte) (go : Nat → Record → Device × Answer) : Device × Answer := match parseKey p with
  | none => (d, fails .badValue)
  | some (.line _) => (d, fails .badValue)
  | some k => match d.keyed k with
    | some (i, r) => go i r
    | none => (d, fails .notFound)

/-- A request that carries no parameters. -/
def bare (d : Device) (p : List Byte) (go : Device × Answer) : Device × Answer :=
  if p.isEmpty then go else (d, fails .badValue)

/-! ## Requests that read -/

/-- IDENTIFY (R177). -/
def carryIdentify (p : List Byte) (d : Device) : Device × Answer := d.bare p (d, .ok, identifyFields)

/-- READ_CONFIG (R185). -/
def carryReadConfig (p : List Byte) (d : Device) : Device × Answer :=
  if 1 ≤ p.length ∧ p.length ≤ 16 ∧ p.all (fun b => (d.settings.get b.toNat).isSome) then
    (d, .ok, p.flatMap fun b => b :: bytesBE 2 ((d.settings.get b.toNat).getD 0))
  else (d, fails .badValue)

/-- LOOKUP (R25, R179). -/
def carryLookup (p : List Byte) (d : Device) : Device × Answer :=
  let part := byteAt p 5
  if p.length ≠ 6 ∨ part = 0 ∨ 3 < part then (d, fails .badValue)
  else match parseKey (p.take 5) with
    | none => (d, fails .badValue)
    | some (.line l) =>
      let view := match (d.line? l).bind Line.binding with
        | some i => d.viewPart i part
        | none => [0xFF]
      (d, .ok, view ++ d.lineBytes l)
    | some k => match d.keyed k with
      | some (i, _) => (d, .ok, d.viewPart i part)
      | none => (d, fails .notFound)

/-- SCAN_NEXT (R25). -/
def carryScanNext (p : List Byte) (d : Device) : Device × Answer :=
  let filter := p.getD 1 0
  if p.length ≠ 2 ∨ 79 < byteAt p 0 ∨ filter = 0 ∨ filter.getLsbD 7 then (d, fails .badValue)
  else match (List.range 80).find? fun i => byteAt p 0 ≤ i && (d.rec? i).any (fun r =>
      filter.getLsbD (r.state.code.toNat - 1)) with
    | some i => (d, .ok, bytesBE 1 i)
    | none => (d, .end_, [])

/-- RESERVE_STATUS (R181). -/
def carryReserveStatus (p : List Byte) (d : Device) : Device × Answer := d.bare p (d, .ok, d.reserveFields)

/-- ATTENTION_READ (R188). -/
def carryAttentionRead (p : List Byte) (d : Device) : Device × Answer :=
  if 1 < p.length ∨ 79 < byteAt p 0 then (d, fails .badValue) else (d, .ok, d.attentionFields (byteAt p 0))

/-- STRANGERS_READ (R190). -/
def carryStrangersRead (p : List Byte) (d : Device) : Device × Answer := d.bare p (d, .ok, d.strangerFields)

/-! ## Settings -/

/-- The level count restarted where a threshold or level confirm has changed (R51). -/
def restartLevel (d : Device) (old : Settings) : Device :=
  let s := d.settings
  if s.lowEnter = old.lowEnter ∧ s.lowLeave = old.lowLeave ∧ s.criticalEnter = old.criticalEnter
    ∧ s.criticalLeave = old.criticalLeave ∧ s.exhaustedEnter = old.exhaustedEnter
    ∧ s.exhaustedLeave = old.exhaustedLeave ∧ s.levelConfirm = old.levelConfirm then d
  else { d with mode := { d.mode with evidence := .none, confirm := 0 } }

/-- The ceiling in force follows its setting (R50): a fall sheds, a rise serves the claim queue; the Wake Sequencer examines
its head at the change (R49). -/
def followCeiling (d : Device) : Device :=
  let c := d.settings.ceilingOf d.mode.level
  let d' := { d with mode := { d.mode with ceiling := c } }
  if c < d.mode.ceiling then d'.shed.examineWake
  else if d.mode.ceiling < c then d'.serve.examineWake
  else d

/-- CONFIGURE (R50, R51, R184): judged whole, then every named setting written. -/
def carryConfigure (p : List Byte) (d : Device) : Device × Answer := match parseEntries p with
  | none => (d, fails .badValue)
  | some es =>
    let new := es.foldl (fun s e => s.put e.1 e.2) d.settings
    if 1 ≤ es.length ∧ es.length ≤ 10 ∧ distinctNumbers es ∧ es.all settingOk ∧ new.ordered then
      ((({ d with settings := new } : Device).restartLevel d.settings).followCeiling, okBare)
    else (d, fails .badValue)

/-! ## The roster -/

/-- The lowest empty index (R1). -/
def emptyIndex (d : Device) : Option Nat := d.roster.records.findIdx? Option.isNone

/-- The checks of R16 and the record of R17. -/
def enrol (d : Device) (t : TermId) (c : Class) (es : List (Nat × Nat)) : Device × Answer :=
  if (d.findId t).isSome then (d, fails .duplicateId)
  else if ((entryValue es 2).bind lineValue).any d.lineTaken then (d, fails .lineTaken)
  else match d.emptyIndex with
    | none => (d, fails .rosterFull)
    | some i =>
      let r := Record.enrolled t c es
      let d := d.putRec i (some r)
      (match r.line with
        | some l => d.modLine l fun x => { x with binding := some i }
        | none => d, .ok, bytesBE 1 i)

/-- ENROL (R16, R178, R192). -/
def carryEnrol (p : List Byte) (d : Device) : Device × Answer :=
  let t : TermId := BitVec.ofNat 32 (natBE (p.take 4))
  match parseEntries (p.drop 5), Class.ofCode (byteAt p 4) with
  | some es, some c =>
    if 5 ≤ p.length ∧ fieldNumbersOk es ∧ (entryValue es 1).isNone ∧ es.all fieldValueOk ∧ validId t then d.enrol t c es
    else (d, fails .badValue)
  | _, _ => (d, fails .badValue)

/-- The first answer that the conditions of R19 to R21 draw, field by field in the order of R18. -/
def amendCheck (d : Device) (i : Nat) (r : Record) (es : List (Nat × Nat)) : Option Result :=
  if (entryValue es 1).isSome ∧ ((d.leaseOf i).isSome ∨ d.hasClaim i) then some .locked
  else if (entryValue es 2).isSome ∧ r.state ≠ .dormant ∧ r.state ≠ .pending ∧ r.state ≠ .quarantined then
    some .wrongState
  else if ((entryValue es 2).bind lineValue).any (fun l => r.line != some l && d.lineTaken l) then some .lineTaken
  else if (entryValue es 3).isSome ∧ r.state = .waking then some .locked
  else none

/-- A record's old line given up: unbound, and unlatched where it was TRIPPED (R20). -/
def leaveLine (d : Device) (r : Record) : Device := match r.line with
  | some l => (d.modLine l fun x => { x with binding := none }).orderUnlatch l
  | none => d

/-- A line amended (R20). Where the line is removed and both an agenda entry and a wake queue entry go, the agenda is examined
first and the head of the wake queue after it (log 31). -/
def amendLine (d : Device) (i : Nat) (r : Record) (line : Option Nat) : Device :=
  if r.line = line then d
  else match line with
    | some l =>
      let d := (d.leaveLine r).bindLine i l
      if r.state = .pending then d.request i r.id .amendGaveLine else d
    | none =>
      let had := d.inAgenda i
      let d := (d.leaveLine r).request i r.id .amendRemovedLine
      let d := ((d.modRec i fun r => { r with line := none }).dropWakeRecord i).removeAgenda i
      if had then d.examineAgenda else d

/-- A taken AMEND: every field changed in the one handling; where the head of the wake queue changes, it is examined
(R18 to R21, R84). -/
def amendRecord (d : Device) (i : Nat) (r : Record) (es : List (Nat × Nat)) : Device :=
  let d1 := d.modRec i fun r => r.amend es
  headCheck d (match entryValue es 2 with
    | some v => d1.amendLine i r (lineValue v)
    | none => d1)

/-- AMEND (R18, R178, R192). A line value outside 0 to 63 and "none" is refused with the layout, ahead of NOT_FOUND (R176,
log 18). -/
def carryAmend (p : List Byte) (d : Device) : Device × Answer := match parseEntries (p.drop 5) with
  | none => (d, fails .badValue)
  | some es =>
    if p.length < 5 ∨ !fieldNumbersOk es ∨ !((entryValue es 2).all lineValueOk) then (d, fails .badValue)
    else d.withKey (p.take 5) fun i r =>
      if es.isEmpty ∨ !es.all fieldValueOk then (d, fails .badValue)
      else match d.amendCheck i r es with
        | some e => (d, fails e)
        | none => (d.amendRecord i r es, .ok, bytesBE 1 i)

/-- RETIRE (R22, R178). -/
def carryRetire (p : List Byte) (d : Device) : Device × Answer := d.withKey p fun i _ => (d.retireRecord i, okBare)

/-- The indexes of the QUARANTINED records, rising (R23). -/
def quarantinedIndexes (d : Device) : List Nat := (List.range 80).filter fun i => d.inState i .quarantined

/-- PURGE (R23, R178). -/
def carryPurge (p : List Byte) (d : Device) : Device × Answer :=
  d.bare p (d.quarantinedIndexes.foldl retireRecord d, .ok, bytesBE 1 d.quarantinedIndexes.length)

/-- REINSTATE of a QUARANTINED record (R24). -/
def reinstateRecord (d : Device) (i : Nat) (r : Record) : Device :=
  let d := d.request i r.id .reinstate
  (d.modRec i fun r => { r with failedWakes := 0, lost := 0 }).onLineOf i orderUnlatch

/-- REINSTATE (R24, R178). -/
def carryReinstate (p : List Byte) (d : Device) : Device × Answer := d.withKey p fun i r =>
  if r.state = .quarantined then (d.reinstateRecord i r, okBare) else (d, fails .wrongState)

/-! ## Wakes, tests, discoveries -/

/-- A request judged outside OUTAGE is answered WRONG_MODE before its key is looked up; its layout comes first (R155, R176,
R180). -/
def inOutageMode (d : Device) (p : List Byte) (go : Nat → Record → Device × Answer) : Device × Answer := match parseKey p with
  | none => (d, fails .badValue)
  | some (.line _) => (d, fails .badValue)
  | some _ => if d.mode.mode = .outage then d.withKey p go else (d, fails .wrongMode)

/-- WAKE (R180). -/
def carryWake (p : List Byte) (d : Device) : Device × Answer := d.inOutageMode p fun i r =>
  if r.state ≠ .dormant then (d, fails .wrongState)
  else if (d.wakeEntryOf i).isSome then (d, fails .already)
  else (d.requestEntry i r.id .host, okBare)

/-- TEST (R155). -/
def carryTest (p : List Byte) (d : Device) : Device × Answer := d.inOutageMode p fun i r =>
  if r.state = .pending ∨ r.state = .quarantined ∨ r.state = .testing then (d, fails .wrongState)
  else if d.inAgenda i then (d, fails .already)
  else ((d.joinAgenda i r.id .host).examineAgenda, okBare)

/-- The discovery in progress is of this line. -/
def discovering (d : Device) (l : Nat) : Bool := match d.wake.attempt with
  | some a => match a.target with
    | .discovery m => m == l
    | .record _ _ _ => false
  | none => false

/-- DISCOVER (R83). -/
def carryDiscover (p : List Byte) (d : Device) : Device × Answer :=
  let l := byteAt p 0
  if p.length ≠ 1 ∨ 63 < l then (d, fails .badValue)
  else if ((d.line? l).bind Line.binding).isSome then (d, fails .lineTaken)
  else if d.wake.queue.any (fun e => e.isLine l) || d.discovering l then (d, fails .already)
  else if 4 ≤ (d.wake.queue.filter WakeEntry.isDiscovery).length then (d, fails .queueFull)
  else (headCheck d (d.joinWake (.discovery l) false), okBare)

/-! ## Attention and reset -/

/-- The stranger list emptied (R100, R189). -/
def clearStrangers (d : Device) : Device := { d with wake := { d.wake with strangers := [], overflow := false } }

/-- Device reasons cleared (R189). -/
def clearDevice (d : Device) (b : Byte) : Device :=
  let d' := d.raiseDev fun r => r.clear b
  if d.port.device.stranger && b.getLsbD 3 then d'.clearStrangers else d'

/-- Reasons of a record cleared (R189). -/
def clearRecord (d : Device) (i : Nat) (b : Byte) : Device :=
  { d with port := { d.port with records := d.port.records.modify i fun r => r.clear b } }

/-- ATTENTION_CLEAR (R189, R192). -/
def carryAttentionClear (p : List Byte) (d : Device) : Device × Answer :=
  let dev := p.getD 1 0
  let rec_ := p.getD 2 0
  if p.length ≠ 3 ∨ (79 < byteAt p 0 ∧ byteAt p 0 ≠ 255) ∨ 31 < dev.toNat ∨ 63 < rec_.toNat
    ∨ (dev = 0 ∧ rec_ = 0) then (d, fails .badValue)
  else if byteAt p 0 = 255 then
    if rec_ ≠ 0 then (d, fails .badValue) else (d.clearDevice dev, okBare)
  else if dev ≠ 0 then (d, fails .badValue)
  else if (d.rec? (byteAt p 0)).isNone then (d, fails .notFound)
  else (d.clearRecord (byteAt p 0) rec_, okBare)

/-- RESET (R182): the device after it, and no answer for a valid kind. -/
def carryReset (p : List Byte) (d : Device) : Device × Option Answer := match p with
  | [1#8] => ((d.resetTo .warm).startUp .warm, none)
  | [2#8] => ((d.resetTo .cold).startUp .cold, none)
  | _ => (d, some (fails .badValue))

/-- A request that always draws an answer. -/
def answered (r : Device × Answer) : Device × Option Answer := (r.1, some r.2)

/-- The request that a code names carried out; UNKNOWN_REQUEST where it names none (R176, table 10-6). -/
def carryCode (code : Byte) (p : List Byte) (d : Device) : Device × Option Answer := match code.toNat with
  | 0x01 => answered (carryIdentify p d)
  | 0x02 => answered (carryConfigure p d)
  | 0x03 => answered (carryReadConfig p d)
  | 0x10 => answered (carryEnrol p d)
  | 0x11 => answered (carryAmend p d)
  | 0x12 => answered (carryRetire p d)
  | 0x13 => answered (carryPurge p d)
  | 0x14 => answered (carryReinstate p d)
  | 0x15 => answered (carryLookup p d)
  | 0x16 => answered (carryScanNext p d)
  | 0x20 => answered (carryWake p d)
  | 0x21 => answered (carryTest p d)
  | 0x22 => answered (carryDiscover p d)
  | 0x30 => answered (carryReserveStatus p d)
  | 0x31 => answered (carryAttentionRead p d)
  | 0x32 => answered (carryAttentionClear p d)
  | 0x33 => answered (carryStrangersRead p d)
  | 0x3F => carryReset p d
  | _ => answered (d, fails .unknownRequest)

/-! ## Transactions -/

/-- `n` bytes of no meaning: free values, the k-th from the counter on (R173, R174, log 8). -/
def idleBytes (d : Device) (n : Nat) : List (Option Byte) :=
  (List.range n).map fun k => some (Config.meaninglessByte (d.freeCount + k))

/-- What SDO carries in a transaction: the status byte judged as it begins, then these bytes; the overlap mark, shown in the
status byte, is cleared (R173 to R175). `free` of the bytes were free values. -/
def shiftOut (d : Device) (rest : List (Option Byte)) (free : Nat) : Device :=
  { d with
    port := { d.port with sdo := some d.statusByte :: rest, overlap := false }
    freeCount := d.freeCount + free }

/-- A response placed in the buffer: its check byte makes the sum 0, and the status is READY (R174, R176). -/
def place (d : Device) (a : Answer) : Device :=
  { d with port := { d.port with
      status := .ready, request := []
      response := some ⟨a.1.code, a.2, checkByte (a.1.code :: BitVec.ofNat 8 a.2.length :: a.2)⟩ } }

/-- A REQUEST received while IDLE (R175, R176): WORKING with the frame in the request buffer, carried out, READY. A carried
RESET places nothing (R182). -/
def receive (d : Device) (frame : List Byte) (carry : Device → Device × Option Answer) : Device :=
  let r := carry { d with port := { d.port with status := .working, request := frame } }
  match r.2 with
  | some a => r.1.place a
  | none => r.1

/-- A REQUEST transaction of these bytes, judged at its end: carried out where the port is IDLE, discarded with the overlap
mark set where it is not (R173, R175). -/
def requestTransaction (d : Device) (bytes : List Byte) (carry : Device → Device × Option Answer) : Device :=
  let d' := d.shiftOut (d.idleBytes (bytes.length - 1)) (bytes.length - 1)
  match d.port.status with
  | .idle => d'.receive bytes carry
  | .working => { d' with port := { d'.port with overlap := true } }
  | .ready => { d' with port := { d'.port with overlap := true } }

/-- The bytes of a REQUEST with a good check byte (table 10-5). -/
def requestBytes (code : Byte) (p : List Byte) : List Byte := withCheck ([0xA1, code, BitVec.ofNat 8 p.length] ++ p)

/-- A REQUEST of a code with parameters and a good check byte; more than 32 parameters are a bad frame (R176). -/
def hostRequest (d : Device) (code : Byte) (p : List Byte) (carry : Device → Device × Option Answer) : Device :=
  d.requestTransaction (requestBytes code p) fun d =>
    if 32 < p.length then answered (d, fails .badFrame) else carry d

/-- The frame judgement of R176, step 1, over the bytes after the type byte: the code and the parameters of a good frame. -/
def goodFrame (bytes : List Byte) : Option (Byte × List Byte) := match bytes with
  | code :: len :: rest =>
    if len.toNat ≤ 32 ∧ len.toNat < rest.length ∧ byteSum (0xA1 :: code :: len :: rest.take (len.toNat + 1)) = 0 then
      some (code, rest.take len.toNat)
    else none
  | _ => none

/-- A REQUEST of any bytes after its type byte (R176). -/
def rawRequest (d : Device) (bytes : List Byte) : Device :=
  d.requestTransaction (0xA1 :: bytes) fun d => match goodFrame bytes with
    | some (code, p) => d.carryCode code p
    | none => answered (d, fails .badFrame)

/-- A FETCH transaction of `n` whole bytes (R173, R174): after the status byte the response where READY, shifted out whole or
in part; shifted out whole, it frees the buffer. -/
def fetchTransaction (d : Device) (n : Nat) : Device :=
  if n = 0 then d
  else match d.port.status, d.port.response with
    | .ready, some r =>
      let free := n - 1 - r.bytes.length
      let d' := d.shiftOut ((r.bytes.take (n - 1)).map some ++ d.idleBytes free) free
      if r.bytes.length ≤ n - 1 then { d' with port := { d'.port with status := .idle, response := none } } else d'
    | _, _ => d.shiftOut (d.idleBytes (n - 1)) (n - 1)

/-- A transaction of these bytes from the host (R173): by its type byte; one of no whole byte is ignored, and one of an
unknown type is ignored after its first byte. -/
def transaction (d : Device) (bytes : List Byte) : Device := match bytes with
  | [] => d
  | b :: rest =>
    if b = 0xA1 then d.rawRequest rest
    else if b = 0xB2 then d.fetchTransaction (rest.length + 1)
    else d.shiftOut [] 0

end Device

end Sys2Proof.Machine
end

