-- ==== Sys2Proof/Machine/Events.lean ====
section
/-! DEFINITION. How a command reaches the device: a change of a supply or reset pin, an event from outside, or the name of an
event that has come about (log 1, log 2). -/

namespace Sys2Proof.Machine

/-- What a command answers: the state with its device changed, the queue untouched. -/
abbrev Answered := Host.Outcome State Fault Refusal

namespace State

/-- A change of a supply or of RESET_N: it acts whatever stands, and handles no due event before it (R32, R33, log 12). -/
def supply (s : State) (f : Device → Device) : Answered := .next { s with dev := f s.dev }

/-- An event from outside: while VIN is absent or a reset is held it is not taken (R32, R33); otherwise the due events are
handled, and then it is (log 1). After a reset an event that needs no frame, such as a transaction of the host, is taken before the
frame start of frame 0 too (R34; log 42). -/
def outside (s : State) (f : Device → Device) : Answered :=
  .next { s with dev := if s.dev.running then f s.dev.settle else s.dev }

/-- An event from outside whose operands must be in range: out of range it changes nothing (log 28). -/
def guarded (s : State) (ok : Bool) (f : Device → Device) : Answered := s.outside fun d => if ok then f d else d

/-- A half of the frame: it is taken in the order of R53, each once and after the frame start; where its turn has passed, and
before frame 0, it has not come about and changes nothing (log 2, log 4). `valid`: the half is of a slot that there is. -/
def half (s : State) (valid : Bool) (p : Nat) (f : Device → Device) : Answered :=
  s.outside fun d => if valid && d.inTurn p then f d else d

/-- A due event named by the sender (log 2). -/
def named (s : State) (e : Due) : Answered := .next { s with dev := if s.dev.running then s.dev.takeDue e else s.dev }

end State

/-- A terminal slot number (table 3-1). -/
def slotNumber (n : Nat) : Bool := 2 ≤ n && n ≤ 17

end Sys2Proof.Machine
end

