-- ==== Sys2Proof/Machine/FrameCommands.lean ====
section
/-! DEFINITION. The commands of the frame, the mode and the outage clock (R36 to R43, R53, R81, R153). -/

namespace Sys2Proof.Machine

/-- FRAME_START with the level of MAINS_OK at its sample (R36, R37, R42, R53, R58, R72, R73, R193). -/
def execFrameStart (mainsOk : Bool) (s : State) : Answered := s.outside fun d => d.frameStart mainsOk

/-- OUTAGE_START (R39, R40, R28, R103, R132, R152). -/
def execOutageStart (s : State) : Answered := s.named .outageStart

/-- OUTAGE_END (R41, R104, R132, R168). -/
def execOutageEnd (s : State) : Answered := s.named .outageEnd

/-- OUTAGE_MINUTE (R42, R43). -/
def execOutageMinute (s : State) : Answered := s.named .outageMinute

/-- WAKE_TIMER_EXPIRY (R81). -/
def execWakeTimerExpiry (i : Nat) (s : State) : Answered := s.named (.wakeTimer i)

/-- TEST_TIMER_EXPIRY (R153). -/
def execTestTimerExpiry (i : Nat) (s : State) : Answered := s.named (.testTimer i)

end Sys2Proof.Machine
end

