-- ==== Sys2Proof/Machine/HostCommands.lean ====
section
/-! DEFINITION. The transactions at the host port (R172 to R176) and the eighteen requests (table 8-2): a whole REQUEST of each
code with its parameters and a good check byte. -/

namespace Sys2Proof.Machine

/-- A REQUEST of a code, which its function answers always. -/
def State.request (s : State) (code : Byte) (p : List Byte) (carry : List Byte → Device → Device × Answer) : Answered :=
  s.outside fun d => d.hostRequest code p fun d => Device.answered (carry p d)

/-- FETCH of `bytes` whole bytes, the type byte among them (R173, R174). -/
def execFetch (bytes : Nat) (s : State) : Answered := s.outside fun d => d.fetchTransaction bytes

/-- UNKNOWN_TRANSACTION (R173, R175). -/
def execUnknownTransaction (bytes : List Byte) (s : State) : Answered := s.outside fun d => d.transaction bytes

/-- UNKNOWN_REQUEST (R176, step 2). -/
def execUnknownRequest (code : Byte) (p : List Byte) (s : State) : Answered :=
  s.outside fun d => d.hostRequest code p fun d => d.carryCode code p

/-- REQUEST_BAD_FRAME (R176, step 1). -/
def execRequestBadFrame (bytes : List Byte) (s : State) : Answered := s.outside fun d => d.rawRequest bytes

/-- IDENTIFY (R177). -/
def execIdentify (p : List Byte) (s : State) : Answered := s.request 0x01 p Device.carryIdentify

/-- CONFIGURE (R50, R51, R184). -/
def execConfigure (p : List Byte) (s : State) : Answered := s.request 0x02 p Device.carryConfigure

/-- READ_CONFIG (R185). -/
def execReadConfig (p : List Byte) (s : State) : Answered := s.request 0x03 p Device.carryReadConfig

/-- ENROL (R16, R17, R178). -/
def execEnrol (p : List Byte) (s : State) : Answered := s.request 0x10 p Device.carryEnrol

/-- AMEND (R18 to R21, R178). -/
def execAmend (p : List Byte) (s : State) : Answered := s.request 0x11 p Device.carryAmend

/-- RETIRE (R22, R178). -/
def execRetire (p : List Byte) (s : State) : Answered := s.request 0x12 p Device.carryRetire

/-- PURGE (R23, R178). -/
def execPurge (p : List Byte) (s : State) : Answered := s.request 0x13 p Device.carryPurge

/-- REINSTATE (R24, R178). -/
def execReinstate (p : List Byte) (s : State) : Answered := s.request 0x14 p Device.carryReinstate

/-- LOOKUP (R25, R179). -/
def execLookup (p : List Byte) (s : State) : Answered := s.request 0x15 p Device.carryLookup

/-- SCAN_NEXT (R25, R179). -/
def execScanNext (p : List Byte) (s : State) : Answered := s.request 0x16 p Device.carryScanNext

/-- WAKE (R180). -/
def execWake (p : List Byte) (s : State) : Answered := s.request 0x20 p Device.carryWake

/-- TEST (R155). -/
def execTest (p : List Byte) (s : State) : Answered := s.request 0x21 p Device.carryTest

/-- DISCOVER (R83). -/
def execDiscover (p : List Byte) (s : State) : Answered := s.request 0x22 p Device.carryDiscover

/-- RESERVE_STATUS (R181). -/
def execReserveStatus (p : List Byte) (s : State) : Answered := s.request 0x30 p Device.carryReserveStatus

/-- ATTENTION_READ (R188). -/
def execAttentionRead (p : List Byte) (s : State) : Answered := s.request 0x31 p Device.carryAttentionRead

/-- ATTENTION_CLEAR (R189). -/
def execAttentionClear (p : List Byte) (s : State) : Answered := s.request 0x32 p Device.carryAttentionClear

/-- STRANGERS_READ (R190). -/
def execStrangersRead (p : List Byte) (s : State) : Answered := s.request 0x33 p Device.carryStrangersRead

/-- RESET (R182). -/
def execReset (p : List Byte) (s : State) : Answered :=
  s.outside fun d => d.hostRequest 0x3F p (Device.carryReset p)

end Sys2Proof.Machine
end

