-- ==== Sys2Proof/Machine/LeaseTestCommands.lean ====
section
/-! DEFINITION. The expiries of leases, claims and tests (R119, R122, R161, R163). -/

namespace Sys2Proof.Machine

/-- LEASE_EXPIRY (R122, R124). -/
def execLeaseExpiry (i : Nat) (s : State) : Answered := s.named (.leaseExpiry i)

/-- CLAIM_WAIT_EXPIRY (R119). -/
def execClaimWaitExpiry (i : Nat) (s : State) : Answered := s.named (.claimWait i)

/-- TEST_WINDOW_END (R163 to R166). -/
def execTestWindowEnd (c : Nat) (s : State) : Answered := s.named (.testWindow c)

/-- TEST_BEGIN_TIMEOUT (R161, R164 to R166). -/
def execTestBeginTimeout (c : Nat) (s : State) : Answered := s.named (.testBegin c)

end Sys2Proof.Machine
end

