-- ==== Sys2Proof/Machine/LineCommands.lean ====
section
/-! DEFINITION. The commands of the lines and the sense inputs (R45, R46, R125, R129, R136 to R147). -/

namespace Sys2Proof.Machine

namespace Device

/-- TRIP_N of a line changes its level (R139, R193): a low of 50 µs or more asserts it, and that is a trip of a switch that is
out of OFF; one that is asserted already stays so; a release changes nothing else. -/
def tripPin (d : Device) (l : Nat) (pin : TripPin) : Device := match pin with
  | .release => d.modLine l fun x => { x with tripLow := false }
  | .low ns =>
    if ns < 50000 || (d.line? l).any Line.tripLow then d
    else (d.modLine l fun x => { x with tripLow := true }).tripped l

/-- TRIP_N changes while the device takes no event: the level alone is kept (R32, R33, R148, log 11). -/
def tripLevel (d : Device) (l : Nat) (pin : TripPin) : Device := match pin with
  | .release => d.modLine l fun x => { x with tripLow := false }
  | .low ns => if ns < 50000 then d else d.modLine l fun x => { x with tripLow := true }

/-- The trip command: the line's due trip is handled where there is one, else every due event is, and then the pin changes. -/
def tripCommand (d : Device) (l : Nat) (pin : TripPin) : Device :=
  if d.running then
    (if d.due.contains (.trip l) then d.takeDue (.trip l) else d.settle).tripPin l pin
  else d.tripLevel l pin

end Device

/-- PULSE_END (R89, R137). -/
def execPulseEnd (l : Nat) (s : State) : Answered := s.named (.pulseEnd l)

/-- TRIP (R139 to R141). -/
def execTrip (l : Nat) (pin : TripPin) (s : State) : Answered := .next { s with dev := s.dev.tripCommand l pin }

/-- SCAN_ROUND with the 64 line currents in mA and the reserve voltage in units of 10 mV (R44, R45, R54, R125, R136, R143 to
R147), after the beacon of its frame. A second round of one frame, and one before frame 0, has not come about (R143, log 2,
log 39). -/
def execScanRound (currents : List Nat) (reserve : Nat) (s : State) : Answered :=
  s.guarded (currents.length == 64) fun d => if d.roundOpen then d.beaconFirst.scanRound currents reserve else d

/-- SOFTSTART_COMPLETE (R136). -/
def execSoftstartComplete (l : Nat) (s : State) : Answered := s.named (.softstart l)

/-- OVERDRAW_NOTICE (R129, R147): taken after what its round made due (log 36). -/
def execOverdrawNotice (l : Nat) (s : State) : Answered := s.outside fun d => d.takeNotice l

/-- LEVEL_CHANGE (R45 to R49, R127). -/
def execLevelChange (s : State) : Answered := s.named .levelChange

end Sys2Proof.Machine
end

