-- ==== Sys2Proof/Machine/RiserCommands.lean ====
section
/-! DEFINITION. The commands of the riser pair: what is sent and received, and the losses and rests of slot holders (R54 to
R77, R90, R99). -/

namespace Sys2Proof.Machine

/-- BEACON (R54, R191). -/
def execBeacon (s : State) : Answered := s.half true 1 .beacon

/-- ATTACH_WORD (R55, R56, R191). -/
def execAttachWord (s : State) : Answered := s.half true 2 .attachWord

/-- TERMINAL_DOWNLINK (R64, R191). -/
def execTerminalDownlink (slot : Nat) (s : State) : Answered :=
  s.half (slotNumber slot) (2 * slot) fun d => d.terminalDownlink slot

/-- REPEAT_LIMIT_LOST (R64, R75 to R77). -/
def execRepeatLimitLost (slot : Nat) (s : State) : Answered :=
  s.half (slotNumber slot) (2 * slot) fun d => d.repeatLimitLost slot

/-- ATTACH_UPLINK (R57, R67, R191). -/
def execAttachUplink (word : List Byte) (s : State) : Answered := s.half true 3 fun d => d.attachUplink word

/-- TERMINAL_UPLINK (R66, R67, R191). -/
def execTerminalUplink (slot : Nat) (word : List Byte) (s : State) : Answered :=
  s.half (slotNumber slot) (2 * slot + 1) fun d => d.terminalUplink slot word

/-- SILENCE_LOST (R72, R75 to R77). -/
def execSilenceLost (slot : Nat) (s : State) : Answered := s.named (.silenceLost slot)

/-- IDLE_REST (R73). -/
def execIdleRest (i : Nat) (s : State) : Answered := s.named (.idleRest i)

/-- ATTACH_WINDOW_EXPIRY (R90). -/
def execAttachWindowExpiry (s : State) : Answered := s.named .attachWindow

/-- DISCOVERY_WINDOW_EXPIRY (R99). -/
def execDiscoveryWindowExpiry (s : State) : Answered := s.named .discoveryWindow

end Sys2Proof.Machine
end

