-- ==== Sys2Proof/Machine/SupplyCommands.lean ====
section
/-! DEFINITION. The commands of the supplies and of RESET_N (R31 to R34). -/

namespace Sys2Proof.Machine

/-- VIN_LOSS (R32). -/
def execVinLoss (s : State) : Answered := s.supply .vinFalls

/-- VIN_RETURN (R31, R32, R34; log 10). -/
def execVinReturn (keepBelow : Bool) (s : State) : Answered := s.supply fun d => d.vinReturns keepBelow

/-- KEEP_LOSS (R31, R32). -/
def execKeepLoss (s : State) : Answered := s.supply .keepFalls

/-- RESET_N_LOW (R33, R193; log 7). -/
def execResetNLow (nanoseconds : Nat) (s : State) : Answered := s.supply fun d => d.resetNLow nanoseconds

/-- RESET_N_RISE (R33, R34). -/
def execResetNRise (s : State) : Answered := s.supply .resetNRises

end Sys2Proof.Machine
end

