-- ==== Sys2Proof/Machine/UplinkCommands.lean ====
section
/-! DEFINITION. The takes of the oldest uplink FIFO entry, by its kind (R57, R67 to R71). A take that names another kind than
the oldest entry's takes nothing (log 19). -/

namespace Sys2Proof.Machine

/-- ANNOUNCE (R57, R93 to R98). -/
def execAnnounce (s : State) : Answered := s.outside fun d => d.takeRow .announce

/-- CLAIM (R68 to R71, R108 to R115). -/
def execClaim (s : State) : Answered := s.outside fun d => d.takeRow .claim

/-- RENEW (R68 to R71, R121). -/
def execRenew (s : State) : Answered := s.outside fun d => d.takeRow .renew

/-- RELEASE (R68 to R71, R123). -/
def execRelease (s : State) : Answered := s.outside fun d => d.takeRow .release

/-- REPORT (R68 to R71, R116, R161, R162). -/
def execReport (s : State) : Answered := s.outside fun d => d.takeRow .report

/-- REST_REQUEST (R68 to R71, R73). -/
def execRestRequest (s : State) : Answered := s.outside fun d => d.takeRow .restRequest

/-- NOP (R68 to R71). -/
def execNop (s : State) : Answered := s.outside fun d => d.takeRow .nop

/-- UNKNOWN_UPLINK_KIND (R68 to R71). -/
def execUnknownUplinkKind (s : State) : Answered := s.outside fun d => d.takeRow .unknown

end Sys2Proof.Machine
end

