-- ==== Sys2Proof/Machine/Dispatch.lean ====
section
/-! DEFINITION. The meaning of every command: one arm per row of spec/opcode_table.json. -/

namespace Sys2Proof.Machine

open Sys2Proof

/-- What a command does to everything but the queue of waiting commands. -/
def exec (i : Instr) (s : State) : Host.Outcome State Fault Refusal :=
  match i with
  | .vinLoss => Sys2Proof.Machine.execVinLoss s
  | .vinReturn keepBelow => Sys2Proof.Machine.execVinReturn keepBelow s
  | .keepLoss => Sys2Proof.Machine.execKeepLoss s
  | .resetNLow ns => Sys2Proof.Machine.execResetNLow ns s
  | .resetNRise => Sys2Proof.Machine.execResetNRise s
  | .frameStart mainsOk => Sys2Proof.Machine.execFrameStart mainsOk s
  | .outageStart => Sys2Proof.Machine.execOutageStart s
  | .outageEnd => Sys2Proof.Machine.execOutageEnd s
  | .outageMinute => Sys2Proof.Machine.execOutageMinute s
  | .wakeTimerExpiry idx => Sys2Proof.Machine.execWakeTimerExpiry idx s
  | .testTimerExpiry idx => Sys2Proof.Machine.execTestTimerExpiry idx s
  | .beacon => Sys2Proof.Machine.execBeacon s
  | .attachWord => Sys2Proof.Machine.execAttachWord s
  | .terminalDownlink n => Sys2Proof.Machine.execTerminalDownlink n s
  | .repeatLimitLost n => Sys2Proof.Machine.execRepeatLimitLost n s
  | .attachUplink w => Sys2Proof.Machine.execAttachUplink w s
  | .terminalUplink n w => Sys2Proof.Machine.execTerminalUplink n w s
  | .announce => Sys2Proof.Machine.execAnnounce s
  | .claim => Sys2Proof.Machine.execClaim s
  | .renew => Sys2Proof.Machine.execRenew s
  | .release => Sys2Proof.Machine.execRelease s
  | .report => Sys2Proof.Machine.execReport s
  | .restRequest => Sys2Proof.Machine.execRestRequest s
  | .nop => Sys2Proof.Machine.execNop s
  | .unknownUplinkKind => Sys2Proof.Machine.execUnknownUplinkKind s
  | .silenceLost n => Sys2Proof.Machine.execSilenceLost n s
  | .idleRest idx => Sys2Proof.Machine.execIdleRest idx s
  | .attachWindowExpiry => Sys2Proof.Machine.execAttachWindowExpiry s
  | .discoveryWindowExpiry => Sys2Proof.Machine.execDiscoveryWindowExpiry s
  | .pulseEnd l => Sys2Proof.Machine.execPulseEnd l s
  | .trip l pin => Sys2Proof.Machine.execTrip l pin s
  | .scanRound cs v => Sys2Proof.Machine.execScanRound cs v s
  | .softstartComplete l => Sys2Proof.Machine.execSoftstartComplete l s
  | .overdrawNotice l => Sys2Proof.Machine.execOverdrawNotice l s
  | .levelChange => Sys2Proof.Machine.execLevelChange s
  | .leaseExpiry idx => Sys2Proof.Machine.execLeaseExpiry idx s
  | .claimWaitExpiry idx => Sys2Proof.Machine.execClaimWaitExpiry idx s
  | .testWindowEnd c => Sys2Proof.Machine.execTestWindowEnd c s
  | .testBeginTimeout c => Sys2Proof.Machine.execTestBeginTimeout c s
  | .fetch n => Sys2Proof.Machine.execFetch n s
  | .unknownTransaction bs => Sys2Proof.Machine.execUnknownTransaction bs s
  | .unknownRequest code p => Sys2Proof.Machine.execUnknownRequest code p s
  | .identify p => Sys2Proof.Machine.execIdentify p s
  | .configure p => Sys2Proof.Machine.execConfigure p s
  | .readConfig p => Sys2Proof.Machine.execReadConfig p s
  | .enrol p => Sys2Proof.Machine.execEnrol p s
  | .amend p => Sys2Proof.Machine.execAmend p s
  | .retire p => Sys2Proof.Machine.execRetire p s
  | .purge p => Sys2Proof.Machine.execPurge p s
  | .reinstate p => Sys2Proof.Machine.execReinstate p s
  | .lookup p => Sys2Proof.Machine.execLookup p s
  | .scanNext p => Sys2Proof.Machine.execScanNext p s
  | .wake p => Sys2Proof.Machine.execWake p s
  | .test p => Sys2Proof.Machine.execTest p s
  | .discover p => Sys2Proof.Machine.execDiscover p s
  | .reserveStatus p => Sys2Proof.Machine.execReserveStatus p s
  | .attentionRead p => Sys2Proof.Machine.execAttentionRead p s
  | .attentionClear p => Sys2Proof.Machine.execAttentionClear p s
  | .strangersRead p => Sys2Proof.Machine.execStrangersRead p s
  | .reset p => Sys2Proof.Machine.execReset p s
  | .requestBadFrame bs => Sys2Proof.Machine.execRequestBadFrame bs s

end Sys2Proof.Machine
end

