-- ==== Sys2Proof/Machine/Step.lean ====
section
/-! DEFINITION. The step: the oldest waiting command, or the tick of a device that no command waits for (log 3). -/

namespace Sys2Proof.Machine

/-- One step: the command at the front of the queue is carried out with the queue's rest; on an empty queue the device handles
the next event of its own, if it has any (log 3). -/
def step (s : State) : Host.Outcome State Fault Refusal := match s.pending with
  | c :: rest => exec c { s with pending := rest }
  | [] => .next { s with dev := s.dev.tick }

/-- The command that a word spells put at the front of the queue; no word spells one (log 6). -/
def State.withFetchWord (s : State) (nbits w : Nat) : State := match decodeTableWord nbits w with
  | some c => { s with pending := c :: s.pending }
  | none => s

end Sys2Proof.Machine
end

