-- ==== Sys2Proof/Safety.lean ====
section
/-! DEFINITION. What stays true of the device: the ranges and capacities of its state, and the law of the committed sum. -/

namespace Sys2Proof.Machine

/-- A state in which the slot field may be present (table 1-1). -/
def RecState.onSlot : RecState → Bool
  | .waking | .attached | .fed | .testing => true
  | .pending | .dormant | .quarantined => false

/-- The parts of a record that its state admits (R5, R10), and the ranges of its counters (R10, R26, table 1-1). -/
def Record.ok (r : Record) : Bool :=
  (r.reason.isNone || r.state == .quarantined) && (r.slot.isNone || r.state.onSlot)
  && (!r.lease || r.state == .fed || r.state == .testing) && (r.idle == 0 || r.state == .attached)
  && decide (r.charge ≤ maxCharge) && decide (r.failedWakes ≤ 7) && decide (r.lost ≤ 15) && decide (r.tests ≤ 255)
  && decide (r.idle ≤ 65535)

/-- A record less the parts that the service of records changes: its state with the reason, slot, lease and idle frames tied
to it, and the wake timer, which becoming DORMANT loads (R5, R10, R80). -/
def Record.standing (r : Record) : Record :=
  { r with state := .pending, reason := none, slot := none, lease := false, idle := 0, wakeTimer := none }

/-- A record less its test results and its failure counters as well (R9, R10). -/
def Record.lasting (r : Record) : Record :=
  { r.standing with verdict := none, suspect := false, lastOutcome := none, tests := 0, failedWakes := 0, lost := 0 }

/-- Every kind appears in a downlink queue at most once (R62). -/
def kindsDistinct : List QEntry → Bool
  | [] => true
  | e :: es => !(es.any fun f => f.cmd.kind == e.cmd.kind) && kindsDistinct es

/-- A downlink queue holds up to 4 commands of different kinds (R61, R62); 0 is never a downlink sequence number (R61); the
silence count stays within 255 (R72). -/
def Holder.ok (h : Holder) : Bool :=
  decide (h.queue.length ≤ 4) && kindsDistinct h.queue && decide (1 ≤ h.nextSeq ∧ h.nextSeq ≤ 15)
  && h.queue.all (fun e => decide (1 ≤ e.seq ∧ e.seq ≤ 15)) && decide (h.silence ≤ 255)

/-- The holder of a HELD slot is as it should be. -/
def Slot.ok (s : Slot) : Bool := match s.use with
  | .held h => h.ok
  | _ => true

namespace Device

/-- The tables have their sizes: 80 records, 64 lines, 16 terminal slots, 4 channels, 80 places in the attention set (R1, R3,
R58, R150, R186). -/
def sizes (d : Device) : Bool :=
  d.roster.records.length == 80 && d.lines.length == 64 && d.riser.slots.length == 16 && d.test.channels.length == 4
  && d.port.records.length == 80

/-- The ranges and capacities of the device's state: the tables' sizes, the records, the downlink queues, the uplink FIFO
(R67), the stranger list (R100), the measurements (R143), the counters (R27, R42, R52) and the order of the settings (R47). -/
def ok (d : Device) : Bool :=
  d.sizes && d.roster.records.all (fun r => r.all Record.ok) && d.riser.slots.all Slot.ok
  && decide (d.riser.fifo.length ≤ 16) && decide (d.wake.strangers.length ≤ 4)
  && d.lines.all (fun x => decide (x.current ≤ 1500)) && decide (d.reserve ≤ 3000)
  && decide (d.roster.unattributed ≤ maxCharge) && decide (d.mode.minutes ≤ 65535) && decide (d.mode.tally ≤ maxTally)
  && d.settings.ordered

/-- The granted steps of every lease in the table. -/
def leaseSteps (d : Device) : Nat := (d.lease.leases.map Lease.steps).sum

/-- The record of a lease is FED or TESTING, and is the record that the lease names (R105). -/
def leaseServed (d : Device) (l : Lease) : Bool := match d.rec? l.index with
  | some r => r.id == l.id && (r.state == .fed || r.state == .testing)
  | none => false

/-- The law of the committed sum (R47, R105, R106): it is the steps of every lease and of the permit, it is within the ceiling
in force, which is that of the level in force under settings that keep their orders, and each record has at most one lease,
which it holds in FED or TESTING. -/
def committedOk (d : Device) : Prop :=
  d.lease.committed = d.leaseSteps + d.lease.permit.getD 0 ∧ d.lease.committed ≤ d.mode.ceiling
  ∧ d.mode.ceiling = d.settings.ceilingOf d.mode.level ∧ d.settings.ordered = true
  ∧ (d.lease.leases.map Lease.index).Nodup ∧ d.lease.leases.all d.leaseServed = true

/-- The device less what a handling in the service of records may change: with the parts of each record that `part` leaves,
without the slot map, the wake queue, the attempt and the eviction, the leases and claims, the switches, the agenda and the
channels, the record reasons and the events due. -/
def still (part : Record → Record) (d : Device) : Device := { d with
  roster := { d.roster with records := d.roster.records.map (Option.map part) }
  riser := { d.riser with slots := [] }
  wake := { Wake.initial with strangers := d.wake.strangers, overflow := d.wake.overflow }
  lease := .initial
  lines := d.lines.map fun x => { x with switch := .off }
  test := .initial
  port := { d.port with records := [] }
  due := [] }

/-- Nothing waits that a change could set in motion: no claim, no wake queue entry, no agenda entry, so that every service and
every examination leaves the device as it is (R85, R118, R156). -/
def quiet (d : Device) : Prop := d.lease.claims = [] ∧ d.wake.queue = [] ∧ d.test.agenda = []

/-- The device as it carries out a REQUEST of a code with parameters: WORKING with the frame in the request buffer, the status
byte of `d` and bytes of no meaning shifted out, the overlap mark cleared (R173 to R175). -/
def working (d : Device) (code : Byte) (p : List Byte) : Device :=
  { d with
    port := { d.port with
      status := .working, request := requestBytes code p, overlap := false
      sdo := some d.statusByte :: d.idleBytes (3 + p.length) }
    freeCount := d.freeCount + (3 + p.length) }

/-- The device with the answer to the request in hand placed in the response buffer (R174, R176). -/
def answers (e : Device) (r : Result) (fields : List Byte) : Device :=
  { e with port := { e.port with
      status := .ready, request := []
      response := some ⟨r.code, fields, checkByte (r.code :: BitVec.ofNat 8 fields.length :: fields)⟩ } }

/-- The slot, with its number, holder and hold number, is HELD by the record at an index, which is in a state. -/
def holds (d : Device) (n : Nat) (hold : Count16) (h : Holder) (r : Record) : Prop :=
  d.slot? n = some ⟨hold, .held h⟩ ∧ d.rec? h.index = some r ∧ r.id = h.id

/-- A command stands in the downlink queue of the record that holds slot `n` (R61). -/
def queued (d : Device) (n : Nat) (c : Cmd) : Prop :=
  ∃ hold h e, d.slot? n = some ⟨hold, .held h⟩ ∧ e ∈ h.queue ∧ e.cmd = c

end Device

namespace State

/-- The device takes events, and `d` is it with every due event handled (log 1). -/
def settled (s : State) (d : Device) : Prop := s.dev.running = true ∧ s.dev.settle = d

/-- The device takes events, `e` is due, and `d` is the device with the urgent events before `e` handled and `e` taken off the
due events (log 1). -/
def dueNow (s : State) (e : Due) (d : Device) : Prop :=
  s.dev.running = true ∧ e ∈ s.dev.due ∧ d = { s.dev.hasten e with due := (s.dev.hasten e).due.erase e }

/-- The oldest uplink FIFO entry is the word `w`, received in slot `n` from the record `r` that holds it as `h`; its
acknowledgement delivers nothing and its sequence number is new; `d` is the device with the entry taken and the number kept
(R67 to R70). -/
def newWord (s : State) (n : Nat) (h : Holder) (r : Record) (w : List Byte) (d : Device) : Prop :=
  ∃ d0 hold rest, s.settled d0 ∧ d0.riser.fifo = ⟨.terminal n hold, w⟩ :: rest ∧ d0.holds n hold h r
    ∧ (∀ e, h.queue.head? = some e → upAck w ≠ some e.seq) ∧ h.lastUp ≠ some (upSeq w)
    ∧ d = ({ d0 with riser := { d0.riser with fifo := rest } } : Device).modHolder n
        fun h => { h with lastUp := some (upSeq w) }

/-- The oldest uplink FIFO entry is an ANNOUNCE received in the attach slot, `a` is what it carries, its ID is one a terminal may
have, and `d` is the device with the entry taken (R57, R67, R93). -/
def heard (s : State) (a : Announce) (d : Device) : Prop :=
  ∃ d0 w frame rest, s.settled d0 ∧ d0.riser.fifo = ⟨.attach frame, w⟩ :: rest ∧ upKind w = .announce ∧ a = announceOf w frame
    ∧ validId a.id = true ∧ d = { d0 with riser := { d0.riser with fifo := rest } }

/-- The port takes a REQUEST of these parameters: the device takes events, with every due event handled it is `d`, the port is
IDLE and the frame fits the request buffer (R173, R175). -/
def takes (s : State) (p : List Byte) (d : Device) : Prop := s.settled d ∧ d.port.status = .idle ∧ p.length ≤ 32

end State

end Sys2Proof.Machine
end

