-- ==== Sys2Proof/Certificates/Slice0/Obligations.lean ====
section
/-! DEFINITION. The statements for the provers: what the commands of the HN6420 do, by the rules of spec/, and what every step
keeps. Where a statement rests on a convention of the model, its docstring names the log entry. -/

section

open Sys2Proof Sys2Proof.Machine

/-! ## Steps, supplies and resets -/

/-- A step carries out the command at the front of the queue, with the queue's rest. -/
def Obligations.StepRunsFrontCommand : Prop :=
  ∀ (c : Instr) (rest : List Instr) (d : Device), step ⟨d, c :: rest⟩ = exec c ⟨d, rest⟩

/-- A step on an empty queue (the model's choice, log 3): the oldest due event, else the oldest uplink word, else the first
overdraw notice, else nothing. What it does with the first three is what the command that names the event, the word or the notice
does at that point; after a due event the agenda examination of the frame start follows where it is next (R156).
The due events before an event from outside are all handled so, oldest first, and those before a named one while they are urgent
(log 1), as many as 4096 at once (log 22). -/
def Obligations.StepOnEmptyQueue : Prop :=
  (∀ d : Device, ∃ d', step ⟨d, []⟩ = .next ⟨d', []⟩
    ∧ (d.running = false → d' = d)
    ∧ (∀ e es, d.running = true → d.due = e :: es → d' = (({ d with due := es } : Device).handle e).finish)
    ∧ (d.running = true → d.due = [] → d.riser.fifo ≠ [] → d' = d.takeWord)
    ∧ (∀ l, d.running = true → d.due = [] → d.riser.fifo = [] → d.lines.findIdx? (fun x => x.overdraw.isSome) = some l →
        d' = d.takeNotice l)
    ∧ (d.due = [] → d.riser.fifo = [] → (∀ x ∈ d.lines, x.overdraw = none) → d' = d))
  ∧ (∀ (d : Device) (q : List Instr), d.running = true →
       (∀ e es, d.due = e :: es →
         let c : Option Instr := match e with
           | .outageStart => some .outageStart | .outageEnd => some .outageEnd | .outageMinute => some .outageMinute
           | .wakeTimer i => some (.wakeTimerExpiry i) | .testTimer i => some (.testTimerExpiry i)
           | .silenceLost n => some (.silenceLost n) | .idleRest i => some (.idleRest i) | .pulseEnd l => some (.pulseEnd l)
           | .attachWindow => some .attachWindowExpiry | .discoveryWindow => some .discoveryWindowExpiry
           | .leaseExpiry i => some (.leaseExpiry i) | .claimWait i => some (.claimWaitExpiry i)
           | .testWindow k => some (.testWindowEnd k) | .testBegin k => some (.testBeginTimeout k)
           | .softstart l => some (.softstartComplete l) | .levelChange => some .levelChange
           | .trip _ => none | .rations => none | .agendaExam => none
         ∀ c', c = some c' → exec c' ⟨d, q⟩ = .next ⟨(({ d with due := es } : Device).handle e).finish, q⟩)
       ∧ (d.due = [] →
         (∀ e es, d.riser.fifo = e :: es →
           let c : Instr := match e.origin, upKind e.word with
             | .terminal _ _, .announce => .unknownUplinkKind
             | _, .claim => .claim | _, .renew => .renew | _, .release => .release | _, .report => .report
             | _, .restRequest => .restRequest | _, .nop => .nop | _, .announce => .announce | _, .unknown => .unknownUplinkKind
           exec c ⟨d, q⟩ = .next ⟨d.takeWord, q⟩)
         ∧ ∀ l, exec (.overdrawNotice l) ⟨d, q⟩ = .next ⟨d.takeNotice l, q⟩))
  ∧ (∀ d : Device, d.handle .agendaExam = d.examineAgenda
       ∧ (d.due.head? ≠ some .agendaExam → d.finish = d)
       ∧ ∀ es, d.due = .agendaExam :: es → d.finish = ({ d with due := es } : Device).examineAgenda)
  ∧ (let first (d : Device) : Device := match d.due with
       | [] => d
       | e :: es => (({ d with due := es } : Device).handle e).finish
     let urgent : Due → Bool := fun x => match x with
       | .wakeTimer _ => true
       | .testTimer _ => true
       | .trip _ => true
       | _ => false
     ∀ d : Device, d.settle = first^[4096] d
       ∧ ∀ e, d.hasten e =
         (fun d : Device => if d.due.head?.any (fun x => urgent x && x != e) = true then first d else d)^[4096] d)

/-- While VIN is absent or a reset is held, every command but those of the supplies and RESET_N changes nothing; a TRIP_N pin
keeps its level (log 11). -/
def Obligations.AbsentOrHeldTakesNoEvent : Prop :=
  ∀ (c : Instr) (s : State), s.dev.running = false → match c with
    | .vinLoss | .vinReturn _ | .keepLoss | .resetNLow _ | .resetNRise => True
    | .trip l .release => exec c s = .next ⟨s.dev.modLine l fun x => { x with tripLow := false }, s.pending⟩
    | .trip l (.low ns) =>
      exec c s = .next ⟨if ns < 50000 then s.dev else s.dev.modLine l fun x => { x with tripLow := true }, s.pending⟩
    | _ => exec c s = .next s

/-- The outputs: released, off and undriven while VIN is absent or a reset is held; else by the attention set, by the switch
states of table 6-1 and by the slot half in hand. SDO carries the bytes of the last transaction answered, and is undriven past
them and while the port does not answer.
The attention set is not empty when some device reason or some record reason stands (R186, R187); a record reason is raised in the
entry of the index, and a raise that names no record of that index and ID is discarded.
The status byte (R174): 0101b, then the attention set, the overlap mark and the port status. -/
def Obligations.OutputsAndStatusByte : Prop :=
  (∀ d : Device,
     (d.running = false → d.attnLow = false ∧ (∀ l, d.feedLevel l = .off) ∧ d.riserWord = none)
     ∧ (d.running = true → d.attnLow = d.attention ∧ d.riserWord = d.riser.drive
       ∧ ∀ l x, d.line? l = some x → d.feedLevel l = match x.switch with
         | .off => .off
         | .tripped => .off
         | .softstart _ => .ramp
         | .pulse _ _ => .full
         | .on => .full))
  ∧ (∀ d : Device, d.attention = true ↔
       d.port.device.restarted.isSome = true ∨ d.port.device.mode = true ∨ d.port.device.level = true
         ∨ d.port.device.stranger = true ∨ d.port.device.discovery = true
         ∨ ∃ x ∈ d.port.records, x.quarantined = true ∨ x.verdict = true ∨ x.lost = true ∨ x.rationSpent = true ∨ x.bound = true
           ∨ x.unplaced = true)
  ∧ (∀ (d : Device) (i : Nat) (t : TermId) (f : RecReasons → RecReasons),
       ((∀ r, d.rec? i = some r → r.id ≠ t) → d.raiseRec i t f = d)
       ∧ (∀ r, d.rec? i = some r → r.id = t →
         d.raiseRec i t f = { d with port := { d.port with records := d.port.records.modify i f } })
       ∧ (∀ x, d.port.records[i]? = some x → d.reasonsOf i = x)
       ∧ (d.port.records[i]? = none → d.reasonsOf i = ⟨false, false, false, false, false, false⟩))
  ∧ (∀ d : Device, d.statusByte.toNat = 80 + (if d.attention then 8 else 0) + (if d.port.overlap then 4 else 0)
       + (match d.port.status with
         | .idle => 0 | .working => 1 | .ready => 2))
  ∧ (∀ (d : Device) (k : Nat), (d.running = false → d.sdoByte k = none)
       ∧ (d.running = true → (d.port.sdo.length ≤ k → d.sdoByte k = none)
         ∧ ∀ b, d.port.sdo[k]? = some b → d.sdoByte k = b))

/-- VIN_LOSS: work stops where it stands, and all state stays; the device then takes no event.
VIN_RETURN: retention is judged, the reset of that kind is carried out, and start-up follows unless RESET_N is low.
KEEP_LOSS: retention is lost; with VIN present a cold reset follows at once, and start-up unless RESET_N is low.
That start-up is complete in the same step, and the mark of lost retention cleared there, is the model's choice (log 45). -/
def Obligations.SupplyCommands : Prop :=
  (∀ s : State, exec .vinLoss s = .next ⟨{ s.dev with supply := { s.dev.supply with vin := false } }, s.pending⟩
     ∧ ({ s.dev with supply := { s.dev.supply with vin := false } } : Device).running = false)
  ∧ (∀ (s : State) (keepBelow : Bool),
       (s.dev.supply.vin = true → exec (.vinReturn keepBelow) s = .next s)
       ∧ (s.dev.supply.vin = false →
         let lost := s.dev.supply.keepLost || keepBelow
         let kind : ResetKind := if lost then .cold else .warm
         let d := s.dev.resetTo kind
         exec (.vinReturn keepBelow) s = .next ⟨if s.dev.supply.resetN then
             { d with
               supply := ⟨true, true, false, none⟩
               port := { d.port with device := { d.port.device with restarted := some kind } } }
           else { d with supply := ⟨true, false, lost, some kind⟩ }, s.pending⟩))
  ∧ (∀ s : State,
       (s.dev.supply.vin = false →
         exec .keepLoss s = .next ⟨{ s.dev with supply := { s.dev.supply with keepLost := true } }, s.pending⟩)
       ∧ (s.dev.supply.vin = true →
         let d := s.dev.resetTo .cold
         exec .keepLoss s = .next ⟨if s.dev.supply.resetN then
             { d with
               supply := ⟨true, true, false, none⟩
               port := { d.port with device := { d.port.device with restarted := some .cold } } }
           else { d with supply := ⟨true, false, true, some .cold⟩ }, s.pending⟩))

/-- RESET_N_LOW: from 10 µs on a warm reset that is held, under 1 µs nothing, between the two either (log 7); while VIN is
absent the level alone is kept.
RESET_N_RISE: a held reset is complete, and start-up raises RESTARTED of its kind; that it is complete in the same step is the model's
choice (log 45). -/
def Obligations.ResetPinCommands : Prop :=
  (∀ (s : State) (ns : Nat),
     let held : Device → Device := fun d =>
       if d.supply.vin then { d.resetTo .warm with supply := { d.supply with resetN := false, holding := some .warm } }
       else { d with supply := { d.supply with resetN := false } }
     (s.dev.supply.resetN = false ∨ ns < 1000 → exec (.resetNLow ns) s = .next s)
     ∧ (s.dev.supply.resetN = true → 10000 ≤ ns → exec (.resetNLow ns) s = .next ⟨held s.dev, s.pending⟩)
     ∧ (s.dev.supply.resetN = true → 1000 ≤ ns → ns < 10000 →
       let d : Device := { s.dev with freeCount := s.dev.freeCount + 1 }
       exec (.resetNLow ns) s = .next ⟨d, s.pending⟩ ∨ exec (.resetNLow ns) s = .next ⟨held d, s.pending⟩))
  ∧ (∀ s : State, exec .resetNRise s = .next ⟨match s.dev.supply.vin, s.dev.supply.holding with
       | true, some kind =>
         { s.dev with
           supply := ⟨true, true, false, none⟩
           port := { s.dev.port with device := { s.dev.port.device with restarted := some kind } } }
       | _, _ => { s.dev with supply := { s.dev.supply with resetN := true } }, s.pending⟩)

/-- R35: what the Mode and Reserve Controller and its settings hold after either kind of reset (table 2-2). -/
def Obligations.ResetControllerTable : Prop :=
  ∀ (d : Device) (kind : ResetKind),
    (d.resetTo kind).mode =
      { mode := .mains, lowCount := 0, highCount := 0, level := .normal, evidence := .none, confirm := 0
        ceiling := (d.resetTo kind).settings.normalCeiling, framesToMinute := 600, minutes := 0, tally := 0 }
    ∧ (d.resetTo .warm).settings = d.settings
    ∧ (d.resetTo .cold).settings = Settings.default

/-- What either kind of reset leaves of the working state, and of the lines; TRIP_N keeps its level (log 11), and the bytes of the
last transaction answered stay in `sdo` (log 8), both the model's choices.
What a reset leaves of the records: a cold one none, a warm one every record as R29 says. -/
def Obligations.ResetLeaves : Prop :=
  (∀ (d : Device) (kind : ResetKind),
     let e := d.resetTo kind
     e.riser = { frame := 0, frameZero := true, half := 0, slots := List.replicate 16 ⟨0, .free⟩, fifo := []
                 assignNow := none, backoffNow := none, assignNext := none, backoffNext := none, drive := none }
     ∧ e.wake = { queue := [], attempt := none, eviction := none, strangers := [], overflow := false, arrival := 0 }
     ∧ e.lease = { leases := [], claims := [], permit := none, grantOrder := 1, committed := 0, claimArrival := 0 }
     ∧ e.test = { agenda := [], arrival := 0, channels := [none, none, none, none], inHand := none }
     ∧ e.reserve = 0 ∧ e.scanned = false ∧ e.roster.unattributed = 0 ∧ e.due = [] ∧ e.supply = d.supply
     ∧ e.port = { status := .idle, request := [], response := none, overlap := false, device := ⟨none, false, false, false, false⟩
                  records := List.replicate 80 .empty, sdo := d.port.sdo }
     ∧ ∀ l x, d.line? l = some x → e.line? l = some
         { binding := if kind = .warm then x.binding else none, switch := .off, current := 0, overdraw := none
           discovery := none, tripLow := x.tripLow })
  ∧ (∀ (d : Device) (i : Nat), (d.resetTo .cold).rec? i = none
       ∧ (d.rec? i = none → (d.resetTo .warm).rec? i = none)
       ∧ ∀ r, d.rec? i = some r → (d.resetTo .warm).rec? i = some { r with
           state := if r.state.onSlot then .dormant else r.state
           slot := none, lease := false, idle := 0, charge := 0, lost := 0, tests := 0, rationSpent := false
           wakeTimer := if r.wakeInterval = 0 then none else some r.wakeInterval
           testTimer := if r.testInterval = 0 then none else some r.testInterval })

/-- RESET at the host port: a valid kind draws no answer, and the reset and its start-up follow, start-up complete in the same step (the
model's choice, log 45); any other parameters draw BAD_VALUE. -/
def Obligations.ResetRequest : Prop :=
  ∀ (s : State) (d : Device), s.takes [] d →
    (∀ (b : Byte) (kind : ResetKind), (b = 1 ∧ kind = .warm) ∨ (b = 2 ∧ kind = .cold) → ∃ f sdo,
      exec (.reset [b]) s = .next ⟨{ d.resetTo kind with
        supply := { d.supply with keepLost := false, holding := none }
        port := { HostPort.initial (some kind) with sdo := sdo }
        freeCount := f }, s.pending⟩)
    ∧ (∀ p : List Byte, p.length ≤ 32 → p ≠ [1] → p ≠ [2] →
      exec (.reset p) s = .next ⟨(d.working 0x3F p).answers .badValue [], s.pending⟩)

/-- The state right after reset (log 9): a cold reset and its start-up, VIN present, RESET_N high, nothing waiting.
Both laws hold right after reset. -/
def Obligations.StateAfterReset : Prop :=
  (State.reset.pending = [] ∧ State.reset.dev.running = true ∧ State.reset.dev.port.device.restarted = some .cold
     ∧ State.reset.dev.attnLow = true ∧ (∀ i, State.reset.dev.rec? i = none)
     ∧ State.reset.dev = { State.reset.dev.resetTo .cold with
         port := { State.reset.dev.port with device := ⟨some .cold, false, false, false, false⟩ } })
  ∧ (State.reset.dev.ok = true ∧ State.reset.dev.committedOk)

/-! ## Frames, mode, outages -/

/-- R36, R37: the judgement of a MAINS_OK sample: the controller's state, and the outage start or end that it declares. That the
mode then stays OUTAGE_PENDING or RETURN_PENDING until that event is handled, which makes the change to OUTAGE or MAINS, is the
model's choice (log 1). -/
def Obligations.SampleTable : Prop :=
  ∀ (m : ModeCtl) (s : Settings),
    (m.mode = .mains → m.sample s true = (m, none)
      ∧ m.sample s false = ({ m with mode := .outagePending, lowCount := 1 },
          if s.outageConfirm ≤ 1 then some .outageStart else none))
    ∧ (m.mode = .outagePending → m.sample s true = ({ m with mode := .mains, lowCount := 0 }, none)
      ∧ m.sample s false = ({ m with lowCount := m.lowCount + 1 },
          if s.outageConfirm ≤ m.lowCount + 1 then some .outageStart else none))
    ∧ (m.mode = .outage → m.sample s false = (m, none)
      ∧ m.sample s true = ({ m with mode := .returnPending, highCount := 1 }, none))
    ∧ (m.mode = .returnPending → m.sample s false = ({ m with mode := .outage, highCount := 0 }, none)
      ∧ m.sample s true = ({ m with highCount := m.highCount + 1 },
          if s.returnConfirm ≤ m.highCount + 1 then some .outageEnd else none))

/-- FRAME_START in any state: the frame number, the attach words due, the mode with its MODE reason and the outage clock; what
no frame start touches stays.
FRAME_START where the wake queue and the agenda are empty: the slot map, the silence counts, the idle frames and every
countdown, the claim waits among them, move as the rules say; an outstanding eviction whose record is no longer ATTACHED
completes; the leases, the claims, the attempt, the switches, the channels and the records keep all else.
R73: an idle-eligible record is ATTACHED, with no claim queue entry, no agenda entry and nothing in its slot's downlink queue. -/
def Obligations.FrameStartEffect : Prop :=
  (∀ (s : State) (d : Device) (mainsOk : Bool), s.settled d →
     let j := d.mode.sample d.settings mainsOk
     let m : ModeCtl := if j.1.mode.inOutage = true ∧ j.2 ≠ some .outageEnd then
       { j.1 with framesToMinute := j.1.framesToMinute - 1 } else j.1
     ∃ d', exec (.frameStart mainsOk) s = .next ⟨d', s.pending⟩
       ∧ d'.still Record.standing = ({ d with
           riser := { d.riser with
             frame := if d.riser.frameZero then d.riser.frame else d.riser.frame + 1
             frameZero := false, half := 0, drive := none
             assignNow := d.riser.assignNext, assignNext := none
             backoffNow := d.riser.backoffNext, backoffNext := none }
           scanned := false
           mode := m
           port := { d.port with device := { d.port.device with
             mode := d.port.device.mode || decide (m.mode ≠ d.mode.mode) } } } : Device).still Record.standing)
  ∧ (∀ (s : State) (d : Device) (mainsOk : Bool), s.settled d → d.wake.queue = [] → d.test.agenda = [] →
       ∃ d', exec (.frameStart mainsOk) s = .next ⟨d', s.pending⟩
         ∧ d'.riser.slots = d.riser.slots.map (fun x => match x.use with
             | .releasing => { x with use := .free }
             | .held h => { x with use := .held (if h.isOpen then { h with silence := min (h.silence + 1) 255 }
                 else { h with isOpen := true }) }
             | _ => x)
         ∧ d'.lease = { d.lease with
             leases := d.lease.leases.map fun l => if l.phase = .live then { l with countdown := l.countdown - 1 } else l
             claims := d.lease.claims.map fun c => { c with wait := c.wait - 1 } }
         ∧ d'.wake = { d.wake with
             attempt := d.wake.attempt.map fun a => { a with window := a.window - 1 }
             eviction := match d.wake.eviction with
               | some (j, t) => match d.rec? j with
                 | some r => if r.id = t ∧ r.state = .attached then some (j, t) else none
                 | none => none
               | none => none }
         ∧ d'.lines = d.lines.map (fun x => { x with switch := match x.switch with
             | .pulse n o => .pulse (n - 1) o
             | y => y })
         ∧ d'.test = { d.test with channels := d.test.channels.map (Option.map fun t => { t with countdown := t.countdown - 1 }) }
         ∧ d'.roster.records.length = d.roster.records.length
         ∧ (∀ i, d.rec? i = none → d'.rec? i = none)
         ∧ ∀ i r, i < 80 → d.rec? i = some r → d'.rec? i = some { r with
             idle := if d.idleEligible i then min (r.idle + 1) 65535 else r.idle })
  ∧ (∀ (d : Device) (i n : Nat) (x : Slot) (h : Holder) (r : Record), d.rec? i = some r → d.heldSlot i r.id = some n →
       d.slot? n = some x → x.use = .held h →
       (d.idleEligible i = true ↔ r.state = .attached ∧ d.claimOf i = none ∧ d.inAgenda i = false ∧ h.queue = []))

/-- What FRAME_START makes due: every lease, claim wait, pulse, window and test whose countdown reaches 0, every silence count at
its limit, every idle count at its limit, the outage start or end that the sample declares, and the outage minute that the
clock completes; and nothing else, but for the agenda examination of the frame start and the trip of a line that was OFF with its
TRIP_N asserted, which an attempt started in the frame start has pulsed (R135). -/
def Obligations.FrameStartDue : Prop :=
  ∀ (s : State) (d : Device) (mainsOk : Bool), s.settled d →
    let j := d.mode.sample d.settings mainsOk
    ∃ d', exec (.frameStart mainsOk) s = .next ⟨d', s.pending⟩
      ∧ (∀ l ∈ d.lease.leases, l.phase = .live → l.countdown ≤ 1 → Due.leaseExpiry l.index ∈ d'.due)
      ∧ (∀ c ∈ d.lease.claims, c.wait ≤ 1 → Due.claimWait c.index ∈ d'.due)
      ∧ (∀ l x n o, d.line? l = some x → x.switch = .pulse n o → n ≤ 1 → Due.pulseEnd l ∈ d'.due)
      ∧ (∀ n x h, d.slot? n = some x → x.use = .held h → h.isOpen = true → d.settings.silenceLimit ≤ min (h.silence + 1) 255 →
          Due.silenceLost n ∈ d'.due)
      ∧ (∀ i r, i < 80 → d.idleEligible i = true → d.rec? i = some r → d.settings.idleLimit ≤ min (r.idle + 1) 65535 →
          Due.idleRest i ∈ d'.due)
      ∧ (∀ a i t p, d.wake.attempt = some a → a.target = .record i t p → a.window ≤ 1 → Due.attachWindow ∈ d'.due)
      ∧ (∀ a l, d.wake.attempt = some a → a.target = .discovery l → a.window ≤ 1 → Due.discoveryWindow ∈ d'.due)
      ∧ (∀ c t, d.test? c = some t → t.countdown ≤ 1 →
          (if t.phase = .running then Due.testWindow c else Due.testBegin c) ∈ d'.due)
      ∧ (∀ e, j.2 = some e → e ∈ d'.due)
      ∧ (j.1.mode.inOutage = true → j.2 ≠ some .outageEnd → j.1.framesToMinute ≤ 1 → Due.outageMinute ∈ d'.due)
      ∧ ∀ e ∈ d'.due, e ∈ d.due ∨ match e with
        | .outageStart => j.2 = some .outageStart
        | .outageEnd => j.2 = some .outageEnd
        | .outageMinute => j.1.mode.inOutage = true ∧ j.2 ≠ some .outageEnd ∧ j.1.framesToMinute ≤ 1
        | .leaseExpiry i => ∃ l ∈ d.lease.leases, l.index = i ∧ l.phase = .live ∧ l.countdown ≤ 1
        | .claimWait i => ∃ c ∈ d.lease.claims, c.index = i ∧ c.wait ≤ 1
        | .pulseEnd l => ∃ x n o, d.line? l = some x ∧ x.switch = .pulse n o ∧ n ≤ 1
        | .silenceLost n => ∃ x h, d.slot? n = some x ∧ x.use = .held h ∧ h.isOpen = true
            ∧ d.settings.silenceLimit ≤ min (h.silence + 1) 255
        | .idleRest i => i < 80 ∧ d.idleEligible i = true ∧ ∃ r, d.rec? i = some r ∧ d.settings.idleLimit ≤ min (r.idle + 1) 65535
        | .attachWindow => ∃ a i t p, d.wake.attempt = some a ∧ a.target = .record i t p ∧ a.window ≤ 1
        | .discoveryWindow => ∃ a l, d.wake.attempt = some a ∧ a.target = .discovery l ∧ a.window ≤ 1
        | .testWindow c => ∃ t, d.test? c = some t ∧ t.phase = .running ∧ t.countdown ≤ 1
        | .testBegin c => ∃ t, d.test? c = some t ∧ t.phase = .beginning ∧ t.countdown ≤ 1
        | .trip l => ∃ x, d.line? l = some x ∧ x.switch = .off ∧ x.tripLow = true
        | .agendaExam => True
        | .wakeTimer _ => False
        | .testTimer _ => False
        | .softstart _ => False
        | .levelChange => False
        | .rations => False

/-- OUTAGE_START completes in any state in which it is due: the controller, the records with their timers loaded, the unattributed
counter, the grant order at 1 and MODE; then, in rising index order, an entry with purpose OUTAGE and the next arrival order for
every DORMANT record with wake on outage that has none (R103); then one examination of the head, after every entry has joined
(the model's choice, log 13). Where nothing waits and no record is to be woken, exactly the first part. -/
def Obligations.OutageStartEffect : Prop :=
  ∀ (s : State) (d : Device), s.dueNow .outageStart d →
    let e : Device := { d with
      mode := { d.mode with mode := .outage, lowCount := 0, tally := 0, minutes := 0, framesToMinute := 600 }
      roster := ⟨d.roster.records.map (Option.map fun r => { r with
        charge := 0, rationSpent := false, lost := 0, tests := 0
        wakeTimer := if r.state = .dormant then (if r.wakeInterval = 0 then none else some r.wakeInterval) else r.wakeTimer
        testTimer := if r.testInterval = 0 then none else some r.testInterval }), 0⟩
      lease := { d.lease with grantOrder := 1 }
      port := { d.port with device := { d.port.device with mode := true } } }
    (∃ d', exec .outageStart s = .next ⟨d', s.pending⟩ ∧ d'.still Record.standing = e.still Record.standing)
    ∧ (d.wake.queue = [] → (∀ i r, d.rec? i = some r → r.wakeOnOutage = false) →
        exec .outageStart s = .next ⟨e.finish, s.pending⟩)
    ∧ (let joined := (List.range 80).foldl (fun (q : List WakeEntry × Nat) i => match d.rec? i with
         | some r =>
           if r.state = .dormant ∧ r.wakeOnOutage = true ∧ q.1.all (fun x => match x.target with
               | .record j _ _ => j != i
               | .discovery _ => true) = true then
             (q.1 ++ [⟨.record i r.id .outage, q.2, false⟩], min (q.2 + 1) 0xFFFFFFFF)
           else q
         | none => q) (d.wake.queue, d.wake.arrival)
       exec .outageStart s = .next
         ⟨({ e with wake := { e.wake with queue := joined.1, arrival := joined.2 } } : Device).examineWake.finish, s.pending⟩)

/-- OUTAGE_END: the mode and MODE; no lease, no claim, no test, no agenda entry, no record attempt and no record entry of the wake
queue is left. CUT(MAINS) is queued for the record of each lease, DEFER(MAINS) for that of each claim and TEST_END with
ABORTED(MAINS) for that of each test; a FED record with a lease and a TESTING one with a test are ATTACHED, the tested one with
ABORTED(MAINS) as its last outcome; the record of the attempt is DORMANT; every other record keeps its state. What it says holds
in whichever order the three blocks take the outage end (log 32). -/
def Obligations.OutageEndEffect : Prop :=
  ∀ (s : State) (d : Device), s.dueNow .outageEnd d →
    ∃ d', exec .outageEnd s = .next ⟨d', s.pending⟩
      ∧ d'.still Record.lasting = ({ d with
          mode := { d.mode with mode := .mains, highCount := 0 }
          port := { d.port with device := { d.port.device with mode := true } } } : Device).still Record.lasting
      ∧ d'.lease.leases = [] ∧ d'.lease.claims = [] ∧ d'.test.agenda = [] ∧ d'.test.inHand = none
      ∧ (∀ x ∈ d'.wake.queue, x.isDiscovery = true)
      ∧ (∀ a, d'.wake.attempt = some a → ∃ l, a.target = .discovery l)
      ∧ (d.test.channels.length = 4 → ∀ c, d'.test? c = none)
      ∧ (∀ l n, l ∈ d.lease.leases → d.heldSlot l.index l.id = some n → d'.queued n (.cut .mains))
      ∧ (∀ c n, c ∈ d.lease.claims → (∀ k t, d.test? k = some t → t.index ≠ c.index) → d.heldSlot c.index c.id = some n →
          d'.queued n (.defer .mains))
      ∧ (∀ k t n, k < 4 → d.test? k = some t → d.heldSlot t.index t.id = some n → d'.queued n (.testEnd (.aborted .mains)))
      ∧ ∀ i r, d.rec? i = some r → ∃ r', d'.rec? i = some r'
        ∧ ((∃ l ∈ d.lease.leases, l.index = i ∧ l.id = r.id) → r.state = .fed → r'.state = .attached ∧ r'.lease = false)
        ∧ (∀ k t, k < 4 → d.test? k = some t → t.index = i → t.id = r.id → r.state = .testing →
            r'.state = .attached ∧ r'.lastOutcome = some (.aborted .mains))
        ∧ (∀ a p, d.wake.attempt = some a → a.target = .record i r.id p → r.state = .waking →
            r'.state = .dormant ∧ r'.slot = none
              ∧ r'.wakeTimer = if r.wakeInterval = 0 then none else some r.wakeInterval)
        ∧ (r.state = .pending ∨ r.state = .dormant ∨ r.state = .attached ∨ r.state = .quarantined → r'.state = r.state)

/-- OUTAGE_MINUTE: the outage clock, the timers lowered, and an expiry due for each that reaches 0 and for no other, the wake timers
in rising index order and then the test timers so (log 38); nothing else changes but for the agenda examination that the frame
start calls for where it is next.
WAKE_TIMER_EXPIRY: the timer is reloaded; a DORMANT record with no entry gets one in an outage, with purpose TIMER and the next
arrival order, and the head is examined where that has changed it.
TEST_TIMER_EXPIRY: the timer is reloaded, and a TIMER entry placed in the agenda unless the record is TESTING or has one; nothing
of this for a PENDING or QUARANTINED record. An entry placed calls for the examination of the agenda, which follows in the handling of
the minute's last test timer, once all have joined (R153); where nothing is placed none is called for.
R154: the place of an agenda entry: every HOST entry ahead of every TIMER entry, by rising arrival order within a kind, then by
rising index. -/
def Obligations.OutageMinuteAndTimers : Prop :=
  (∀ (s : State) (d : Device), s.dueNow .outageMinute d →
     let wakes := (List.range 80).filter fun i => (d.rec? i).any fun r => r.state == .dormant && r.wakeTimer == some 1
     let tests := (List.range 80).filter fun i => (d.rec? i).any fun r =>
       r.state != .pending && r.state != .quarantined && r.testTimer == some 1
     exec .outageMinute s = .next ⟨({ d with
         mode := { d.mode with minutes := min (d.mode.minutes + 1) 65535, framesToMinute := 600 }
         roster := { d.roster with records := d.roster.records.map (Option.map fun r => { r with
           wakeTimer := if r.state = .dormant then r.wakeTimer.map (· - 1) else r.wakeTimer
           testTimer := if r.state = .pending ∨ r.state = .quarantined then r.testTimer else r.testTimer.map (· - 1) }) }
         due := wakes.map Due.wakeTimer ++ tests.map Due.testTimer ++ d.due } : Device).finish, s.pending⟩)
  ∧ (∀ (s : State) (d : Device) (i : Nat) (r : Record), s.dueNow (.wakeTimer i) d →
       d.rec? i = some r → r.wakeTimer = some 0 →
       let e := d.modRec i fun r => { r with wakeTimer := if r.wakeInterval = 0 then none else some r.wakeInterval }
       (∃ d', exec (.wakeTimerExpiry i) s = .next ⟨d', s.pending⟩ ∧ d'.still Record.standing = d.still Record.standing)
       ∧ (let f : Device := { e with wake := { e.wake with
              queue := e.wake.queue ++ [⟨.record i r.id .timer, e.wake.arrival, false⟩]
              arrival := min (e.wake.arrival + 1) 0xFFFFFFFF } }
          exec (.wakeTimerExpiry i) s = .next ⟨(
            if r.state = .dormant ∧ d.mode.mode.inOutage = true ∧ d.wakeEntryOf i = none then
              if f.wakeHead = e.wakeHead then f else f.examineWake
            else e).finish, s.pending⟩))
  ∧ (∀ (s : State) (d : Device) (i : Nat) (r : Record), s.dueNow (.testTimer i) d →
       d.rec? i = some r → r.testTimer = some 0 →
       let isTimer : Due → Bool := fun x => match x with
         | .testTimer _ => true
         | _ => false
       let timers := d.due.takeWhile isTimer
       let later := d.due.dropWhile isTimer
       let e := d.modRec i fun r => { r with testTimer := if r.testInterval = 0 then none else some r.testInterval }
       let e' : Device := if r.state = .pending ∨ r.state = .quarantined then d
         else if r.state = .testing ∨ d.inAgenda i = true then e else
         { e with
           test := { e.test with
             agenda := insertAgenda ⟨i, r.id, .timer, e.test.arrival⟩ e.test.agenda
             arrival := min (e.test.arrival + 1) 0xFFFFFFFF }
           due := timers ++ (if later.head? = some Due.agendaExam then later else Due.agendaExam :: later) }
       exec (.testTimerExpiry i) s = .next ⟨e'.finish, s.pending⟩
       ∧ (timers = [] → later.head? ≠ some Due.agendaExam →
         exec (.testTimerExpiry i) s = .next ⟨if r.state ≠ .pending ∧ r.state ≠ .quarantined ∧ r.state ≠ .testing
           ∧ d.inAgenda i = false then ({ e' with due := later } : Device).examineAgenda else e', s.pending⟩))
  ∧ (∀ (x : AgendaEntry) (xs ys : List AgendaEntry),
       let before (x y : AgendaEntry) : Prop := (x.kind = .host ∧ y.kind = .timer)
         ∨ (x.kind = y.kind ∧ (x.arrival < y.arrival ∨ (x.arrival = y.arrival ∧ x.index < y.index)))
       (∀ y ∈ xs, ¬ before x y) → (∀ y, ys.head? = some y → before x y) → insertAgenda x (xs ++ ys) = xs ++ x :: ys)

/-! ## The riser: what is sent and received -/

/-- The halves of a frame are taken in order, each once (R53): a half named before frame 0, or whose turn has passed, changes
nothing (log 4). In its turn:
BEACON: frame number, mode, level and attach state, as table 10-1 lays them out; nothing else changes.
ATTACH_WORD: ASSIGN, then BACKOFF, then WAKE, then OPEN or CLOSED, as table 10-2 lays them out; the words due are dropped
with it.
TERMINAL_DOWNLINK: no word unless the slot is HELD and open; NOP for an empty queue; else the head command, its send count
raised, with the acknowledgement field; at the repeat limit nothing is sent and the holder is declared LOST.
Tables 10-3, 10-7: the code of each command and its parameter. R191: a word is closed by the byte that brings its sum to 0.
Chapter 10: a number of several bytes is laid out, and read, most significant byte first; the sum of bytes is taken modulo 256. -/
def Obligations.DownlinkWords : Prop :=
  (∀ (s : State) (d : Device), s.settled d → ∀ (c : Instr) (p : Nat),
     (c = .beacon ∧ p = 1 ∨ c = .attachWord ∧ p = 2 ∨ ∃ n, 2 ≤ n ∧ n ≤ 17 ∧ c = .terminalDownlink n ∧ p = 2 * n) →
     d.riser.frameZero = true ∨ p ≤ d.riser.half → exec c s = .next ⟨d, s.pending⟩)
  ∧ (∀ (s : State) (d : Device), s.settled d → d.riser.frameZero = false → d.riser.half < 1 →
     let mode : Nat := match d.mode.mode with
       | .mains => 0 | .outagePending => 1 | .outage => 2 | .returnPending => 3
     let level : Nat := match d.mode.level with
       | .normal => 0 | .low => 1 | .critical => 2 | .exhausted => 3
     let attach : Nat := if d.wake.attempt.isSome then 2 else if ∃ x ∈ d.riser.slots, x.use = .free then 0 else 1
     exec .beacon s = .next ⟨{ d with riser := { d.riser with
       half := 1
       drive := some (withCheck (bytesBE 2 d.riser.frame.toNat ++ [BitVec.ofNat 8 (mode + 4 * level + 16 * attach)])) } },
       s.pending⟩)
  ∧ (∀ (s : State) (d : Device), s.settled d → d.riser.frameZero = false → d.riser.half < 2 →
       let word : List Byte := match d.riser.assignNow with
         | some (t, n) => [4] ++ bytesBE 4 t.toNat ++ [BitVec.ofNat 8 n]
         | none => match d.riser.backoffNow with
           | some t => [5] ++ bytesBE 4 t.toNat ++ [0]
           | none => match d.wake.attempt with
             | some a => match a.target with
               | .record _ t _ => [3] ++ bytesBE 4 t.toNat ++ [0]
               | .discovery _ => [3, 0xFF, 0xFF, 0xFF, 0xFF, 0]
             | none => if ∃ x ∈ d.riser.slots, x.use = .free then [1, 0, 0, 0, 0, 0] else [2, 0, 0, 0, 0, 0]
       exec .attachWord s = .next ⟨{ d with riser := { d.riser with
         half := 2, assignNow := none, backoffNow := none, drive := some (withCheck word) } }, s.pending⟩)
  ∧ (∀ (s : State) (d : Device) (n : Nat), s.settled d → 2 ≤ n → n ≤ 17 → d.riser.frameZero = false → d.riser.half < 2 * n →
       let sent (e : Device) (w : Option (List Byte)) : Device := { e with riser := { e.riser with half := 2 * n, drive := w } }
       let ack (h : Holder) : Byte := match h.lastUp with
         | some k => BitVec.ofNat 8 (128 + k)
         | none => 0
       ((∀ x h, d.slot? n = some x → x.use = .held h → h.isOpen = false) →
         exec (.terminalDownlink n) s = .next ⟨sent d none, s.pending⟩)
       ∧ ∀ x h, d.slot? n = some x → x.use = .held h → h.isOpen = true →
         (h.queue = [] → exec (.terminalDownlink n) s = .next ⟨sent d (some (withCheck [0, ack h, 0, 0])), s.pending⟩)
         ∧ ∀ e es, h.queue = e :: es →
           (e.sends < d.settings.repeatLimit → exec (.terminalDownlink n) s = .next
             ⟨sent (d.modHolder n fun h => { h with queue := { e with sends := e.sends + 1 } :: es })
               (some (withCheck ([BitVec.ofNat 8 (16 * e.cmd.kind + e.seq), ack h] ++ bytesBE 2 e.cmd.param))), s.pending⟩)
           ∧ (d.settings.repeatLimit ≤ e.sends → exec (.terminalDownlink n) s = .next
             ⟨(sent d none).declareLost h.index h.id, s.pending⟩))
  ∧ (∀ c : Cmd, (c.kind, c.param) = match c with
       | .grant n => (1, n)
       | .queued => (2, 0)
       | .defer why => (3, match why with
         | .mains => 1 | .classBarred => 2 | .ration => 3 | .overCap => 4 | .timeout => 5 | .testing => 6 | .noHeadroom => 7
         | .noLease => 8)
       | .limit n => (4, n)
       | .cut why => (5, match why with
         | .expired => 1 | .shed => 2 | .ration => 3 | .mains => 4)
       | .rest => (6, 0)
       | .testBegin w => (7, w)
       | .testEnd o => (8, match o with
         | .verdict .pass => 1 | .verdict .weak => 2 | .verdict .fail => 3 | .aborted .lost => 4 | .aborted .mains => 5
         | .aborted .noReport => 6 | .aborted .lowStart => 7))
  ∧ (∀ bs : List Byte, (∃ b, withCheck bs = bs ++ [b] ∧ (bs.foldl (· + ·) 0) + b = 0)
       ∧ withCheck bs = bs ++ [checkByte bs] ∧ byteSum (withCheck bs) = 0
       ∧ (byteSum bs).toNat = (bs.map BitVec.toNat).sum % 256)
  ∧ (∀ w n : Nat, bytesBE 0 n = [] ∧ bytesBE (w + 1) n = BitVec.ofNat 8 (n / 256 ^ w) :: bytesBE w n
       ∧ (n < 256 ^ w → natBE (bytesBE w n) = n))
  ∧ (natBE [] = 0 ∧ ∀ (b : Byte) (bs : List Byte), natBE (b :: bs) = b.toNat * 256 ^ bs.length + natBE bs)
  ∧ (∀ (w : List Byte) (k : Nat), byteAt w k = match w[k]? with
       | some b => b.toNat
       | none => 0)

/-- REPEAT_LIMIT_LOST: the row of the table for the last case of a downlink half; out of its turn it changes nothing (log 4).
SILENCE_LOST: the holder of the slot is declared LOST.
IDLE_REST: REST is posted to an ATTACHED record. -/
def Obligations.LossesAndIdleRest : Prop :=
  (∀ (s : State) (d : Device) (n : Nat) (x : Slot) (h : Holder) (e : QEntry) (es : List QEntry), s.settled d → 2 ≤ n → n ≤ 17 →
     d.slot? n = some x → x.use = .held h → h.isOpen = true → h.queue = e :: es → d.settings.repeatLimit ≤ e.sends →
     (d.riser.frameZero = false → d.riser.half < 2 * n → exec (.repeatLimitLost n) s = .next
       ⟨({ d with riser := { d.riser with half := 2 * n, drive := none } } : Device).declareLost h.index h.id, s.pending⟩)
     ∧ (d.riser.frameZero = true ∨ 2 * n ≤ d.riser.half → exec (.repeatLimitLost n) s = .next ⟨d, s.pending⟩))
  ∧ (∀ (s : State) (d : Device) (n : Nat) (x : Slot) (h : Holder), s.dueNow (.silenceLost n) d → d.slot? n = some x →
       x.use = .held h → exec (.silenceLost n) s = .next ⟨(d.declareLost h.index h.id).finish, s.pending⟩)
  ∧ (∀ (s : State) (d : Device) (i : Nat) (r : Record), s.dueNow (.idleRest i) d → d.rec? i = some r → r.state = .attached →
       exec (.idleRest i) s = .next ⟨(d.post i r.id .rest).finish, s.pending⟩)

/-- A LOST taken below the lost limit, with nothing waiting and no re-wake to be made: the record DORMANT, its slot RELEASING,
its lease ended without CUT, a test of it aborted as LOST, lost this outage raised, LOST raised.
A LIFELINE record lost in OUTAGE below the lost limit gets a wake queue entry with purpose REWAKE, which waits while an attempt
stands.
A LOST that reaches the lost limit quarantines the record as UNSTABLE. After each of these the channel that held the record's test,
where it had one, is FREE (R167). A LOST that finds the record out of ATTACHED, FED and TESTING changes nothing. -/
def Obligations.LostTaken : Prop :=
  (∀ (d : Device) (i n : Nat) (hold : Count16) (h : Holder) (r : Record), d.ok = true → d.quiet → d.heldSlot h.index h.id = some n →
     h.index = i → d.holds n hold h r → r.state = .attached ∨ r.state = .fed ∨ r.state = .testing →
     min (r.lost + 1) 15 < d.settings.lostLimit → r.cls ≠ .lifeline ∨ d.mode.mode ≠ .outage →
     let e := d.declareLost h.index h.id
     e.rec? i = some { r with
         state := .dormant, reason := none, slot := none, lease := false, idle := 0
         wakeTimer := if r.wakeInterval = 0 then none else some r.wakeInterval
         lost := min (r.lost + 1) 15
         lastOutcome := if (d.channelOf i).isSome then some (.aborted .lost) else r.lastOutcome }
       ∧ (e.slot? n).map Slot.use = some .releasing ∧ e.leaseOf i = none ∧ (e.reasonsOf i).lost = true
       ∧ (∀ c, d.channelOf i = some c → e.test? c = none)
       ∧ e.still Record.lasting = d.still Record.lasting)
  ∧ (∀ (d : Device) (i : Nat) (r : Record), d.rec? i = some r →
       ((r.state ≠ .attached ∧ r.state ≠ .fed ∧ r.state ≠ .testing) → d.declareLost i r.id = d)
       ∧ (d.quiet → (r.state = .attached ∨ r.state = .fed ∨ r.state = .testing) → d.settings.lostLimit ≤ min (r.lost + 1) 15 →
         (∃ r', (d.declareLost i r.id).rec? i = some r' ∧ r'.state = .quarantined ∧ r'.reason = some .unstable
           ∧ r'.lost = min (r.lost + 1) 15 ∧ r'.slot = none ∧ r'.lease = false)
         ∧ ∀ c, d.channelOf i = some c → (d.declareLost i r.id).test? c = none)
       ∧ (d.quiet → (r.state = .attached ∨ r.state = .fed ∨ r.state = .testing) → min (r.lost + 1) 15 < d.settings.lostLimit →
         r.cls = .lifeline → d.mode.mode = .outage → d.wake.attempt.isSome = true →
         (d.declareLost i r.id).wake.queue = [⟨.record i r.id .rewake, d.wake.arrival, false⟩]
           ∧ (∃ r', (d.declareLost i r.id).rec? i = some r' ∧ r'.state = .dormant ∧ r'.lost = min (r.lost + 1) 15)
           ∧ ∀ c, d.channelOf i = some c → (d.declareLost i r.id).test? c = none))

/-- ATTACH_UPLINK: a word with a good check byte joins the FIFO where it has room, with slot 1 and its arrival frame.
TERMINAL_UPLINK: a word with a good check byte in an open HELD slot resets its silence count and joins the FIFO where it has
room, with the slot and its hold number; any other word changes nothing but the half taken. A half out of its turn, or before
frame 0, changes nothing at all (R53, log 4). -/
def Obligations.UplinkReception : Prop :=
  (∀ (s : State) (d : Device) (w : List Byte), s.settled d →
     (d.riser.frameZero = true ∨ 3 ≤ d.riser.half → exec (.attachUplink w) s = .next ⟨d, s.pending⟩)
     ∧ ∀ n, 2 ≤ n → n ≤ 17 → d.riser.frameZero = true ∨ 2 * n + 1 ≤ d.riser.half →
       exec (.terminalUplink n w) s = .next ⟨d, s.pending⟩)
  ∧ (∀ (s : State) (d : Device) (w : List Byte), s.settled d → d.riser.frameZero = false → d.riser.half < 3 →
     exec (.attachUplink w) s = .next ⟨{ d with riser := { d.riser with
       half := 3, drive := none
       fifo := if 9 ≤ w.length ∧ byteSum (w.take 9) = 0 ∧ d.riser.fifo.length < 16 then
         d.riser.fifo ++ [⟨.attach d.riser.frame, w.take 9⟩] else d.riser.fifo } }, s.pending⟩)
  ∧ (∀ (s : State) (d : Device) (n : Nat) (w : List Byte), s.settled d → 2 ≤ n → n ≤ 17 → d.riser.frameZero = false →
       d.riser.half < 2 * n + 1 →
       let e : Device := { d with riser := { d.riser with half := 2 * n + 1, drive := none } }
       ((¬ (9 ≤ w.length ∧ byteSum (w.take 9) = 0) ∨ ∀ x h, d.slot? n = some x → x.use = .held h → h.isOpen = false) →
         exec (.terminalUplink n w) s = .next ⟨e, s.pending⟩)
       ∧ ∀ hold h, 9 ≤ w.length → byteSum (w.take 9) = 0 → d.slot? n = some ⟨hold, .held h⟩ → h.isOpen = true →
         let e' := e.modHolder n fun h => { h with silence := 0 }
         exec (.terminalUplink n w) s = .next ⟨{ e' with riser := { e'.riser with
           fifo := if d.riser.fifo.length < 16 then d.riser.fifo ++ [⟨.terminal n hold, w.take 9⟩] else d.riser.fifo } },
           s.pending⟩)

/-! ## Downlink queues -/

/-- R61 to R63: a post of a kind in the queue replaces its parameter in place; a new kind joins at the tail with the next
sequence number and no sends; a full queue of different kinds first loses its oldest entry that is neither CUT nor REST.
R61: a post reaches the slot that the record holds, open or not, and is discarded where it holds none. -/
def Obligations.DownlinkPosts : Prop :=
  (∀ (h : Holder) (c : Cmd), h.ok = true →
     ((∃ e ∈ h.queue, e.cmd.kind = c.kind) → h.post c =
       { h with queue := h.queue.map fun e => if e.cmd.kind = c.kind then { e with cmd := c } else e })
     ∧ ((∀ e ∈ h.queue, e.cmd.kind ≠ c.kind) →
       let next := if h.nextSeq = 15 then 1 else h.nextSeq + 1
       (h.queue.length < 4 → h.post c = { h with queue := h.queue ++ [⟨c, h.nextSeq, 0⟩], nextSeq := next })
       ∧ (h.queue.length = 4 → ∃ xs e ys, h.queue = xs ++ e :: ys
           ∧ (∀ x ∈ xs, (∃ w, x.cmd = .cut w) ∨ x.cmd = .rest) ∧ (∀ w, e.cmd ≠ .cut w) ∧ e.cmd ≠ .rest
           ∧ h.post c = { h with queue := xs ++ ys ++ [⟨c, h.nextSeq, 0⟩], nextSeq := next })))
  ∧ (∀ (d : Device) (i : Nat) (t : TermId) (c : Cmd),
       ((∀ n x h, d.slot? n = some x → x.use = .held h → ¬(h.index = i ∧ h.id = t)) → d.post i t c = d)
       ∧ ∀ n x h, d.slot? n = some x → x.use = .held h → h.index = i → h.id = t →
         (∀ m y k, d.slot? m = some y → y.use = .held k → k.index = i → k.id = t → m = n) →
         (d.post i t c).slot? n = some { x with use := .held (h.post c) }
           ∧ (∀ m, m ≠ n → (d.post i t c).slot? m = d.slot? m)
           ∧ ({ (d.post i t c) with riser := d.riser } : Device) = d
           ∧ ({ (d.post i t c).riser with slots := d.riser.slots } : Riser) = d.riser)

/-! ## Takes of the uplink FIFO -/

/-- A word whose slot no longer holds the record it held at arrival, and an attach-slot word of another kind than ANNOUNCE, is
discarded at its take.
R70: a word with the sequence number last taken from the holder is not dispatched; that it leaves the idle frames as they are,
whatever its kind, is the model's choice (log 34). -/
def Obligations.TakeDiscards : Prop :=
  (∀ (s : State) (d : Device) (e : FifoEntry) (rest : List FifoEntry), s.settled d → d.riser.fifo = e :: rest →
     ((∃ n hold, e.origin = .terminal n hold ∧ ∀ x h, d.slot? n = some x → x.use = .held h → x.hold ≠ hold)
       ∨ (∃ f, e.origin = .attach f) ∧ upKind e.word ≠ .announce) →
     let c : Instr := match e.row with
       | .claim => .claim | .renew => .renew | .release => .release | .report => .report | .restRequest => .restRequest
       | .nop => .nop | .announce => .announce | .unknown => .unknownUplinkKind
     exec c s = .next ⟨{ d with riser := { d.riser with fifo := rest } }, s.pending⟩)
  ∧ (∀ (s : State) (d : Device) (n : Nat) (hold : Count16) (h : Holder) (w : List Byte) (rest : List FifoEntry), s.settled d →
       d.riser.fifo = ⟨.terminal n hold, w⟩ :: rest → d.slot? n = some ⟨hold, .held h⟩ →
       (∀ e, h.queue.head? = some e → upAck w ≠ some e.seq) → h.lastUp = some (upSeq w) →
       let c : Instr := match upKind w with
         | .claim => .claim | .renew => .renew | .release => .release | .report => .report | .restRequest => .restRequest
         | .nop => .nop | .announce => .unknownUplinkKind | .unknown => .unknownUplinkKind
       exec c s = .next ⟨{ d with riser := { d.riser with fifo := rest } }, s.pending⟩)

/-- R65, R69: an acknowledgement of the head's sequence number, in a word of any kind taken with no event due, delivers it: the queue
loses its head; a delivered TEST_BEGIN goes to the Test Engine. The rest of the word, a duplicate's too, is then handled as that of the same word
without an acknowledgement; after a delivered REST that the Roster takes it is not handled at all. For a NOP with a new sequence
number the device after the take is given whole.
A release (R60) takes the slot from its record: RELEASING, with its hold number; a claim queue entry that goes with it is followed by
a service of the queue. -/
def Obligations.TakeDelivers : Prop :=
  (∀ (d : Device) (i : Nat) (t : TermId),
     (d.heldSlot i t = none → d.releaseSlot i t = d)
     ∧ (∀ n, d.heldSlot i t = some n → d.releaseSlot i t = d.modSlot n fun x => { x with use := .releasing })
     ∧ (d.claimOf i = none → d.dropClaim i = d)
     ∧ (d.claimOf i ≠ none → d.dropClaim i =
       ({ d with lease := { d.lease with claims := d.lease.claims.filter fun c => c.index != i } } : Device).serve))
  ∧ ∀ (s : State) (d : Device) (n : Nat) (hold : Count16) (h : Holder) (w : List Byte) (rest : List FifoEntry) (e : QEntry)
    (es : List QEntry), s.settled d → d.due = [] → d.riser.fifo = ⟨.terminal n hold, w⟩ :: rest →
    d.slot? n = some ⟨hold, .held h⟩ → h.queue = e :: es → upAck w = some e.seq →
    let c : Instr := match upKind w with
      | .claim => .claim | .renew => .renew | .release => .release | .report => .report | .restRequest => .restRequest
      | .nop => .nop | .announce => .unknownUplinkKind | .unknown => .unknownUplinkKind
    let d1 := ({ d with riser := { d.riser with fifo := rest } } : Device).modHolder n fun h => { h with queue := es }
    let goesOn (after : Device) : Prop :=
      exec c s = exec c ⟨{ after with riser := { after.riser with fifo := ⟨.terminal n hold, w.set 1 0⟩ :: rest } }, s.pending⟩
      ∧ (upKind w = .nop → h.lastUp ≠ some (upSeq w) →
        exec c s = .next ⟨after.modHolder n fun h => { h with lastUp := some (upSeq w) }, s.pending⟩)
    (e.cmd ≠ .rest → (∀ k, e.cmd ≠ .testBegin k) → goesOn d1)
    ∧ (∀ k, e.cmd = .testBegin k → goesOn (d1.testBegun h.index k))
    ∧ (e.cmd = .rest → (∀ r, d.rec? h.index = some r → r.id = h.id → r.state ≠ .attached) → goesOn d1)
    ∧ ∀ r, e.cmd = .rest → d.rec? h.index = some r → r.id = h.id → r.state = .attached →
        exec c s = .next ⟨(((d1.modRec h.index fun r => { r with
            state := .dormant, reason := none, slot := none, lease := false, idle := 0
            wakeTimer := if r.wakeInterval = 0 then none else some r.wakeInterval }).releaseSlot h.index h.id).dropClaim
          h.index).completeEviction h.index h.id, s.pending⟩

/-- NOP and UNKNOWN_UPLINK_KIND: the sequence number is kept, so that the next downlink word acknowledges it, and nothing is
dispatched.
REST_REQUEST: idle frames 0; REST posted to an ATTACHED record with no claim queue entry and no agenda entry.
Table 10-4, R191: the kind, the sequence number and the acknowledgement of an uplink word, none where its present bit is 0, and what
an ANNOUNCE carries. -/
def Obligations.TakeNopAndRestRequest : Prop :=
  (∀ (s : State) (n : Nat) (h : Holder) (r : Record) (w : List Byte) (d : Device), s.newWord n h r w d →
     (upKind w = .nop → exec .nop s = .next ⟨d, s.pending⟩)
     ∧ (upKind w = .announce ∨ upKind w = .unknown → exec .unknownUplinkKind s = .next ⟨d, s.pending⟩))
  ∧ (∀ (s : State) (n : Nat) (h : Holder) (r : Record) (w : List Byte) (d : Device), s.newWord n h r w d → upKind w = .restRequest →
       let e := d.modRec h.index fun r => { r with idle := 0 }
       exec .restRequest s = .next ⟨if r.state = .attached ∧ d.claimOf h.index = none ∧ d.inAgenda h.index = false then
         e.post h.index h.id .rest else e, s.pending⟩)
  ∧ (∀ (b0 b1 : Byte) (w : List Byte),
       upKind (b0 :: w) = (match b0.toNat / 16 with
         | 1 => .claim | 2 => .renew | 3 => .release | 4 => .report | 5 => .restRequest | 6 => .nop | 7 => .announce
         | _ => .unknown)
       ∧ upSeq (b0 :: w) = b0.toNat % 16
       ∧ upAck (b0 :: b1 :: w) = if 128 ≤ b1.toNat then some (b1.toNat % 16) else none)
  ∧ (∀ (b0 b1 b2 b3 b4 b5 b6 : Byte) (w : List Byte) (frame : Count16),
       announceOf (b0 :: b1 :: b2 :: b3 :: b4 :: b5 :: b6 :: w) frame =
         { id := BitVec.ofNat 32 (16777216 * b2.toNat + 65536 * b3.toNat + 256 * b4.toNat + b5.toNat)
           markWake := decide (128 ≤ b6.toNat)
           cause := if b6.toNat / 64 % 2 = 0 then .woken else .self
           demand := b6.toNat % 64
           frame := frame })

/-- RENEW: idle frames 0; the countdown of a FED record's lease, or of a TESTING record's LIVE lease, reloaded; QUEUED or
DEFER(NO_LEASE) to an ATTACHED one.
RELEASE: idle frames 0; a lease ends as RELEASED, a claim queue entry is withdrawn and the queue served, and there is no
effect otherwise: none for a TESTING record without a lease (R123). -/
def Obligations.TakeRenewAndRelease : Prop :=
  (∀ (s : State) (n : Nat) (h : Holder) (r : Record) (w : List Byte) (d : Device), s.newWord n h r w d → upKind w = .renew →
     let e := d.modRec h.index fun r => { r with idle := 0 }
     let reloaded := e.modLease h.index fun l => { l with countdown := d.settings.leaseLength }
     (r.state = .fed → exec .renew s = .next ⟨reloaded, s.pending⟩)
     ∧ (r.state = .testing → exec .renew s = .next ⟨if (d.leaseOf h.index).map Lease.phase = some .live then reloaded else e,
         s.pending⟩)
     ∧ (r.state = .attached → exec .renew s = .next
         ⟨e.post h.index h.id (if (d.claimOf h.index).isSome then .queued else .defer .noLease), s.pending⟩))
  ∧ (∀ (s : State) (n : Nat) (h : Holder) (r : Record) (w : List Byte) (d : Device), s.newWord n h r w d → upKind w = .release →
       let e := d.modRec h.index fun r => { r with idle := 0 }
       (r.state = .fed ∨ r.state = .testing → exec .release s = .next ⟨if (d.leaseOf h.index).isSome then
           e.endLease h.index .released else e, s.pending⟩)
       ∧ (r.state = .attached → exec .release s = .next ⟨if (d.claimOf h.index).isSome then
           ({ e with lease := { e.lease with claims := e.lease.claims.filter fun c => c.index != h.index } } : Device).serve
         else e, s.pending⟩))

/-- REPORT: the battery report is replaced, voltages and load held to their ranges and a charge above 100 unknown; for a record
with no test, where no automatic claim is called for, that is all, and where one is, it goes to the claim intake. A test that is
BEGINNING ends as LOW_START by cutoff-near; one that is RUNNING takes its first voltage and each later one, ends as LOW_START by a
first voltage below the floor, and as FAIL by cutoff-near. The word goes on from the Test Engine to the Lease Manager (log 17; by
R116 and R166 the outcome is the same in either order), which makes an automatic claim for an ATTACHED record with no claim queue
entry, in an outage, whose report shows cutoff-near. -/
def Obligations.TakeReport : Prop :=
  (∀ (d : Device) (i : Nat) (t : TermId) (near : Bool) (r : Record), d.rec? i = some r → d.leaseReport i t near =
     if near = true ∧ d.mode.mode.inOutage = true ∧ r.state = .attached ∧ d.claimOf i = none then
       d.takeClaim i t (Device.autoSteps r) else d)
  ∧ ∀ (s : State) (n : Nat) (h : Holder) (r : Record) (w : List Byte) (d : Device), s.newWord n h r w d → upKind w = .report →
    let cutoff : Bool := byteAt w 7 % 2 == 1
    let volts := min (256 * byteAt w 2 + byteAt w 3) 2000
    let b : BatteryReport :=
      { voltage := volts, charge := if byteAt w 4 ≤ 100 then some (byteAt w 4) else none
        load := min (256 * byteAt w 5 + byteAt w 6) 2000, cutoffNear := cutoff }
    let e := d.modRec h.index fun r => { r with report := some b }
    (d.channelOf h.index = none → (cutoff = false ∨ d.mode.mode.inOutage = false ∨ r.state ≠ .attached
        ∨ (d.claimOf h.index).isSome = true) → exec .report s = .next ⟨e, s.pending⟩)
    ∧ (d.channelOf h.index = none → cutoff = true → d.mode.mode.inOutage = true → r.state = .attached → d.claimOf h.index = none →
        exec .report s = .next ⟨e.takeClaim h.index h.id (Device.autoSteps r), s.pending⟩)
    ∧ ∀ c x, d.channelOf h.index = some c → d.test? c = some x → r.state = .testing →
        (x.phase = .beginning → exec .report s = .next
          ⟨if cutoff then (e.endTest c x (.aborted .lowStart) 0 true).leaseReport h.index h.id true else e, s.pending⟩)
        ∧ (x.phase = .running → x.startV = none →
            let y : Test := { x with startV := some volts, lastV := some volts }
            let e' := e.putChannel c (some y)
            exec .report s = .next ⟨if volts < d.settings.testFloor then
                (e'.endTest c y (.aborted .lowStart) 0 cutoff).leaseReport h.index h.id cutoff
              else if cutoff then (e'.endTest c y (.verdict .fail) 0 true).leaseReport h.index h.id true
              else e', s.pending⟩)
        ∧ (x.phase = .running → ∀ v, x.startV = some v →
            let y : Test := { x with lastV := some volts }
            let e' := e.putChannel c (some y)
            exec .report s = .next ⟨if cutoff then
                (e'.endTest c y (.verdict .fail) (v - volts) true).leaseReport h.index h.id true
              else e', s.pending⟩)

/-! ## Records: transitions -/

/-- R11, R12: a request that names no record of the index and ID, or a cause that table 1-4 does not list for the record's state,
is discarded; any other is taken, and the record moves to the table's state with the parts that R5 ties to it, the reason of
R14, the idle frames of R10 and the wake timer of R80, while everything else stays. -/
def Obligations.TransitionTable : Prop :=
  ∀ (d : Device) (i : Nat) (t : TermId) (c : Cause),
    let goes : RecState → Option RecState := fun st => match c, st with
      | .discoveryBound, .pending => some .attached
      | .amendGaveLine, .pending => some .dormant
      | .wakeStarted, .dormant => some .waking
      | .spontaneousAnnounce, .dormant => some .attached
      | .amendRemovedLine, .dormant => some .pending
      | .amendRemovedLine, .quarantined => some .pending
      | .lostLimit, .dormant => some .quarantined
      | .matchingAnnounce, .waking => some .attached
      | .windowExpired, .waking => some .dormant
      | .attemptAbandoned, .waking => some .dormant
      | .attemptsExhausted, .waking => some .quarantined
      | .leaseGranted, .attached => some .fed
      | .restDelivered, .attached => some .dormant
      | .leaseEnded, .fed => some .attached
      | .testEndedLease, .testing => some .fed
      | .testEndedNoLease, .testing => some .attached
      | .reinstate, .quarantined => some .dormant
      | .trip, st => if st = .waking ∨ st = .attached ∨ st = .fed ∨ st = .testing then some .quarantined else none
      | .testStarted, st => if st = .attached ∨ st = .fed then some .testing else none
      | .secondStrike, st => if st = .fed ∨ st = .testing then some .quarantined else none
      | .lost, st => if st = .attached ∨ st = .fed ∨ st = .testing then some .dormant else none
      | .restartTeardown, st => if st = .attached ∨ st = .fed ∨ st = .testing then some .dormant else none
      | _, _ => none
    (d.rec? i = none → d.transition i t c = none)
    ∧ ∀ r, d.rec? i = some r →
      (r.id ≠ t ∨ goes r.state = none → d.transition i t c = none)
      ∧ ∀ st, r.id = t → goes r.state = some st → d.transition i t c = some (d.modRec i fun r => { r with
          state := st
          reason := match c with
            | .lostLimit => some .unstable
            | .attemptsExhausted => some .noWake
            | .trip => some .short
            | .secondStrike => some .overdraw
            | _ => if st = .dormant ∨ st = .pending then none else r.reason
          slot := if st = .dormant ∨ st = .pending ∨ st = .quarantined then none else r.slot
          lease := if st = .fed then true else if st = .testing ∨ st = .waking then r.lease else false
          idle := if st = .attached then r.idle else 0
          wakeTimer := if st = .dormant then (if r.wakeInterval = 0 then none else some r.wakeInterval) else r.wakeTimer })

/-! ## Announces, attempts and discoveries -/

/-- An announce while no attempt or discovery is in progress, or with cause SELF during a discovery: BACKOFF for a QUARANTINED
record, a PENDING one (with UNPLACED), an unknown ID (offered to the stranger list), and a DORMANT one with no slot FREE.
A spontaneous announce of a DORMANT record with a slot FREE, where nothing waits and no eviction stands: the record ATTACHED
on the lowest FREE slot, which is HELD and not yet open under the next hold number, its capabilities replaced, its failed wakes
0, and ASSIGN due in the next frame. Whatever waits, its wake queue entry goes, the record is accepted as AnnounceInAttempt says, and
the head is examined where it has changed; that this comes after the acceptance, and so after the agenda's examination in it, is the
model's choice (logs 43 and 44).
One of an ATTACHED, FED or TESTING record (R97), where nothing waits and no eviction stands: its slot RELEASING, its lease and its test gone, a
test of it aborted as LOST, no attention raised and no loss counted; then as of a DORMANT record, with BACKOFF where no slot is
FREE.
R59: the lowest FREE slot is the FREE terminal slot of the lowest number; there is none when no terminal slot is FREE. -/
def Obligations.SpontaneousAnnounce : Prop :=
  (∀ d : Device,
     (∀ n, d.lowestFree = some n ↔ 2 ≤ n ∧ (∃ x, d.slot? n = some x ∧ x.use = .free)
       ∧ ∀ m x, m < n → d.slot? m = some x → x.use ≠ .free)
     ∧ (d.lowestFree = none ↔ ∀ x ∈ d.riser.slots, x.use ≠ .free))
  ∧ (∀ (s : State) (d : Device) (a : Announce), s.heard a d →
     (d.wake.attempt = none ∨ (a.cause = .self ∧ ∃ x l, d.wake.attempt = some x ∧ x.target = .discovery l)) →
     let e : Device := { d with riser := { d.riser with backoffNext := some a.id } }
     (d.findId a.id = none → exec .announce s = .next ⟨e.offerStranger a.id none a.frame, s.pending⟩)
     ∧ ∀ i r, d.findId a.id = some i → d.rec? i = some r →
       (r.state = .quarantined → exec .announce s = .next ⟨e, s.pending⟩)
       ∧ (r.state = .dormant → (∀ x ∈ d.riser.slots, x.use ≠ .free) → exec .announce s = .next ⟨e, s.pending⟩)
       ∧ (r.state = .pending → exec .announce s = .next ⟨{ e with port := { e.port with
           records := e.port.records.modify i fun x => { x with unplaced := true } } }, s.pending⟩))
  ∧ (∀ (s : State) (d : Device) (a : Announce) (i n : Nat) (r : Record), s.heard a d → d.wake.attempt = none → d.quiet →
       d.wake.eviction = none → d.findId a.id = some i → d.rec? i = some r → r.state = .dormant → d.lowestFree = some n →
       let demand := if a.demand = 0 ∨ a.demand = 63 then (match r.cls with
           | .lifeline => 12 | .standard => 10 | .deferrable => 8) else min a.demand 40
       let e := ((d.modRec i fun r => { r with
           state := .attached, lease := false, slot := some n, capabilities := some ⟨a.markWake, demand⟩
           failedWakes := 0 }).modSlot n fun x =>
         { hold := x.hold + 1
           use := .held { index := i, id := a.id, isOpen := false, queue := [], nextSeq := 1, lastUp := none, silence := 0 } })
       exec .announce s = .next ⟨{ e with
         riser := { e.riser with assignNext := some (a.id, n) }
         test := { e.test with inHand := if (e.test.inHand.map Prod.fst) = some i then none else e.test.inHand } }, s.pending⟩)
  ∧ (∀ (s : State) (d : Device) (a : Announce) (i n : Nat) (r : Record), s.heard a d →
       (d.wake.attempt = none ∨ (a.cause = .self ∧ ∃ x l, d.wake.attempt = some x ∧ x.target = .discovery l)) →
       d.findId a.id = some i → d.rec? i = some r → r.state = .dormant → d.lowestFree = some n →
       let e := ({ d with wake := { d.wake with queue := d.wake.queue.filter fun x => !x.isRecord i } } : Device).accept i
         .spontaneousAnnounce n a
       exec .announce s = .next ⟨if e.wakeHead = d.wakeHead then e else e.examineWake, s.pending⟩)
  ∧ (∀ (s : State) (d : Device) (a : Announce) (i m : Nat) (r : Record), s.heard a d → d.wake.attempt = none → d.quiet →
       d.wake.eviction = none → d.ok = true → d.findId a.id = some i → d.rec? i = some r →
       r.state = .attached ∨ r.state = .fed ∨ r.state = .testing → d.heldSlot i a.id = some m →
       let demand := if a.demand = 0 ∨ a.demand = 63 then (match r.cls with
           | .lifeline => 12 | .standard => 10 | .deferrable => 8) else min a.demand 40
       let out : Record := { r with
         state := .dormant, reason := none, slot := none, lease := false, idle := 0
         wakeTimer := if r.wakeInterval = 0 then none else some r.wakeInterval
         lastOutcome := if (d.channelOf i).isSome then some (.aborted .lost) else r.lastOutcome }
       ∃ d', exec .announce s = .next ⟨d', s.pending⟩
         ∧ (d'.slot? m).map Slot.use = some .releasing ∧ d'.leaseOf i = none ∧ d'.port = d.port
         ∧ (∀ c, d.channelOf i = some c → d'.test? c = none)
         ∧ (∀ n, d.lowestFree = some n →
           d'.rec? i = some { out with
               state := .attached, slot := some n, capabilities := some ⟨a.markWake, demand⟩, failedWakes := 0 }
             ∧ (d'.slot? n).map Slot.use = some (.held ⟨i, a.id, false, [], 1, none, 0⟩)
             ∧ d'.riser.assignNext = some (a.id, n))
         ∧ (d.lowestFree = none → d'.rec? i = some out ∧ d'.riser.backoffNext = some a.id))

/-- R100: what an offer does to the stranger list. -/
def Obligations.StrangerOffer : Prop :=
  ∀ (d : Device) (t : TermId) (line : Option Nat) (f : Count16),
    let raised : Device → Device := fun e => { e with port := { e.port with device := { e.port.device with stranger := true } } }
    (∀ x, d.wake.strangers.find? (fun x => x.id == t) = some x →
      d.offerStranger t line f = if x.line = none ∧ line ≠ none then
        raised { d with wake := { d.wake with
          strangers := d.wake.strangers.map fun y => if y.id = t then { y with line := line } else y } } else d)
    ∧ (d.wake.strangers.find? (fun x => x.id == t) = none →
      d.offerStranger t line f = raised (if d.wake.strangers.length < 4 then
        { d with wake := { d.wake with strangers := d.wake.strangers ++ [⟨t, line, f⟩] } }
      else { d with wake := { d.wake with overflow := true } }))

/-- An announce during a record attempt: a pulse still running is stopped, the ID under attempt is accepted on the reserved slot (in
this order by log 35), the attempt ends and the head is examined; any other draws BACKOFF, and an unknown one is offered to the stranger list.
The first announce with cause WOKEN during a discovery decides it: with an unknown ID STRANGER, with the ID of a record that is
not PENDING CONFLICT, each with BACKOFF and the reserved slot freed, and with that of a PENDING record BOUND.
R89: a pulse still running is stopped: its line OFF, the pulse over, and a standing permit leaves the committed sum and the claim
queue is served; without a running pulse nothing changes.
R96: the acceptance of an announce, from WAKING, DORMANT or PENDING: the record ATTACHED on the slot, which is HELD and not yet open
under the next hold number, its capabilities replaced, its failed wakes 0, ASSIGN due in the next frame, a wake in hand for it gone;
then the agenda examined where it has an entry (R156), and an outstanding eviction that names it completed (R102).
R59: a RESERVED slot is freed at once, and any other is left as it is. -/
def Obligations.AnnounceInAttempt : Prop :=
  (∀ d : Device,
     ((∀ x, d.wake.attempt = some x → x.pulsing = false) → d.stopPulse = d)
     ∧ ∀ x, d.wake.attempt = some x → x.pulsing = true →
       let line : Option Nat := match x.target with
         | .record i _ _ => (d.rec? i).bind Record.line
         | .discovery l => some l
       let e : Device := match line with
         | some l => d.modLine l fun y => { y with switch := if y.switch = .tripped then .tripped else .off }
         | none => d
       let f : Device := { e with wake := { e.wake with attempt := some { x with pulsing := false, permit := false } } }
       d.stopPulse = match d.lease.permit with
         | some k => ({ f with lease := { f.lease with permit := none, committed := f.lease.committed - k } } : Device).serve
         | none => f)
  ∧ (∀ (d : Device) (i n : Nat) (c : Cause) (a : Announce) (r : Record), d.rec? i = some r → r.id = a.id →
       (c = .matchingAnnounce ∧ r.state = .waking ∨ c = .spontaneousAnnounce ∧ r.state = .dormant
         ∨ c = .discoveryBound ∧ r.state = .pending) →
       let demand := if a.demand = 0 ∨ a.demand = 63 then (match r.cls with
           | .lifeline => 12 | .standard => 10 | .deferrable => 8) else min a.demand 40
       let e := ((d.modRec i fun r => { r with
           state := .attached, lease := false, slot := some n, capabilities := some ⟨a.markWake, demand⟩
           failedWakes := 0 }).modSlot n fun x =>
         { hold := x.hold + 1
           use := .held { index := i, id := a.id, isOpen := false, queue := [], nextSeq := 1, lastUp := none, silence := 0 } })
       let f : Device := { e with
         riser := { e.riser with assignNext := some (a.id, n) }
         test := { e.test with inHand := if (e.test.inHand.map Prod.fst) = some i then none else e.test.inHand } }
       d.accept i c n a = (if d.inAgenda i = true then f.examineAgenda else f).completeEviction i a.id)
  ∧ (∀ (d : Device) (n : Nat), d.freeSlot n = d.modSlot n fun x => { x with use := match x.use with
       | .reserved _ => .free
       | use => use })
  ∧ (∀ (s : State) (d : Device) (a : Announce) (x : Attempt) (i : Nat) (t : TermId) (p : Purpose), s.heard a d →
     d.wake.attempt = some x → x.target = .record i t p →
     (a.id = t →
       let e := d.stopPulse.accept i .matchingAnnounce x.slot a
       exec .announce s = .next ⟨({ e with wake := { e.wake with attempt := none } } : Device).examineWake, s.pending⟩)
     ∧ (a.id ≠ t →
       let e : Device := { d with riser := { d.riser with backoffNext := some a.id } }
       exec .announce s = .next ⟨if d.findId a.id = none then e.offerStranger a.id none a.frame else e, s.pending⟩))
  ∧ (∀ (s : State) (d : Device) (a : Announce) (x : Attempt) (l : Nat), s.heard a d → d.wake.attempt = some x →
       x.target = .discovery l → a.cause = .woken →
       let ended : Device → DiscoveryResult → Device := fun e res =>
         ({ e.modLine l (fun y => { y with discovery := some res }) with
           wake := { e.wake with attempt := none }
           port := { e.port with device := { e.port.device with discovery := true } } } : Device).examineWake
       let e := d.stopPulse
       let f := e.freeSlot x.slot
       let refused : Device := { f with riser := { f.riser with backoffNext := some a.id } }
       (e.findId a.id = none → exec .announce s = .next ⟨ended (refused.offerStranger a.id (some l) a.frame) .stranger, s.pending⟩)
       ∧ ∀ i r, e.findId a.id = some i → e.rec? i = some r →
         (r.state ≠ .pending → exec .announce s = .next ⟨ended refused .conflict, s.pending⟩)
         ∧ (r.state = .pending →
           let g := (((e.modRec i fun r => { r with line := some l }).modLine l fun y => { y with binding := some i }).accept i
             .discoveryBound x.slot a)
           exec .announce s = .next ⟨ended (g.raiseRec i a.id fun y => { y with bound := true }) .bound, s.pending⟩))

/-- ATTACH_WINDOW_EXPIRY: the pulse is stopped, as AnnounceInAttempt says, and failed wakes raised; below wake attempts the slot is freed, the record DORMANT
with its wake timer loaded, and an entry of the same purpose made; else the record is quarantined as NO_WAKE; the head is
examined.
DISCOVERY_WINDOW_EXPIRY: the pulse is stopped, the slot freed, the result EMPTY stored with DISCOVERY raised, and the head
examined. -/
def Obligations.WindowExpiries : Prop :=
  (∀ (s : State) (d e : Device) (x : Attempt) (i : Nat) (t : TermId) (p : Purpose) (r : Record), s.dueNow .attachWindow d →
     d.wake.attempt = some x → x.target = .record i t p → x.window = 0 → d.stopPulse = e → e.rec? i = some r → r.id = t →
     r.state = .waking →
     let fails := min (r.failedWakes + 1) 7
     let f := e.modRec i fun r => { r with failedWakes := fails }
     (fails < e.settings.wakeAttempts →
       let g := (f.modRec i fun r => { r with
           state := .dormant, reason := none, slot := none, lease := false, idle := 0
           wakeTimer := if r.wakeInterval = 0 then none else some r.wakeInterval }).freeSlot x.slot
       let h : Device := { g with wake := { g.wake with attempt := none } }
       exec .attachWindowExpiry s = .next ⟨(if h.mode.mode.inOutage = true ∧ h.wakeEntryOf i = none then
           { h with wake := { h.wake with
             queue := h.wake.queue ++ [⟨.record i t p, h.wake.arrival, false⟩]
             arrival := min (h.wake.arrival + 1) 0xFFFFFFFF } }
         else h).examineWake.finish, s.pending⟩)
     ∧ (e.settings.wakeAttempts ≤ fails →
       exec .attachWindowExpiry s = .next ⟨(f.quarantineD i t .attemptsExhausted).examineWake.finish, s.pending⟩))
  ∧ (∀ (s : State) (d : Device) (x : Attempt) (l : Nat), s.dueNow .discoveryWindow d → d.wake.attempt = some x →
       x.target = .discovery l → x.window = 0 →
       let e := d.stopPulse.freeSlot x.slot
       exec .discoveryWindowExpiry s = .next ⟨(({ e.modLine l (fun y => { y with discovery := some .empty }) with
         wake := { e.wake with attempt := none }
         port := { e.port with device := { e.port.device with discovery := true } } } : Device).examineWake).finish, s.pending⟩)

/-- R85: an examination that finds an attempt or a discovery in progress, or an empty queue, changes nothing.
R86, R88: with no attempt in progress, a record head that meets every condition starts: the permit of a PULSE taken, the
lowest FREE slot reserved, the entry gone, the record WAKING with that slot, the window loaded, the line pulsed; where TRIP_N of the
line is asserted a trip of it is due at once, ahead of all that is due but the urgent events before it (R135, log 1). A head whose
mode, level or permit condition fails changes nothing. A discovery head (R88) starts alike, with its line pulsed for the discovery
and no record to change.
R101, R102: a head held back by the slot condition alone, while no eviction is outstanding and no slot RELEASING, has REST posted
to the idle-eligible record of no higher class with the most idle frames, the lowest index among equals, which is then the
outstanding eviction; an eviction that completes is cleared and the head examined. That the permit of a PULSE head is not asked for
in that judgement is the model's reading (DEDUCED, log 29).
R84: the head of the wake queue is the first of its entries: the LIFELINE band, then STANDARD with the discoveries, then DEFERRABLE;
in a band the returned entries first, the highest arrival order in front, then the others in rising arrival order; with one
arrival order records by index, then discoveries by line (among returned entries the model's choice, log 26).
R87: the method of a record's attempt is its wake method; for AUTO, MARK where the capabilities have mark-wake and the attempt is
not the final one, else PULSE. -/
def Obligations.WakeQueueHead : Prop :=
  (∀ d : Device, d.wake.attempt.isSome = true ∨ d.wake.queue = [] → d.examineWake = d)
  ∧ (∀ (d : Device) (e : WakeEntry) (i n : Nat) (t : TermId) (p : Purpose) (r : Record), d.wake.attempt = none →
     d.wakeHead = some e → e.target = .record i t p → d.rec? i = some r → r.id = t →
     let urgent : Due → Bool := fun x => match x with
       | .wakeTimer _ => true
       | .testTimer _ => true
       | .trip _ => true
       | _ => false
     (d.mode.mode.inOutage = false → d.examineWake = d)
     ∧ (d.callMethod r = .pulse → d.mode.level = .exhausted → d.examineWake = d)
     ∧ (d.callMethod r = .pulse →
         (d.lease.permit.isSome = true ∨ d.mode.ceiling - d.lease.committed < d.settings.pulseAllowance) →
         d.lowestFree = some n → d.examineWake = d)
     ∧ (r.state = .dormant → d.mode.mode.inOutage = true → d.lowestFree = some n →
       let w := ((d.modRec i fun r => { r with state := .waking, idle := 0, slot := some n }).modSlot n fun x =>
         { x with use := .reserved (.record i t) })
       let started : Bool → Device → Device := fun pulse w => { w with wake := { w.wake with
         queue := w.wake.queue.filter fun y => y.target != e.target
         attempt := some ⟨e.target, if pulse then .pulse else .mark, n, d.settings.attachWindow, pulse, pulse⟩ } }
       (d.callMethod r = .mark → d.examineWake = started false w)
       ∧ ∀ l x, d.callMethod r = .pulse → d.mode.level ≠ .exhausted → d.lease.permit = none →
         d.settings.pulseAllowance ≤ d.mode.ceiling - d.lease.committed → r.line = some l → d.line? l = some x →
         x.switch = .off →
         d.examineWake = started true ({ w with
           lines := w.lines.modify l fun x => { x with switch := .pulse d.settings.pulseLength (.record i t) }
           due := if x.tripLow = true then d.due.takeWhile urgent ++ .trip l :: d.due.dropWhile urgent else d.due
           lease := { w.lease with
             permit := some d.settings.pulseAllowance
             committed := w.lease.committed + d.settings.pulseAllowance } } : Device)))
  ∧ (∀ (d : Device) (e : WakeEntry) (l n : Nat), d.wake.attempt = none → d.wakeHead = some e → e.target = .discovery l →
       let urgent : Due → Bool := fun x => match x with
         | .wakeTimer _ => true
         | .testTimer _ => true
         | .trip _ => true
         | _ => false
       (d.mode.level = .exhausted → d.examineWake = d)
       ∧ (d.lowestFree = some n →
         (d.lease.permit.isSome = true ∨ d.mode.ceiling - d.lease.committed < d.settings.pulseAllowance) → d.examineWake = d)
       ∧ ∀ x, d.mode.level ≠ .exhausted → d.lowestFree = some n → d.lease.permit = none →
         d.settings.pulseAllowance ≤ d.mode.ceiling - d.lease.committed → d.line? l = some x → x.switch = .off →
         let w := d.modSlot n fun x => { x with use := .reserved .discovery }
         d.examineWake = { w with
           wake := { w.wake with
             queue := w.wake.queue.filter fun y => y.target != e.target
             attempt := some ⟨.discovery l, .pulse, n, d.settings.attachWindow, true, true⟩ }
           lines := w.lines.modify l fun x => { x with switch := .pulse d.settings.pulseLength .discovery }
           due := if x.tripLow = true then d.due.takeWhile urgent ++ .trip l :: d.due.dropWhile urgent else d.due
           lease := { w.lease with
             permit := some d.settings.pulseAllowance
             committed := w.lease.committed + d.settings.pulseAllowance } })
  ∧ (∀ (d : Device) (e : WakeEntry) (rank : Nat), d.wake.attempt = none → d.wakeHead = some e → d.lowestFree = none →
       (match e.target with
         | .record i t _ => ∃ r, d.rec? i = some r ∧ r.id = t ∧ d.mode.mode.inOutage = true ∧ rank = r.cls.rank
           ∧ (d.callMethod r = .pulse → d.mode.level ≠ .exhausted)
         | .discovery _ => d.mode.level ≠ .exhausted ∧ rank = Machine.Class.rank .standard) →
       let cand (j : Nat) (r : Record) : Prop := j < 80 ∧ d.rec? j = some r ∧ d.idleEligible j = true ∧ rank ≤ r.cls.rank
       (d.wake.eviction.isSome = true ∨ (∃ x ∈ d.riser.slots, x.use = .releasing) → d.examineWake = d)
       ∧ (d.wake.eviction = none → (∀ x ∈ d.riser.slots, x.use ≠ .releasing) →
         ((∀ j r, ¬ cand j r) → d.examineWake = d)
         ∧ ∀ j r, cand j r → (∀ k q, cand k q → q.idle < r.idle ∨ (q.idle = r.idle ∧ j ≤ k)) →
           let f := d.post j r.id .rest
           d.examineWake = { f with wake := { f.wake with eviction := some (j, r.id) } }))
  ∧ (∀ (d : Device) (i : Nat) (t : TermId),
       (d.wake.eviction ≠ some (i, t) → d.completeEviction i t = d)
       ∧ (d.wake.eviction = some (i, t) →
         d.completeEviction i t = ({ d with wake := { d.wake with eviction := none } } : Device).examineWake))
  ∧ (∀ d : Device,
       let band (x : WakeEntry) : Nat := match x.target with
         | .discovery _ => 1
         | .record i _ _ => match (d.rec? i).map Record.cls with
           | some .lifeline => 0
           | some .standard => 1
           | some .deferrable => 2
           | none => 2
       let tied (x y : WakeEntry) : Prop := match x.target, y.target with
         | .record i _ _, .record j _ _ => i ≤ j
         | .record _ _ _, .discovery _ => True
         | .discovery _, .record _ _ _ => False
         | .discovery l, .discovery m => l ≤ m
       (d.wake.queue = [] → d.wakeHead = none)
       ∧ (d.wake.queue ≠ [] → ∃ e, d.wakeHead = some e ∧ e ∈ d.wake.queue ∧ ∀ x ∈ d.wake.queue, band e < band x
         ∨ (band e = band x ∧ ((e.returned = true ∧ x.returned = false)
           ∨ (e.returned = true ∧ x.returned = true ∧ x.arrival < e.arrival)
           ∨ (e.returned = false ∧ x.returned = false ∧ e.arrival < x.arrival)
           ∨ (e.returned = x.returned ∧ e.arrival = x.arrival ∧ tied e x)))))
  ∧ (∀ (d : Device) (r : Record), d.callMethod r = match r.method with
       | .mark => .mark
       | .pulse => .pulse
       | .auto =>
         if r.capabilities.any Capabilities.markWake = true ∧ r.failedWakes + 1 < d.settings.wakeAttempts then .mark else .pulse)

/-! ## Line switches and sensing -/

/-- PULSE_END: the switch OFF, and the report of the pulse's end: where it is the running pulse of the attempt in progress, the pulse
is over, and a standing permit leaves the committed sum and the claim queue is served.
SOFTSTART_COMPLETE: the switch goes ON.
The handling of a trip (R139, R142), which is judged against the switch at this moment: at a switch that is OFF or TRIPPED it changes
nothing. With TRIP_N released it changes nothing either, which is the model's reading (log 11). At an unbound line it turns the switch OFF (R141), and during the pulse of the discovery in
progress it reports the pulse's end, frees the reserved slot and decides the discovery: SHORT is stored, DISCOVERY raised and the
head examined (R99). At a bound line (R140) the switch goes TRIPPED and the record is quarantined as QuarantineTaken says; a record
that is not WAKING, ATTACHED, FED or TESTING has its switch returned to OFF instead; the pulse's end is then reported where the
switch was PULSE.
TRIP where no trip of the line is due: a low of TRIP_N under 50 µs, one while it is asserted already and a release change no more
than the level; an assertion is handled as a trip at once. A trip is due where an order took the switch out of OFF while TRIP_N was
asserted (R135, R139); that the command then handles it first, with the level changing afterwards as it would without, and nothing
before it but the urgent events due ahead of it, is the model's choice (logs 11 and 1). -/
def Obligations.LineSwitchEvents : Prop :=
  let ended (d : Device) (a : Attempt) : Device :=
    let f : Device := { d with wake := { d.wake with attempt := some { a with pulsing := false, permit := false } } }
    match d.lease.permit with
    | some k => ({ f with lease := { f.lease with permit := none, committed := f.lease.committed - k } } : Device).serve
    | none => f
  let reported (d : Device) (l : Nat) : Device := match d.wake.attempt with
    | some a =>
      let line : Option Nat := match a.target with
        | .record i _ _ => (d.rec? i).bind Record.line
        | .discovery m => some m
      if a.pulsing = true ∧ line = some l then ended d a else d
    | none => d
  (∀ (s : State) (d : Device) (l : Nat) (x : Line) (o : Claimant), s.dueNow (.pulseEnd l) d → d.line? l = some x →
     x.switch = .pulse 0 o →
     exec (.pulseEnd l) s = .next ⟨(reported (d.modLine l fun x => { x with switch := .off }) l).finish, s.pending⟩)
  ∧ (∀ (s : State) (d : Device) (l : Nat) (x : Line), s.dueNow (.softstart l) d → d.line? l = some x → x.switch = .softstart 0 →
       exec (.softstartComplete l) s = .next ⟨(d.modLine l fun x => { x with switch := .on }).finish, s.pending⟩)
  ∧ (∀ (d : Device) (l : Nat) (x : Line), d.line? l = some x →
       let off := d.modLine l fun x => { x with switch := .off }
       (x.tripLow = false ∨ x.switch = .off ∨ x.switch = .tripped → d.handle (.trip l) = d)
       ∧ (x.tripLow = true → x.switch ≠ .off → x.switch ≠ .tripped →
         (x.binding = none →
           ((∀ k a, x.switch = .pulse k .discovery → d.wake.attempt = some a → a.target ≠ .discovery l) →
             d.handle (.trip l) = off)
           ∧ ∀ k a, x.switch = .pulse k .discovery → d.wake.attempt = some a → a.target = .discovery l →
             let h := (reported off l).freeSlot a.slot
             d.handle (.trip l) = ({ h.modLine l (fun y => { y with discovery := some .short }) with
               wake := { h.wake with attempt := none }
               port := { h.port with device := { h.port.device with discovery := true } } } : Device).examineWake)
         ∧ ∀ i, x.binding = some i →
           let told (e : Device) : Device := match x.switch with
             | .pulse _ _ => reported e l
             | _ => e
           ((∀ r, d.rec? i = some r → r.state = .pending ∨ r.state = .dormant ∨ r.state = .quarantined) →
             d.handle (.trip l) = told off)
           ∧ ∀ r, d.rec? i = some r → (r.state = .waking ∨ r.state = .attached ∨ r.state = .fed ∨ r.state = .testing) →
             d.handle (.trip l) = told ((d.modLine l fun x => { x with switch := .tripped }).quarantineD i r.id .trip)))
  ∧ (∀ (s : State) (d : Device) (l ns : Nat) (x : Line),
       ((s.settled d ∧ Due.trip l ∉ s.dev.due) ∨ ∃ e, s.dueNow (.trip l) e ∧ d = (e.handle (.trip l)).finish) →
       d.line? l = some x →
       exec (.trip l .release) s = .next ⟨d.modLine l fun x => { x with tripLow := false }, s.pending⟩
       ∧ (ns < 50000 ∨ x.tripLow = true → exec (.trip l (.low ns)) s = .next ⟨d, s.pending⟩)
       ∧ (50000 ≤ ns → x.tripLow = false → exec (.trip l (.low ns)) s = .next
         ⟨(d.modLine l fun x => { x with tripLow := true }).handle (.trip l), s.pending⟩))

/-- TRIP at a bound line whose record is in service, where nothing but an agenda entry of the record waits: the record QUARANTINED as
SHORT with QUARANTINED raised, no lease, no slot; its slot RELEASING, its channel FREE, its agenda entry gone; the switch latched
TRIPPED.
TRIP during the pulse that calls a WAKING record, where nothing waits (R140): the same, with its failed wakes as they were; the
attempt gone, the permit returned, the reserved slot FREE.
A quarantine taken: with nothing else waiting, the record keeps what R14 says, is QUARANTINED with the cause's reason, and holds no
slot and no lease; a slot it held is RELEASING, a channel it had FREE, and its agenda entry gone; QUARANTINED is raised. A quarantine
that the Roster discards changes nothing. -/
def Obligations.QuarantineTaken : Prop :=
  (∀ (s : State) (d : Device) (l ns i : Nat) (x : Line) (r : Record), s.settled d → Due.trip l ∉ s.dev.due → d.ok = true →
     d.lease.claims = [] → d.wake.queue = [] → (∀ y ∈ d.test.agenda, y.index = i) →
     d.line? l = some x → x.binding = some i → d.rec? i = some r → r.line = some l → 50000 ≤ ns → x.tripLow = false →
     (x.switch = .on ∨ ∃ k, x.switch = .softstart k) → (r.state = .attached ∨ r.state = .fed ∨ r.state = .testing) →
     ∃ d', exec (.trip l (.low ns)) s = .next ⟨d', s.pending⟩
       ∧ (∃ r', d'.rec? i = some r' ∧ r'.state = .quarantined ∧ r'.reason = some .short ∧ r'.slot = none ∧ r'.lease = false
         ∧ r'.standing = r.standing)
       ∧ (d'.line? l).map Line.switch = some .tripped ∧ d'.leaseOf i = none ∧ (d'.reasonsOf i).quarantined = true
       ∧ (∀ n, d.heldSlot i r.id = some n → (d'.slot? n).map Slot.use = some .releasing)
       ∧ (∀ c, d.channelOf i = some c → d'.test? c = none) ∧ d'.test.agenda = []
       ∧ d'.still Record.standing = (d.modLine l fun x => { x with tripLow := true }).still Record.standing)
  ∧ (∀ (s : State) (d : Device) (l ns i j k : Nat) (hold : Count16) (x : Line) (r : Record) (a : Attempt) (p : Purpose)
       (c : Claimant), s.settled d → Due.trip l ∉ s.dev.due → d.ok = true → d.quiet → d.line? l = some x → x.binding = some i →
       d.rec? i = some r → r.line = some l → 50000 ≤ ns → x.tripLow = false → x.switch = .pulse j (.record i r.id) →
       r.state = .waking → d.leaseOf i = none → d.wake.attempt = some a → a.target = .record i r.id p → a.pulsing = true →
       d.lease.permit = some k → d.slot? a.slot = some ⟨hold, .reserved c⟩ →
       ∃ d', exec (.trip l (.low ns)) s = .next ⟨d', s.pending⟩
         ∧ (∃ r', d'.rec? i = some r' ∧ r'.state = .quarantined ∧ r'.reason = some .short ∧ r'.slot = none ∧ r'.lease = false
           ∧ r'.standing = r.standing)
         ∧ (d'.line? l).map Line.switch = some .tripped ∧ (d'.reasonsOf i).quarantined = true
         ∧ d'.wake.attempt = none ∧ d'.lease.permit = none ∧ d'.lease.committed = d.lease.committed - k
         ∧ d'.slot? a.slot = some ⟨hold, .free⟩)
  ∧ (∀ (d : Device) (i : Nat) (r : Record) (c : Cause) (q : QReason), d.ok = true → d.rec? i = some r →
       (d.transition i r.id c = none → d.quarantineD i r.id c = d)
       ∧ (d.lease.claims = [] → d.wake.queue = [] → (∀ y ∈ d.test.agenda, y.index = i) →
         c.reason = some q → c.target r.state = some .quarantined →
         let e := d.quarantineD i r.id c
         (∃ r', e.rec? i = some r' ∧ r'.state = .quarantined ∧ r'.reason = some q ∧ r'.slot = none ∧ r'.lease = false
           ∧ r'.idle = 0 ∧ r'.standing = r.standing)
         ∧ e.leaseOf i = none ∧ (e.reasonsOf i).quarantined = true ∧ e.still Record.standing = d.still Record.standing
         ∧ (∀ n, d.heldSlot i r.id = some n → (e.slot? n).map Slot.use = some .releasing)
         ∧ (∀ k, d.channelOf i = some k → e.test? k = none) ∧ e.test.agenda = []))

/-- SCAN_ROUND, the first of a frame that has begun: it comes after the beacon of its frame (R46, R54), which is sent first where it
is still to come (log 39), every line is scanned in turn, and the reserve measurement is judged after them. Each line keeps its
measurement, held to 1500 mA, counts its soft start down and, where it is ON with no capture standing, captures an excess over the
steps of its record's LIVE lease and the overdraw margin, at 25 mA each; its binding, TRIP_N level and discovery result stay. The records, the unattributed counter and the tally take the charge of the 64 lines in turn, and
the completion of each soft start whose count reaches 0 is due. A second round of a frame, and one before frame 0, changes
nothing (R143, log 39).
Table 6-3: where a line's measurement adds charge, and the outage tally with it; an addition stays at its maximum (R26, R27,
R52). -/
def Obligations.ScanRoundEffect : Prop :=
  (∀ (s : State) (d : Device) (currents : List Nat) (reserve : Nat), s.settled d → currents.length = 64 →
     (d.riser.frameZero = true ∨ d.scanned = true → exec (.scanRound currents reserve) s = .next ⟨d, s.pending⟩)
     ∧ (d.riser.frameZero = false → d.scanned = false →
       let limit (x : Line) : Option Nat := match x.binding.bind d.leaseOf with
         | some y => if y.phase = .live then some ((y.steps + d.settings.overdrawMargin) * 25) else none
         | none => none
       let charged : Device := (List.range 64).foldl (fun c l => match d.line? l, currents[l]? with
         | some x, some m => c.chargeLine x (min m 1500)
         | _, _ => c) d
       ∃ b e : Device, exec .beacon s = .next ⟨b, s.pending⟩ ∧ ({ b with riser := d.riser } : Device) = d
         ∧ exec (.scanRound currents reserve) s = .next ⟨e.scanReserve reserve, s.pending⟩
         ∧ (∀ l x m, d.line? l = some x → currents[l]? = some m → e.line? l = some { x with
             current := min m 1500
             switch := match x.switch with
               | .softstart k => .softstart (k - 1)
               | y => y
             overdraw := match x.switch, x.overdraw, limit x with
               | .on, none, some most => if most < min m 1500 then some (min m 1500) else none
               | _, o, _ => o })
         ∧ e.roster = charged.roster ∧ e.mode = { d.mode with tally := charged.mode.tally }
         ∧ e.due = d.due ++ ((List.range 64).filter fun l => match (d.line? l).map Line.switch with
             | some (.softstart k) => decide (k ≤ 1)
             | _ => false).map Due.softstart
         ∧ e.scanned = true
         ∧ ({ e with lines := d.lines, roster := d.roster, due := d.due, mode := d.mode, scanned := d.scanned } : Device) = b))
  ∧ (∀ (d : Device) (x : Line) (m : Nat),
       let tallied (e : Device) : Device := { e with mode := { e.mode with tally := min (e.mode.tally + m) 281474976710655 } }
       let charged (i : Nat) : Device := tallied (d.modRec i fun r => { r with charge := min (r.charge + m) 1099511627775 })
       (x.switch = .off ∨ x.switch = .tripped → d.chargeLine x m = d)
       ∧ (x.switch = .on ∨ (∃ k, x.switch = .softstart k) → ∀ i r, x.binding = some i → d.rec? i = some r →
           d.chargeLine x m = charged i)
       ∧ (∀ k i t r, x.switch = .pulse k (.record i t) → d.rec? i = some r → r.id = t → d.chargeLine x m = charged i)
       ∧ (∀ k, x.switch = .pulse k .discovery → d.chargeLine x m = tallied { d with roster := { d.roster with
           unattributed := min (d.roster.unattributed + m) 1099511627775 } }))

/-- The reserve measurement of a round: held to 3000, kept, and judged as R45 says against the two thresholds of the level in
force; where the confirm count does not reach level confirm, the rations are judged and nothing else happens.
LEVEL_CHANGE: one level down or up, the evidence none and the count 0, the ceiling that of the new level, LEVEL raised; a fall
sheds, a rise serves the claim queue, the head of the wake queue is examined, and at a rise the agenda after it (log 33). The round's
ration judgement is a due event of its own, which stays due where the level change is named before it (R145, log 14).
R125: the records are judged in rising index order; where the outage charge has reached the ration and the ration is not yet
spent, it is spent, RATION_SPENT is raised, a lease of the record ends with the reason RATION, and a claim queue entry of it is
removed with DEFER(RATION) and the queue served. -/
def Obligations.ReserveLevel : Prop :=
  (∀ (d : Device) (reading : Nat),
     let v := min reading 3000
     let below : Bool := match d.mode.level with
       | .normal => v < d.settings.lowEnter | .low => v < d.settings.criticalEnter
       | .critical => v < d.settings.exhaustedEnter | .exhausted => false
     let above : Bool := match d.mode.level with
       | .normal => false | .low => d.settings.lowLeave < v
       | .critical => d.settings.criticalLeave < v | .exhausted => d.settings.exhaustedLeave < v
     let seen : Evidence := if below then .down else if above then .up else .none
     let count : Nat := if seen = .none then 0 else if seen = d.mode.evidence then d.mode.confirm + 1 else 1
     let e : Device := { d with reserve := v, mode := { d.mode with evidence := seen, confirm := count } }
     (seen = .none ∨ count < d.settings.levelConfirm → d.scanReserve reading = e.judgeRations)
     ∧ (seen ≠ .none → d.settings.levelConfirm ≤ count →
       d.scanReserve reading = { e with due := d.due ++ [.rations, .levelChange] }))
  ∧ (∀ (s : State) (d : Device), s.dueNow .levelChange d →
       let moved (l : Level) (c : Nat) : Device := { d with
         mode := { d.mode with level := l, evidence := .none, confirm := 0, ceiling := c }
         port := { d.port with device := { d.port.device with level := true } } }
       (d.mode.evidence = .down →
         let e := match d.mode.level with
           | .normal => moved .low d.settings.lowCeiling
           | .low => moved .critical d.settings.criticalCeiling
           | .critical => moved .exhausted 0
           | .exhausted => moved .exhausted 0
         exec .levelChange s = .next ⟨e.shed.examineWake.finish, s.pending⟩)
       ∧ (d.mode.evidence = .up →
         let e := match d.mode.level with
           | .normal => moved .normal d.settings.normalCeiling
           | .low => moved .normal d.settings.normalCeiling
           | .critical => moved .low d.settings.lowCeiling
           | .exhausted => moved .critical d.settings.criticalCeiling
         exec .levelChange s = .next ⟨e.serve.examineWake.examineAgenda.finish, s.pending⟩))
  ∧ (∀ d : Device, d.handle .rations = d.judgeRations ∧ d.judgeRations = (List.range 80).foldl Device.judgeRation d)
  ∧ (∀ (d : Device) (i : Nat),
       (d.rec? i = none → d.judgeRation i = d)
       ∧ ∀ r, d.rec? i = some r →
         (r.ration = 0 ∨ r.rationSpent = true ∨ r.charge < r.ration * 36000 → d.judgeRation i = d)
         ∧ (r.ration ≠ 0 → r.rationSpent = false → r.ration * 36000 ≤ r.charge →
           let e : Device := { d.modRec i (fun r => { r with rationSpent := true }) with
             port := { d.port with records := d.port.records.modify i fun x => { x with rationSpent := true } } }
           let f := if (d.leaseOf i).isSome then e.endLease i .ration else e
           d.judgeRation i = match f.claimOf i with
             | some c => (({ f with lease := { f.lease with claims := f.lease.claims.filter fun x => x.index != i } } : Device).post
                 i c.id (.defer .ration)).serve
             | none => f))

/-! ## Leases and claims -/

/-- LEASE_EXPIRY: a LIVE lease whose countdown has reached 0 ends as EXPIRED.
CLAIM_WAIT_EXPIRY: the entry goes, DEFER(TIMEOUT) is posted, and the queue is served.
R129: the take of an overdraw notice, which comes after the ration judgement and the level change of its round (the model's choice,
log 36: it is judged on the device with every due event handled), clears the flag and its capture; without a LIVE lease or with the capture within the
limit it is discarded; the first strike posts LIMIT with the granted steps; the second quarantines the record as
OVERDRAW. -/
def Obligations.LeaseEvents : Prop :=
  (∀ (s : State) (d : Device) (i : Nat) (y : Lease), s.dueNow (.leaseExpiry i) d → d.leaseOf i = some y → y.phase = .live →
     y.countdown = 0 → exec (.leaseExpiry i) s = .next ⟨(d.endLease i .expired).finish, s.pending⟩)
  ∧ (∀ (s : State) (d : Device) (i : Nat) (c : ClaimEntry), s.dueNow (.claimWait i) d → d.claimOf i = some c → c.wait = 0 →
       exec (.claimWaitExpiry i) s = .next ⟨((({ d with lease := { d.lease with
         claims := d.lease.claims.filter fun x => x.index != i } } : Device).post i c.id (.defer .timeout)).serve).finish, s.pending⟩)
  ∧ (∀ (s : State) (d : Device) (l m : Nat) (x : Line), s.settled d → d.line? l = some x → x.overdraw = some m →
       let e := d.modLine l fun x => { x with overdraw := none }
       ((x.binding = none ∨ (∃ i, x.binding = some i ∧ ∀ y, d.leaseOf i = some y → y.phase = .suspended)) →
         exec (.overdrawNotice l) s = .next ⟨e, s.pending⟩)
       ∧ ∀ i y, x.binding = some i → d.leaseOf i = some y → y.phase = .live →
         (m ≤ (y.steps + d.settings.overdrawMargin) * 25 → exec (.overdrawNotice l) s = .next ⟨e, s.pending⟩)
         ∧ ((y.steps + d.settings.overdrawMargin) * 25 < m →
           (y.strikes = 0 → exec (.overdrawNotice l) s = .next
             ⟨(e.modLease i fun z => { z with strikes := 1 }).post i y.id (.limit y.steps), s.pending⟩)
           ∧ (y.strikes ≠ 0 → exec (.overdrawNotice l) s = .next ⟨e.quarantineD i y.id .secondStrike, s.pending⟩)))

/-- The end of a lease (R124): the entry and its steps gone, a LIVE lease's line OFF, a FED record ATTACHED or a TESTING one without
its lease, the CUT of table 5-5 posted, and then, but where shedding cuts it (R127), the claim queue served. -/
def Obligations.LeaseEnds : Prop :=
  ∀ (d : Device) (y : Lease) (r : Record) (why : LeaseEnd), d.rec? y.index = some r → r.id = y.id →
    let i := y.index
    let e : Device := { d with lease := { d.lease with
      leases := d.lease.leases.filter fun z => z.index != i
      committed := d.lease.committed - y.steps } }
    let f : Device := match y.phase, r.line with
      | .live, some l => e.modLine l fun x => { x with switch := if x.switch = .tripped then .tripped else .off }
      | _, _ => e
    let g : Device := if r.state = .fed then f.modRec i fun r => { r with state := .attached, lease := false } else
      { f.modRec i (fun r => { r with lease := false }) with test := { f.test with
        channels := f.test.channels.map (Option.map fun t => if t.index = i then { t with leaseHeld := false } else t) } }
    let h : Device := match why with
      | .expired => g.post i y.id (.cut .expired)
      | .ration => g.post i y.id (.cut .ration)
      | .shed => g.post i y.id (.cut .shed)
      | .mains => g.post i y.id (.cut .mains)
      | .released => g
      | .lost => g
      | .quarantine => g
      | .retire => g
    d.endLeaseQuiet y why = h ∧ (d.leaseOf i = some y → d.endLease i why = h.serve)

/-- A service of the claim queue (R118): while the headroom covers the steps of the head it is granted, as GrantMakesLease says, and
the new head judged; then the head of the wake queue is examined; and then, where one of those claims was of a record with an agenda
entry that is now FED, the agenda (R156). That this comes after the whole service is the model's choice (log 16). After it the head
does not fit the headroom. R4: LIFELINE is the highest class, DEFERRABLE the lowest.
Shedding (R127) has four steps, then serves the claim queue. A standing permit goes, and its attempt is abandoned (R91): the line
OFF, the slot FREE, a record DORMANT, and the entry made again as returned. That the head is examined only when shedding is complete
(log 15), and that a returned discovery joins whatever discovery entries stand (log 21), are the model's choices. Every lease of a barred class is cut with CUT(SHED) and
every claim of a barred class deferred with DEFER(CLASS_BARRED). While the committed sum is above the ceiling the lease of the
lowest class goes, the newest grant order among equals, then the higher index; a lease is cut as its end has it, but for the
service. With no claim queued, only leases that were there are left, of classes that the level does not bar. -/
def Obligations.ServiceAndShedding : Prop :=
  (∀ d : Device,
     let judged (e : Device) : Device := match e.lease.claims with
       | c :: _ => if c.steps ≤ e.mode.ceiling - e.lease.committed then e.grant c.index c.id c.steps else e
       | [] => e
     let e := (judged^[d.lease.claims.length] d).examineWake
     d.serve = if ∃ c ∈ d.lease.claims, (∃ x ∈ e.test.agenda, x.index = c.index)
         ∧ (e.rec? c.index).map Record.state = some .fed then e.examineAgenda else e)
  ∧ (∀ (d : Device) (c : ClaimEntry), d.serve.lease.claims.head? = some c → d.serve.headroom < c.steps)
  ∧ (∀ d : Device, d.headroom = d.mode.ceiling - d.lease.committed ∧ Machine.Class.rank .lifeline = 0
       ∧ Machine.Class.rank .standard = 1 ∧ Machine.Class.rank .deferrable = 2)
  ∧ (∀ (d : Device) (y : Lease), d.lease.claims = [] → y ∈ d.shed.lease.leases →
       y ∈ d.lease.leases ∧ d.mode.level ≠ .exhausted ∧ (d.mode.level = .critical → y.cls = .lifeline)
         ∧ (d.mode.level = .low → y.cls ≠ .deferrable))
  ∧ (∀ d : Device, d.shed =
       let e := d.shedPermit.shedLeases.shedClaims
       (e.fitLoop e.lease.leases.length).serve)
  ∧ (∀ d : Device, (d.lease.permit = none → d.shedPermit = d)
       ∧ ∀ k a, d.lease.permit = some k → d.wake.attempt = some a → a.permit = true →
         let e : Device := { d with lease := { d.lease with permit := none, committed := d.lease.committed - k } }
         let off (e : Device) (l : Nat) : Device :=
           e.modLine l fun x => { x with switch := if x.switch = .tripped then .tripped else .off }
         let returned (e : Device) : Device :=
           let f := e.freeSlot a.slot
           { f with wake := { f.wake with
             queue := f.wake.queue ++ [⟨a.target, f.wake.arrival, true⟩]
             arrival := min (f.wake.arrival + 1) 0xFFFFFFFF
             attempt := none } }
         (∀ l, a.target = .discovery l → d.shedPermit = returned (off e l))
         ∧ ∀ i t p r, a.target = .record i t p → d.rec? i = some r → r.id = t → r.state = .waking →
           d.shedPermit = returned ((match r.line with
             | some l => off e l
             | none => e).modRec i fun r => { r with
               state := .dormant, reason := none, slot := none, lease := false, idle := 0
               wakeTimer := if r.wakeInterval = 0 then none else some r.wakeInterval }))
  ∧ (∀ d : Device,
       let barred (c : Machine.Class) : Bool := match d.mode.level, c with
         | .normal, _ => false
         | .low, c => c == .deferrable
         | .critical, c => c == .standard || c == .deferrable
         | .exhausted, _ => true
       ((d.lease.leases.map Lease.index).Nodup →
         d.shedLeases.lease.leases = d.lease.leases.filter (fun y => !barred y.cls)
         ∧ ∀ y n, y ∈ d.lease.leases → barred y.cls = true → d.heldSlot y.index y.id = some n →
           d.shedLeases.queued n (.cut .shed))
       ∧ ((d.lease.claims.map ClaimEntry.index).Nodup →
         d.shedClaims.lease.claims = d.lease.claims.filter (fun c => !barred c.cls)
         ∧ ∀ c n, c ∈ d.lease.claims → barred c.cls = true → d.heldSlot c.index c.id = some n →
           d.shedClaims.queued n (.defer .classBarred)))
  ∧ (∀ (d : Device) (k : Nat),
       (d.lease.committed ≤ d.mode.ceiling ∨ d.lease.leases = [] → d.fitLoop k = d)
       ∧ (d.lease.leases ≠ [] → ∃ y, d.nextCut = some y)
       ∧ ∀ y, d.mode.ceiling < d.lease.committed → d.nextCut = some y →
         d.fitLoop (k + 1) = (d.endLeaseQuiet y .shed).fitLoop k
         ∧ y ∈ d.lease.leases ∧ ∀ z ∈ d.lease.leases, z.cls.rank < y.cls.rank ∨ (z.cls.rank = y.cls.rank
           ∧ (z.order < y.order ∨ (z.order = y.order ∧ z.index ≤ y.index))))
  ∧ (∀ (d : Device) (y : Lease) (why : LeaseEnd), d.leaseOf y.index = some y →
       d.endLease y.index why = (d.endLeaseQuiet y why).serve)

/-- CLAIM sets the idle frames to 0 and goes to the claim intake with its steps (R71, R108), which discards a claim that names no
record of the index and ID, or one out of ATTACHED, FED and TESTING.
CLAIM from an ATTACHED record with no entry: the first check of R109 that fails gives the DEFER, and nothing else changes but
the idle frames.
CLAIM from an ATTACHED record with no entry and no agenda entry, which passes every check (R110): granted where no entry ranks ahead
of it, by higher class, or in one class by its suspect flag or for want of this record's, and the headroom covers it.
Else (R111, R117) an entry is made with the next claim arrival order and a wait of claim wait, in its place: by class, suspect
entries first in a class, then by arrival, then by index; QUEUED is posted and the queue served. Where no entry stood and nothing
waits for a wake, that is all.
CLAIM from an ATTACHED record that has an entry (R113): where a check fails the entry goes with the DEFER; else its steps are
replaced, its place and wait kept, and QUEUED posted; the queue is served. -/
def Obligations.ClaimDecided : Prop :=
  (∀ (d : Device) (i : Nat) (t : TermId) (steps : Nat),
     (∀ r, d.rec? i = some r → r.id = t → r.state ≠ .attached ∧ r.state ≠ .fed ∧ r.state ≠ .testing) →
     d.takeClaim i t steps = d)
  ∧ (∀ (s : State) (n : Nat) (h : Holder) (r : Record) (w : List Byte) (d : Device), s.newWord n h r w d → upKind w = .claim →
     exec .claim s = .next ⟨(d.modRec h.index fun r => { r with idle := 0 }).takeClaim h.index h.id (byteAt w 2 % 64), s.pending⟩)
  ∧ (∀ (s : State) (n : Nat) (h : Holder) (r : Record) (w : List Byte) (d : Device), s.newWord n h r w d → upKind w = .claim →
     r.state = .attached →
     let steps := byteAt w 2 % 64
     let rank (c : Machine.Class) : Nat := match c with
       | .lifeline => 0 | .standard => 1 | .deferrable => 2
     let barred : Bool := match d.mode.level, r.cls with
       | .normal, _ => false
       | .low, c => c == .deferrable
       | .critical, c => c == .standard || c == .deferrable
       | .exhausted, _ => true
     let answer : Option DeferReason :=
       if d.mode.mode = .mains ∨ d.mode.mode = .outagePending then some .mains
       else if barred then some .classBarred
       else if r.rationSpent then some .ration
       else if steps = 0 ∨ r.cap < steps then some .overCap
       else none
     let e := d.modRec h.index fun r => { r with idle := 0 }
     (∀ why, d.claimOf h.index = none → answer = some why →
       exec .claim s = .next ⟨e.post h.index h.id (.defer why), s.pending⟩)
     ∧ (d.claimOf h.index = none → answer = none → d.inAgenda h.index = false →
       let ahead (x : ClaimEntry) : Prop := rank x.cls < rank r.cls
         ∨ (rank x.cls = rank r.cls ∧ (x.suspect = true ∨ r.suspect = false))
       let behind (x : ClaimEntry) : Prop := rank r.cls < rank x.cls
         ∨ (rank r.cls = rank x.cls ∧ ((r.suspect = true ∧ x.suspect = false)
           ∨ (r.suspect = x.suspect ∧ (d.lease.claimArrival < x.arrival
             ∨ (d.lease.claimArrival = x.arrival ∧ h.index < x.index)))))
       let entry : ClaimEntry := ⟨h.index, h.id, steps, r.cls, r.suspect, d.lease.claimArrival, d.settings.claimWait⟩
       let joined (claims : List ClaimEntry) : Device := ({ e with lease := { e.lease with
         claims := claims
         claimArrival := min (e.lease.claimArrival + 1) 0xFFFFFFFF } } : Device).post h.index h.id .queued
       ((∀ c ∈ d.lease.claims, ¬ ahead c) → steps ≤ d.mode.ceiling - d.lease.committed →
         exec .claim s = .next ⟨e.grant h.index h.id steps, s.pending⟩)
       ∧ ((∃ c ∈ d.lease.claims, ahead c) ∨ d.mode.ceiling - d.lease.committed < steps →
         ∀ xs ys, d.lease.claims = xs ++ ys → (∀ x ∈ xs, ¬ behind x) → (∀ y, ys.head? = some y → behind y) →
           exec .claim s = .next ⟨(joined (xs ++ entry :: ys)).serve, s.pending⟩)
       ∧ (d.lease.claims = [] → d.wake.queue = [] → d.mode.ceiling - d.lease.committed < steps →
         exec .claim s = .next ⟨joined [entry], s.pending⟩))
     ∧ (∀ c, d.claimOf h.index = some c →
       (∀ why, answer = some why → exec .claim s = .next ⟨(({ e with lease := { e.lease with
           claims := e.lease.claims.filter fun x => x.index != h.index } } : Device).post h.index c.id (.defer why)).serve, s.pending⟩)
       ∧ (answer = none → exec .claim s = .next ⟨(({ e with lease := { e.lease with
           claims := e.lease.claims.map fun x => if x.index = h.index then { x with steps := steps } else x } }
           : Device).post h.index h.id .queued).serve, s.pending⟩)))

/-- R112: a grant that the Roster discards makes no lease, and a claim queue entry of the record goes; one that it takes makes the
record FED, the lease with the next grant order, LIVE, with lease length to run and no strike, adds the steps, soft-starts
the line and posts GRANT.
R135, table 6-2: the SOFTSTART order takes a line that is OFF to SOFTSTART with count 2, and changes no other; where TRIP_N of that
line is asserted a trip of it is due at once, ahead of all that is due but the urgent events before it (log 1). -/
def Obligations.GrantMakesLease : Prop :=
  (∀ (d : Device) (l : Nat) (x : Line), d.line? l = some x →
    let urgent : Due → Bool := fun x => match x with
      | .wakeTimer _ => true
      | .testTimer _ => true
      | .trip _ => true
      | _ => false
    (x.switch ≠ .off → d.orderSoftstart l = d)
    ∧ (x.switch = .off → d.orderSoftstart l = { d with
        lines := d.lines.modify l fun x => { x with switch := .softstart 2 }
        due := if x.tripLow = true then d.due.takeWhile urgent ++ .trip l :: d.due.dropWhile urgent else d.due }))
  ∧ (∀ (d : Device) (i : Nat) (t : TermId) (steps : Nat),
    let e : Device := { d with lease := { d.lease with claims := d.lease.claims.filter fun c => c.index != i } }
    ((∀ r, d.rec? i = some r → r.id = t → r.state ≠ .attached) → d.grant i t steps = e)
    ∧ ∀ r, d.rec? i = some r → r.id = t → r.state = .attached →
      let f : Device := { e.modRec i (fun r => { r with state := .fed, lease := true, idle := 0 }) with lease := { e.lease with
        leases := e.lease.leases ++ [⟨i, t, steps, r.cls, e.lease.grantOrder, .live, d.settings.leaseLength, 0⟩]
        grantOrder := min (e.lease.grantOrder + 1) 0xFFFFFFFF
        committed := e.lease.committed + steps } }
      d.grant i t steps = (match r.line with
        | some l => f.orderSoftstart l
        | none => f).post i t (.grant steps))

/-- CLAIM from a FED record (R114): the lease is reloaded; 0 steps or more than the cap are deferred, fewer or the same granted, more
granted where the headroom covers the difference and no entry of a higher class waits, else deferred. -/
def Obligations.ClaimResizes : Prop :=
  ∀ (s : State) (n : Nat) (h : Holder) (r : Record) (w : List Byte) (d : Device) (y : Lease), s.newWord n h r w d →
    upKind w = .claim → r.state = .fed → d.leaseOf h.index = some y →
    let steps := byteAt w 2 % 64
    let e := (d.modRec h.index fun r => { r with idle := 0 }).modLease h.index fun l => { l with countdown := d.settings.leaseLength }
    let sized := e.modLease h.index fun l => { l with steps := steps }
    (steps = 0 ∨ r.cap < steps → exec .claim s = .next ⟨e.post h.index h.id (.defer .overCap), s.pending⟩)
    ∧ (1 ≤ steps → steps ≤ r.cap →
      (steps < y.steps → exec .claim s = .next ⟨(({ sized with lease := { sized.lease with
          committed := sized.lease.committed - (y.steps - steps) } } : Device).post h.index h.id (.grant steps)).serve, s.pending⟩)
      ∧ (steps = y.steps → exec .claim s = .next ⟨e.post h.index h.id (.grant steps), s.pending⟩)
      ∧ (y.steps < steps → steps - y.steps ≤ d.mode.ceiling - d.lease.committed →
        (∀ c ∈ d.lease.claims, y.cls.rank ≤ c.cls.rank) → exec .claim s = .next ⟨({ sized with lease := { sized.lease with
          committed := sized.lease.committed + (steps - y.steps) } } : Device).post h.index h.id (.grant steps), s.pending⟩)
      ∧ (y.steps < steps → (d.mode.ceiling - d.lease.committed < steps - y.steps ∨ ∃ c ∈ d.lease.claims, c.cls.rank < y.cls.rank) →
        exec .claim s = .next ⟨e.post h.index h.id (.defer .noHeadroom), s.pending⟩))

/-- R115: a CLAIM from a TESTING record draws DEFER(TESTING); a LIVE lease is reloaded, a SUSPENDED one left as it is; no entry is
made and no steps change. -/
def Obligations.ClaimFromTesting : Prop :=
  ∀ (s : State) (n : Nat) (h : Holder) (r : Record) (w : List Byte) (d : Device), s.newWord n h r w d → upKind w = .claim →
    r.state = .testing →
    let e := d.modRec h.index fun r => { r with idle := 0 }
    exec .claim s = .next ⟨(if (d.leaseOf h.index).map Lease.phase = some .live then
        e.modLease h.index fun l => { l with countdown := d.settings.leaseLength } else e).post h.index h.id (.defer .testing),
      s.pending⟩

/-! ## Tests -/

/-- TEST_WINDOW_END: the outcome by table 7-3 from the drop of the first to the last voltage, or NO_REPORT without any.
TEST_BEGIN_TIMEOUT: the test ends as NO_REPORT. -/
def Obligations.TestCountdowns : Prop :=
  (∀ (s : State) (d : Device) (c : Nat) (x : Test), s.dueNow (.testWindow c) d → d.test? c = some x → x.phase = .running →
     x.countdown = 0 →
     (x.startV = none → exec (.testWindowEnd c) s = .next ⟨(d.endTest c x (.aborted .noReport) 0 false).finish, s.pending⟩)
     ∧ ∀ a b, x.startV = some a → x.lastV = some b →
       let v : Verdict := if a - b ≤ d.settings.passDrop then .pass else if a - b ≤ d.settings.weakDrop then .weak else .fail
       exec (.testWindowEnd c) s = .next ⟨(d.endTest c x (.verdict v) (a - b) false).finish, s.pending⟩)
  ∧ (∀ (s : State) (d : Device) (c : Nat) (x : Test), s.dueNow (.testBegin c) d → d.test? c = some x → x.phase = .beginning →
       x.countdown = 0 → exec (.testBeginTimeout c) s = .next ⟨(d.endTest c x (.aborted .noReport) 0 false).finish, s.pending⟩)

/-- A delivered TEST_BEGIN (R160, R130): the test RUNNING with the window it carried, a LIVE lease SUSPENDED with its countdown,
steps, strikes and order kept, its line OFF.
The end of a test (R164, R165): a SUSPENDED lease LIVE again, reloaded, its line soft-started by the order
that GrantMakesLease gives, and the record FED; without a lease ATTACHED; the results stored, VERDICT raised for a verdict, TEST_END
posted; then, for a record without a lease whose end or whose battery report shows cutoff-near, an automatic claim at the claim
intake (R166), whose steps are its demand, or its class's where it has none, lowered to the claim cap (R116); then the channel FREE and the agenda examined (R156). -/
def Obligations.TestBeginsAndEnds : Prop :=
  (∀ (d : Device) (i c w : Nat) (x : Test) (r : Record), d.channelOf i = some c → d.test? c = some x → d.rec? i = some r →
     let running : Device := { d with test := { d.test with channels := d.test.channels.map (Option.map fun t =>
       if t.index = i then { t with phase := .running, countdown := w } else t) } }
     (x.phase = .running → d.testBegun i w = d)
     ∧ (x.phase = .beginning → (∀ y, d.leaseOf i = some y → y.phase = .suspended) → d.testBegun i w = running)
     ∧ ∀ y, x.phase = .beginning → d.leaseOf i = some y → y.phase = .live →
       let e := running.modLease i fun z => { z with phase := .suspended }
       d.testBegun i w = match r.line with
         | some l => e.modLine l fun x => { x with switch := if x.switch = .tripped then .tripped else .off }
         | none => e)
  ∧ (∀ (d : Device) (c : Nat) (x : Test) (o : TestOutcome) (drop : Nat) (near : Bool) (r : Record), d.rec? x.index = some r → r.id = x.id →
       r.state = .testing →
       let i := x.index
       let demand : Nat := match r.capabilities, r.cls with
         | some k, _ => k.demand
         | none, .lifeline => 12
         | none, .standard => 10
         | none, .deferrable => 8
       let e : Device := match d.leaseOf i, r.line with
         | some y, some l => if y.phase = .suspended then (d.modLease i fun z => { z with
             phase := .live, countdown := d.settings.leaseLength }).orderSoftstart l else d
         | some y, none => if y.phase = .suspended then d.modLease i fun z => { z with
             phase := .live, countdown := d.settings.leaseLength } else d
         | none, _ => d
       let f := e.modRec i fun r => { r with
         state := if (d.leaseOf i).isSome then .fed else .attached
         lease := (d.leaseOf i).isSome
         idle := if (d.leaseOf i).isSome then 0 else r.idle
         lastOutcome := some o
         verdict := match o with
           | .verdict v => some (v, drop)
           | .aborted _ => r.verdict
         suspect := match o with
           | .verdict .fail => true
           | .verdict .pass => false
           | _ => r.suspect
         tests := match o with
           | .verdict _ => min (r.tests + 1) 255
           | .aborted _ => r.tests }
       let g : Device := match o with
         | .verdict _ => { f with port := { f.port with records := f.port.records.modify i fun y => { y with verdict := true } } }
         | .aborted _ => f
       let k := g.post i x.id (.testEnd o)
       d.endTest c x o drop near = ((if d.leaseOf i = none ∧ (near = true ∨ r.report.any BatteryReport.cutoffNear = true) then
         k.takeClaim i x.id (min demand r.cap) else k).putChannel c none).examineAgenda)
  ∧ (∀ r : Record, Device.autoSteps r = min (match r.capabilities, r.cls with
       | some k, _ => k.demand
       | none, .lifeline => 12
       | none, .standard => 10
       | none, .deferrable => 8) r.cap)

/-! ## The host port -/

/-- FETCH: after the status byte the response where READY, else bytes of no meaning (log 8); a response shifted out whole frees the
buffer; the overlap mark is cleared by any whole byte.
UNKNOWN_TRANSACTION: no whole byte changes nothing; a type byte that names neither transaction shifts out the status byte alone
and clears the overlap mark. -/
def Obligations.PortTransactions : Prop :=
  (∀ (s : State) (d : Device) (n : Nat), s.settled d →
     let out (rest : List (Option Byte)) (free : Nat) : Device := { d with
       port := { d.port with sdo := some d.statusByte :: rest, overlap := false }
       freeCount := d.freeCount + free }
     (n = 0 → exec (.fetch n) s = .next ⟨d, s.pending⟩)
     ∧ (1 ≤ n → (d.port.status ≠ .ready ∨ d.port.response = none) →
       exec (.fetch n) s = .next ⟨out (d.idleBytes (n - 1)) (n - 1), s.pending⟩)
     ∧ ∀ r, 1 ≤ n → d.port.status = .ready → d.port.response = some r →
       let bytes := [r.code, BitVec.ofNat 8 r.fields.length] ++ r.fields ++ [r.check]
       (n - 1 < bytes.length → exec (.fetch n) s = .next ⟨out ((bytes.take (n - 1)).map some) 0, s.pending⟩)
       ∧ (bytes.length ≤ n - 1 →
         let e := out (bytes.map some ++ d.idleBytes (n - 1 - bytes.length)) (n - 1 - bytes.length)
         exec (.fetch n) s = .next ⟨{ e with port := { e.port with status := .idle, response := none } }, s.pending⟩))
  ∧ (∀ (s : State) (d : Device) (bytes : List Byte), s.settled d →
       (bytes = [] → exec (.unknownTransaction bytes) s = .next ⟨d, s.pending⟩)
       ∧ ∀ b rest, bytes = b :: rest → b ≠ 0xA1 → b ≠ 0xB2 → exec (.unknownTransaction bytes) s = .next
         ⟨{ d with port := { d.port with sdo := [some d.statusByte], overlap := false } }, s.pending⟩)

/-- R175: a REQUEST, of whatever code or form, that ends while the port is not IDLE is discarded whole, and sets the overlap
mark. -/
def Obligations.BusyPortDiscards : Prop :=
  ∀ (s : State) (d : Device) (c : Instr) (n : Nat), s.settled d → d.port.status ≠ .idle →
    (match c with
      | .identify p | .configure p | .readConfig p | .enrol p | .amend p | .retire p | .purge p | .reinstate p | .lookup p
      | .scanNext p | .wake p | .test p | .discover p | .reserveStatus p | .attentionRead p | .attentionClear p
      | .strangersRead p | .reset p | .unknownRequest _ p => some (3 + p.length)
      | .requestBadFrame bytes => some bytes.length
      | _ => none) = some n →
    exec c s = .next ⟨{ d with
      port := { d.port with sdo := some d.statusByte :: d.idleBytes n, overlap := true }
      freeCount := d.freeCount + n }, s.pending⟩

/-- BAD_FRAME: a REQUEST that is short, declares more than 32 parameters, or does not sum to 0 draws it and changes nothing, of
whatever code.
UNKNOWN_REQUEST: a code that names no request draws UNKNOWN_REQUEST and changes nothing.
Parameters outside a request's layout or ranges draw BAD_VALUE and change nothing (R176): any to a request that takes none, a
key that names no index or ID where one is asked for, and a length, number or value out of its choices. That a line value of AMEND
that is neither a line nor none is judged so, ahead of the key's NOT_FOUND, is the model's choice (log 18).
Table 10-6: the code of each result. R192: which bytes a key and the entries are; each field's values by its number, in the order of
R18 and the ranges of table 1-1; and the value that an entry list gives to a number. R2: the IDs a terminal may have. -/
def Obligations.RefusedRequests : Prop :=
  (∀ r : Result, r.code = match r with
     | .ok => 0x00 | .end_ => 0x01 | .badFrame => 0x80 | .unknownRequest => 0x81 | .badValue => 0x82 | .notFound => 0x83
     | .duplicateId => 0x84 | .lineTaken => 0x85 | .rosterFull => 0x86 | .wrongState => 0x87 | .wrongMode => 0x88
     | .locked => 0x89 | .already => 0x8A | .queueFull => 0x8B)
  ∧ ((∀ bs : List Byte, bs.length ≠ 5 → parseKey bs = none)
     ∧ ∀ a b c e f : Byte,
       let v := 16777216 * b.toNat + 65536 * c.toNat + 256 * e.toNat + f.toNat
       parseKey [a, b, c, e, f] = if a = 1 ∧ v < 80 then some (.index v)
         else if a = 2 ∧ v ≠ 0 ∧ v ≠ 0xFFFFFFFF then some (.id (BitVec.ofNat 32 v))
         else if a = 3 ∧ v < 64 then some (.line v) else none)
  ∧ (parseEntries [] = some [] ∧ (∀ bs : List Byte, bs.length % 3 ≠ 0 → parseEntries bs = none)
     ∧ ∀ (a b c : Byte) (rest : List Byte), parseEntries (a :: b :: c :: rest) =
       (parseEntries rest).map fun es => (a.toNat, 256 * b.toNat + c.toNat) :: es)
  ∧ (∀ es : List (Nat × Nat), (fieldNumbersOk es = true ↔ (es.map Prod.fst).Nodup ∧ ∀ e ∈ es, 1 ≤ e.1 ∧ e.1 ≤ 8)
     ∧ (∀ n, entryValue [] n = none) ∧ ∀ m v n, entryValue ((m, v) :: es) n = if m = n then some v else entryValue es n)
  ∧ (∀ n v : Nat, (fieldValueOk (n, v) = true ↔ match n with
       | 1 => 1 ≤ v ∧ v ≤ 3 | 2 => v < 64 ∨ v = 65535 | 3 => 1 ≤ v ∧ v ≤ 3 | 4 => v ≤ 1440 | 5 => v ≤ 1 | 6 => v ≤ 10080
       | 7 => 1 ≤ v ∧ v ≤ 40 | 8 => v ≤ 65535 | _ => False)
     ∧ (lineValueOk v = true ↔ v < 64 ∨ v = 65535) ∧ lineValue v = (if v < 64 then some v else none)
     ∧ Machine.Class.ofCode v = (match v with
       | 1 => some .lifeline | 2 => some .standard | 3 => some .deferrable | _ => none)
     ∧ WakeMethod.ofCode v = (match v with
       | 1 => some .auto | 2 => some .pulse | 3 => some .mark | _ => none)
     ∧ yesNo v = match v with
       | 0 => some false | 1 => some true | _ => none)
  ∧ (∀ t : TermId, validId t = true ↔ t ≠ 0 ∧ t ≠ 0xFFFFFFFF)
  ∧ (∀ (s : State) (d : Device), s.settled d → d.port.status = .idle →
     let refused (n : Nat) : Device := ({ d with
       port := { d.port with overlap := false, sdo := some d.statusByte :: d.idleBytes n }
       freeCount := d.freeCount + n } : Device).answers .badFrame []
     (∀ bytes : List Byte, bytes.length < 3 + byteAt bytes 1 ∨ 32 < byteAt bytes 1
         ∨ byteSum (0xA1 :: bytes.take (3 + byteAt bytes 1)) ≠ 0 →
       exec (.requestBadFrame bytes) s = .next ⟨refused bytes.length, s.pending⟩)
     ∧ ∀ (c : Instr) (p : List Byte), (match c with
         | .identify q | .configure q | .readConfig q | .enrol q | .amend q | .retire q | .purge q | .reinstate q | .lookup q
         | .scanNext q | .wake q | .test q | .discover q | .reserveStatus q | .attentionRead q | .attentionClear q
         | .strangersRead q | .reset q | .unknownRequest _ q => some q
         | _ => none) = some p → 32 < p.length →
       exec c s = .next ⟨refused (3 + p.length), s.pending⟩)
  ∧ (∀ (s : State) (d : Device) (code : Byte) (p : List Byte), s.takes p d →
       code ∉ ([0x01, 0x02, 0x03, 0x10, 0x11, 0x12, 0x13, 0x14, 0x15, 0x16, 0x20, 0x21, 0x22, 0x30, 0x31, 0x32, 0x33, 0x3F]
         : List Byte) →
       exec (.unknownRequest code p) s = .next ⟨(d.working code p).answers .unknownRequest [], s.pending⟩)
  ∧ (∀ (s : State) (d : Device) (p : List Byte), s.takes p d →
       let bad (c : Instr) (code : Byte) : Prop := exec c s = .next ⟨(d.working code p).answers .badValue [], s.pending⟩
       let noKey (bs : List Byte) : Prop := parseKey bs = none ∨ ∃ l, parseKey bs = some (.line l)
       (p ≠ [] → bad (.identify p) 0x01 ∧ bad (.purge p) 0x13 ∧ bad (.reserveStatus p) 0x30 ∧ bad (.strangersRead p) 0x33)
       ∧ (noKey p → bad (.retire p) 0x12 ∧ bad (.reinstate p) 0x14 ∧ bad (.wake p) 0x20 ∧ bad (.test p) 0x21)
       ∧ (p.length ≠ 6 ∨ byteAt p 5 = 0 ∨ 3 < byteAt p 5 ∨ parseKey (p.take 5) = none → bad (.lookup p) 0x15)
       ∧ (p.length ≠ 2 ∨ 79 < byteAt p 0 ∨ byteAt p 1 = 0 ∨ 127 < byteAt p 1 → bad (.scanNext p) 0x16)
       ∧ (p.length ≠ 1 ∨ 63 < byteAt p 0 → bad (.discover p) 0x22)
       ∧ (1 < p.length → bad (.attentionRead p) 0x31)
       ∧ (p.length ≠ 3 → bad (.attentionClear p) 0x32)
       ∧ (p.length < 5 ∨ Machine.Class.ofCode (byteAt p 4) = none ∨ validId (BitVec.ofNat 32 (natBE (p.take 4))) = false
           ∨ (∀ es, parseEntries (p.drop 5) = some es → fieldNumbersOk es = false ∨ (entryValue es 1).isSome = true
             ∨ es.all fieldValueOk = false) → bad (.enrol p) 0x10)
       ∧ (p.length < 5 ∨ noKey (p.take 5) ∨ (∀ es, parseEntries (p.drop 5) = some es → fieldNumbersOk es = false
             ∨ ∃ v, entryValue es 2 = some v ∧ lineValueOk v = false) → bad (.amend p) 0x11)
       ∧ (∀ k i r es, 5 ≤ p.length → parseKey (p.take 5) = some k → d.keyed k = some (i, r) → parseEntries (p.drop 5) = some es →
           es = [] ∨ es.all fieldValueOk = false → bad (.amend p) 0x11))

/-- R177: IDENTIFY answers vendor A5h, part 6420h, revision 01h and the capacities 80, 64, 16 and 4, and changes nothing. -/
def Obligations.IdentifyAnswer : Prop :=
  ∀ (s : State) (d : Device), s.takes [] d → exec (.identify []) s =
    .next ⟨(d.working 0x01 []).answers .ok [0xA5, 0x64, 0x20, 0x01, 80, 64, 16, 4], s.pending⟩

/-- R185: READ_CONFIG answers each named setting with its value in force, in the order named; a count outside 1 to 16 or a name
that matches no setting draws BAD_VALUE. The settings are named by their rows in table 8-4, 1 to 27 (R192). -/
def Obligations.ReadConfigAnswer : Prop :=
  (∀ s : Settings, (∀ n, 27 < n → s.get n = none) ∧ (List.range 28).map s.get =
     [none, some s.normalCeiling, some s.lowCeiling, some s.criticalCeiling, some s.lowEnter, some s.lowLeave, some s.criticalEnter,
      some s.criticalLeave, some s.exhaustedEnter, some s.exhaustedLeave, some s.levelConfirm, some s.outageConfirm,
      some s.returnConfirm, some s.leaseLength, some s.claimWait, some s.pulseAllowance, some s.overdrawMargin,
      some s.silenceLimit, some s.repeatLimit, some s.idleLimit, some s.lostLimit, some s.attachWindow, some s.wakeAttempts,
      some s.pulseLength, some s.testWindow, some s.testFloor, some s.passDrop, some s.weakDrop])
  ∧ ∀ (s : State) (d : Device) (p : List Byte), s.takes p d →
    let ok := 1 ≤ p.length ∧ p.length ≤ 16 ∧ ∀ b ∈ p, 1 ≤ b.toNat ∧ b.toNat ≤ 27
    (¬ ok → exec (.readConfig p) s = .next ⟨(d.working 0x03 p).answers .badValue [], s.pending⟩)
    ∧ (ok → exec (.readConfig p) s = .next
      ⟨(d.working 0x03 p).answers .ok (p.flatMap fun b => b :: bytesBE 2 ((d.settings.get b.toNat).getD 0)), s.pending⟩)

/-- LOOKUP and SCAN_NEXT change nothing: a view part of the record that the key names, or NOT_FOUND; by line the view of the bound
record, or none, with the line's switch, current and discovery result; the lowest index at or above the start with a record
in the filter, or END.
RESERVE_STATUS, ATTENTION_READ and STRANGERS_READ answer with their fields and change nothing; a start index above 79 draws
BAD_VALUE.
Table 10-7: the codes of a switch state, a discovery result and, for the state filter, a record state.
Tables 10-8 to 10-10: the three parts of a record view, byte by byte, with the codes of table 10-7; an absent number is all ones, an
absent enumeration 00h, and the view of a position without a record the byte FFh.
Tables 10-12, 10-13: the fields of RESERVE_STATUS, and those of ATTENTION_READ, with up to eight indexes at or above the start that
have a reason, and the more mark where there are more. -/
def Obligations.ReadingRequests : Prop :=
  (∀ (s : State) (d : Device) (p : List Byte), s.takes p d →
     (p.length = 6 → 1 ≤ byteAt p 5 → byteAt p 5 ≤ 3 →
       let w := d.working 0x15 p
       (∀ k i r, parseKey (p.take 5) = some k → d.keyed k = some (i, r) →
         exec (.lookup p) s = .next ⟨w.answers .ok (w.viewPart i (byteAt p 5)), s.pending⟩)
       ∧ (∀ k, parseKey (p.take 5) = some k → (∀ l, k ≠ .line l) → d.keyed k = none →
         exec (.lookup p) s = .next ⟨w.answers .notFound [], s.pending⟩)
       ∧ ∀ l x, parseKey (p.take 5) = some (.line l) → d.line? l = some x →
         let switch : Byte := match x.switch with
           | .off => 1 | .pulse _ _ => 2 | .softstart _ => 3 | .on => 4 | .tripped => 5
         let found : Byte := match x.discovery with
           | none => 0 | some .bound => 1 | some .conflict => 2 | some .stranger => 3 | some .empty => 4 | some .short => 5
         exec (.lookup p) s = .next ⟨w.answers .ok ((match x.binding with
           | some i => w.viewPart i (byteAt p 5)
           | none => [0xFF]) ++ [switch] ++ bytesBE 2 x.current ++ [found]), s.pending⟩)
     ∧ ∀ start filter : Byte, p = [start, filter] → start.toNat ≤ 79 → filter ≠ 0 → filter.toNat < 128 →
       let hit := fun i => ∃ r, d.rec? i = some r ∧ filter.getLsbD (match r.state with
         | .pending => 0 | .dormant => 1 | .waking => 2 | .attached => 3 | .fed => 4 | .testing => 5 | .quarantined => 6) = true
       ((∀ i, start.toNat ≤ i → i < 80 → ¬ hit i) →
         exec (.scanNext p) s = .next ⟨(d.working 0x16 p).answers .end_ [], s.pending⟩)
       ∧ ∀ i, start.toNat ≤ i → i < 80 → hit i → (∀ j, start.toNat ≤ j → j < i → ¬ hit j) →
         exec (.scanNext p) s = .next ⟨(d.working 0x16 p).answers .ok [BitVec.ofNat 8 i], s.pending⟩)
  ∧ (∀ (s : State) (d : Device), s.takes [] d →
       exec (.reserveStatus []) s = .next ⟨(d.working 0x30 []).answers .ok (d.working 0x30 []).reserveFields, s.pending⟩
       ∧ exec (.strangersRead []) s = .next ⟨(d.working 0x33 []).answers .ok
           ([BitVec.ofNat 8 d.wake.strangers.length, if d.wake.overflow then 1 else 0] ++ d.wake.strangers.flatMap fun x =>
             bytesBE 4 x.id.toNat ++ [match x.line with
               | some l => BitVec.ofNat 8 l
               | none => 0xFF] ++ bytesBE 2 x.frame.toNat), s.pending⟩
       ∧ exec (.attentionRead []) s = .next ⟨(d.working 0x31 []).answers .ok ((d.working 0x31 []).attentionFields 0), s.pending⟩
       ∧ ∀ b : Byte, exec (.attentionRead [b]) s = .next ⟨if b.toNat ≤ 79 then
           (d.working 0x31 [b]).answers .ok ((d.working 0x31 [b]).attentionFields b.toNat)
         else (d.working 0x31 [b]).answers .badValue [], s.pending⟩)
  ∧ (∀ (d : Device) (i : Nat),
       let num (w : Nat) (o : Option Nat) : List Byte := match o with
         | some v => bytesBE w v
         | none => List.replicate w 0xFF
       let yes (b : Bool) : Byte := if b then 1 else 0
       let outcome (o : Option TestOutcome) : Byte := match o with
         | some (.verdict .pass) => 1 | some (.verdict .weak) => 2 | some (.verdict .fail) => 3
         | some (.aborted .lost) => 4 | some (.aborted .mains) => 5 | some (.aborted .noReport) => 6
         | some (.aborted .lowStart) => 7 | none => 0
       (d.rec? i = none → ∀ k, d.viewPart i k = [0xFF])
       ∧ ∀ r, d.rec? i = some r →
         let own : List Byte := BitVec.ofNat 8 i :: bytesBE 4 r.id.toNat
         let cls : Byte := match r.cls with
           | .lifeline => 1 | .standard => 2 | .deferrable => 3
         let state : Byte := match r.state with
           | .pending => 1 | .dormant => 2 | .waking => 3 | .attached => 4 | .fed => 5 | .testing => 6 | .quarantined => 7
         let reason : Byte := match r.reason with
           | some .noWake => 1 | some .short => 2 | some .overdraw => 3 | some .unstable => 4 | none => 0
         let method : Byte := match r.method with
           | .auto => 1 | .pulse => 2 | .mark => 3
         let a := d.reasonsOf i
         let attention : Byte := BitVec.ofNat 8 (a.quarantined.toNat + 2 * a.verdict.toNat + 4 * a.lost.toNat
           + 8 * a.rationSpent.toNat + 16 * a.bound.toNat + 32 * a.unplaced.toNat)
         let charge : Byte := match r.report.map BatteryReport.charge with
           | some (some v) => BitVec.ofNat 8 v
           | some none => 0xFE
           | none => 0xFF
         let hold : Byte := match (r.slot.bind d.slot?).map Slot.use with
           | some (.reserved _) => 1
           | some (.held _) => 2
           | _ => 0
         let phase : Byte := match (d.leaseOf i).map Lease.phase with
           | some .live => 1
           | some .suspended => 2
           | none => 0
         let purpose : Byte := match (d.wakeEntryOf i).map WakeEntry.target with
           | some (.record _ _ .timer) => 1 | some (.record _ _ .host) => 2 | some (.record _ _ .outage) => 3
           | some (.record _ _ .test) => 4 | some (.record _ _ .rewake) => 5 | _ => 0
         let attempt : Option Attempt := match d.wake.attempt with
           | some x => match x.target with
             | .record j _ _ => if j = i then some x else none
             | .discovery _ => none
           | none => none
         let called : Byte := match attempt.map Attempt.method with
           | some .pulse => 2
           | some .mark => 3
           | none => 0
         let kind : Byte := match (d.test.agenda.find? fun x => x.index == i).map AgendaEntry.kind with
           | some .host => 1
           | some .timer => 2
           | none => 0
         let test := (d.channelOf i).bind d.test?
         let testPhase : Byte := match test.map Test.phase with
           | some .beginning => 1
           | some .running => 2
           | none => 0
         d.viewPart i 1 = own ++ num 1 r.line ++ [cls, state, reason, method] ++ bytesBE 2 r.wakeInterval ++ num 2 r.wakeTimer
           ++ [yes r.wakeOnOutage] ++ bytesBE 2 r.testInterval ++ num 2 r.testTimer ++ bytesBE 1 r.cap ++ bytesBE 2 r.ration
           ++ bytesBE 5 r.charge ++ [yes r.rationSpent, attention]
         ∧ d.viewPart i 2 = own ++ num 1 (r.capabilities.map Capabilities.demand)
           ++ [yes (r.capabilities.any Capabilities.markWake)] ++ num 2 (r.report.map BatteryReport.voltage) ++ [charge]
           ++ num 2 (r.report.map BatteryReport.load) ++ [yes (r.report.any BatteryReport.cutoffNear),
             outcome (r.verdict.map fun v => .verdict v.1)] ++ num 2 (r.verdict.map Prod.snd)
           ++ [yes r.suspect, outcome r.lastOutcome] ++ bytesBE 1 r.tests ++ bytesBE 1 r.failedWakes ++ bytesBE 1 r.lost
           ++ bytesBE 2 r.idle
         ∧ d.viewPart i 3 = own ++ [state] ++ num 1 r.slot ++ [hold] ++ num 1 ((d.leaseOf i).map Lease.steps) ++ [phase]
           ++ num 2 ((d.leaseOf i).map Lease.countdown) ++ num 1 ((d.leaseOf i).map Lease.strikes)
           ++ num 1 ((d.claimOf i).map ClaimEntry.steps) ++ num 2 ((d.claimOf i).map ClaimEntry.wait) ++ [purpose, called]
           ++ num 1 (attempt.map Attempt.window) ++ [kind] ++ num 1 (d.channelOf i) ++ [testPhase]
           ++ num 2 (test.map Test.countdown) ++ [yes (test.any Test.leaseHeld)] ++ num 2 (test.bind Test.startV)
           ++ num 2 (test.bind Test.lastV))
  ∧ (∀ d : Device,
       let mode : Byte := match d.mode.mode with
         | .mains => 1 | .outagePending => 2 | .outage => 3 | .returnPending => 4
       let level : Byte := match d.mode.level with
         | .normal => 1 | .low => 2 | .critical => 3 | .exhausted => 4
       let permit : Byte := match d.lease.permit with
         | some k => BitVec.ofNat 8 k
         | none => 0xFF
       let has (p : Purpose) : List Byte := bytesBE 1 (d.wake.queue.filter fun e => match e.target with
         | .record _ _ q => q == p
         | .discovery _ => false).length
       let discoveries := d.wake.queue.filter fun e => match e.target with
         | .record _ _ _ => false
         | .discovery _ => true
       let inProgress : Byte := match d.wake.attempt.map Attempt.target with
         | some (.record _ _ _) => 1
         | some (.discovery _) => 2
         | none => 0
       d.reserveFields = [mode, level] ++ bytesBE 2 d.reserve ++ bytesBE 2 d.mode.ceiling ++ bytesBE 2 d.lease.committed
         ++ bytesBE 2 (d.mode.ceiling - d.lease.committed) ++ bytesBE 1 d.lease.leases.length
         ++ bytesBE 1 (d.lease.leases.filter fun y => y.phase == .suspended).length ++ [permit]
         ++ bytesBE 1 d.lease.claims.length ++ has .timer ++ has .host ++ has .outage ++ has .test ++ has .rewake
         ++ bytesBE 1 discoveries.length ++ [inProgress] ++ bytesBE 1 (d.test.channels.filter Option.isSome).length
         ++ bytesBE 1 d.test.agenda.length ++ bytesBE 6 d.mode.tally ++ bytesBE 5 d.roster.unattributed
         ++ bytesBE 2 d.mode.minutes ++ bytesBE 2 d.mode.framesToMinute)
  ∧ (∀ (d : Device) (start : Nat),
       let sum (i : Nat) : Nat := let a := d.reasonsOf i
         a.quarantined.toNat + 2 * a.verdict.toNat + 4 * a.lost.toNat + 8 * a.rationSpent.toNat + 16 * a.bound.toNat
           + 32 * a.unplaced.toNat
       let all := (List.range 80).filter fun i => start ≤ i && sum i != 0
       let v := d.port.device
       let device : Byte := BitVec.ofNat 8
         (v.restarted.isSome.toNat + 2 * v.mode.toNat + 4 * v.level.toNat + 8 * v.stranger.toNat + 16 * v.discovery.toNat)
       let kind : Byte := match v.restarted with
         | some .warm => 1
         | some .cold => 2
         | none => 0
       d.attentionFields start = [device, kind, if 8 < all.length then 1 else 0, BitVec.ofNat 8 (min 8 all.length)]
         ++ (all.take 8).flatMap fun i => [BitVec.ofNat 8 i, BitVec.ofNat 8 (sum i)])

/-- ATTENTION_CLEAR: reasons of the device or of a record removed; clearing STRANGER empties the stranger list and its overflow
mark; a value out of range, an empty set, or a reason of the other kind draws BAD_VALUE, an empty index NOT_FOUND. -/
def Obligations.AttentionClearEffect : Prop :=
  ∀ (s : State) (d : Device) (target dev rec_ : Byte), s.takes [target, dev, rec_] d →
    let w := d.working 0x32 [target, dev, rec_]
    let bad := 31 < dev.toNat ∨ 63 < rec_.toNat ∨ (79 < target.toNat ∧ target ≠ 255) ∨ (dev = 0 ∧ rec_ = 0)
      ∨ (target = 255 ∧ rec_ ≠ 0) ∨ (target ≠ 255 ∧ dev ≠ 0)
    (bad → exec (.attentionClear [target, dev, rec_]) s = .next ⟨w.answers .badValue [], s.pending⟩)
    ∧ (¬ bad → target = 255 →
      let e : Device := { w with port := { w.port with device :=
        { restarted := if dev.getLsbD 0 then none else w.port.device.restarted
          mode := w.port.device.mode && !dev.getLsbD 1, level := w.port.device.level && !dev.getLsbD 2
          stranger := w.port.device.stranger && !dev.getLsbD 3, discovery := w.port.device.discovery && !dev.getLsbD 4 } } }
      exec (.attentionClear [target, dev, rec_]) s = .next
        ⟨(if d.port.device.stranger = true ∧ dev.getLsbD 3 = true then
          { e with wake := { e.wake with strangers := [], overflow := false } } else e).answers .ok [], s.pending⟩)
    ∧ (¬ bad → target ≠ 255 →
      (d.rec? target.toNat = none →
        exec (.attentionClear [target, dev, rec_]) s = .next ⟨w.answers .notFound [], s.pending⟩)
      ∧ ∀ r, d.rec? target.toNat = some r → exec (.attentionClear [target, dev, rec_]) s = .next
        ⟨({ w with port := { w.port with records := w.port.records.modify target.toNat fun x =>
          { quarantined := x.quarantined && !rec_.getLsbD 0, verdict := x.verdict && !rec_.getLsbD 1
            lost := x.lost && !rec_.getLsbD 2, rationSpent := x.rationSpent && !rec_.getLsbD 3
            bound := x.bound && !rec_.getLsbD 4, unplaced := x.unplaced && !rec_.getLsbD 5 } } } : Device).answers .ok [],
          s.pending⟩)

/-- CONFIGURE: entries that name 1 to 10 different settings in range and leave the orders of R47 are all written; the level count
restarts where a threshold or level confirm has changed; a fall of the ceiling in force sheds, a rise serves the claim queue;
any other draws BAD_VALUE.
Table 8-4: the range and the default of each setting, by its row; a setting written is the one that is read by the same number, and
every other keeps its value. -/
def Obligations.ConfigureEffect : Prop :=
  ((List.range 28).map settingRange =
     [(1, 0), (0, 480), (0, 480), (0, 480), (0, 3000), (0, 3000), (0, 3000), (0, 3000), (0, 3000), (0, 3000), (1, 15), (1, 100),
      (50, 3000), (100, 3000), (50, 3000), (1, 12), (1, 8), (10, 100), (4, 15), (100, 6000), (1, 15), (5, 60), (1, 7), (2, 20),
      (600, 18000), (0, 2000), (1, 500), (1, 500)]
     ∧ (List.range 28).map Settings.default.get =
     [none, some 160, some 80, some 32, some 2300, some 2360, some 2220, some 2280, some 2100, some 2200, some 3, some 10, some 300,
      some 600, some 300, some 6, some 2, some 30, some 8, some 600, some 4, some 20, some 3, some 5, some 3000, some 1180, some 30,
      some 60]
     ∧ (∀ n, 27 < n → settingRange n = (1, 0))
     ∧ ∀ (s : Settings) (n v : Nat), 1 ≤ n → n ≤ 27 → (s.put n v).get n = some v ∧ ∀ m, m ≠ n → (s.put n v).get m = s.get m)
  ∧ ∀ (s : State) (d : Device) (p : List Byte), s.takes p d →
    let w := d.working 0x02 p
    (parseEntries p = none → exec (.configure p) s = .next ⟨w.answers .badValue [], s.pending⟩)
    ∧ ∀ es, parseEntries p = some es →
      let new := es.foldl (fun x e => x.put e.1 e.2) d.settings
      let ok := 1 ≤ es.length ∧ es.length ≤ 10 ∧ (es.map Prod.fst).Nodup
        ∧ (∀ e ∈ es, (settingRange e.1).1 ≤ e.2 ∧ e.2 ≤ (settingRange e.1).2)
        ∧ new.exhaustedEnter < new.exhaustedLeave ∧ new.exhaustedLeave ≤ new.criticalEnter ∧ new.criticalEnter < new.criticalLeave
        ∧ new.criticalLeave ≤ new.lowEnter ∧ new.lowEnter < new.lowLeave ∧ new.criticalCeiling ≤ new.lowCeiling
        ∧ new.lowCeiling ≤ new.normalCeiling ∧ new.passDrop < new.weakDrop
      (¬ ok → exec (.configure p) s = .next ⟨w.answers .badValue [], s.pending⟩)
      ∧ (ok →
        let same := new.lowEnter = d.settings.lowEnter ∧ new.lowLeave = d.settings.lowLeave
          ∧ new.criticalEnter = d.settings.criticalEnter ∧ new.criticalLeave = d.settings.criticalLeave
          ∧ new.exhaustedEnter = d.settings.exhaustedEnter ∧ new.exhaustedLeave = d.settings.exhaustedLeave
          ∧ new.levelConfirm = d.settings.levelConfirm
        let ceiling := match d.mode.level with
          | .normal => new.normalCeiling | .low => new.lowCeiling | .critical => new.criticalCeiling | .exhausted => 0
        let e : Device := { w with
          settings := new
          mode := { d.mode with
            evidence := if same then d.mode.evidence else .none
            confirm := if same then d.mode.confirm else 0
            ceiling := ceiling } }
        exec (.configure p) s = .next ⟨(if ceiling < d.mode.ceiling then e.shed.examineWake
          else if d.mode.ceiling < ceiling then e.serve.examineWake else e).answers .ok [], s.pending⟩)

/-- ENROL: DUPLICATE_ID, LINE_TAKEN and ROSTER_FULL in this order; else a record at the lowest empty index with every field as R17
gives it, bound to its line, and its index in the answer.
R3: a line counts as taken while it is bound to a record, while a discovery entry for it stands in the wake queue, and while it is
under discovery. -/
def Obligations.EnrolEffect : Prop :=
  (∀ (d : Device) (l : Nat), d.lineTaken l = true ↔ (∃ x, d.line? l = some x ∧ x.binding.isSome = true)
     ∨ (∃ e ∈ d.wake.queue, e.target = .discovery l) ∨ ∃ a, d.wake.attempt = some a ∧ a.target = .discovery l)
  ∧ ∀ (s : State) (d : Device) (p : List Byte) (t : TermId) (c : Machine.Class) (es : List (Nat × Nat)), s.takes p d → 5 ≤ p.length →
    t = BitVec.ofNat 32 (natBE (p.take 4)) → Machine.Class.ofCode (byteAt p 4) = some c → parseEntries (p.drop 5) = some es →
    fieldNumbersOk es = true → entryValue es 1 = none → es.all fieldValueOk = true → validId t = true →
    let w := d.working 0x10 p
    let line := (entryValue es 2).bind lineValue
    ((d.findId t).isSome = true → exec (.enrol p) s = .next ⟨w.answers .duplicateId [], s.pending⟩)
    ∧ (d.findId t = none →
      (∀ l, line = some l → d.lineTaken l = true → exec (.enrol p) s = .next ⟨w.answers .lineTaken [], s.pending⟩)
      ∧ ((∀ l, line = some l → d.lineTaken l = false) →
        ((∀ o ∈ d.roster.records, o.isSome = true) → exec (.enrol p) s = .next ⟨w.answers .rosterFull [], s.pending⟩)
        ∧ ∀ i, d.roster.records[i]? = some none → (∀ j, j < i → (d.rec? j).isSome = true) →
          let wakeInterval := (entryValue es 4).getD 0
          let testInterval := (entryValue es 6).getD 0
          let r : Record :=
            { id := t, line := line, cls := c, state := if line.isSome then .dormant else .pending, reason := none, slot := none
              lease := false, method := ((entryValue es 3).bind WakeMethod.ofCode).getD .auto
              wakeInterval := wakeInterval, wakeTimer := if wakeInterval = 0 then none else some wakeInterval
              wakeOnOutage := ((entryValue es 5).bind yesNo).getD (match c with
                | .lifeline => true
                | _ => false)
              testInterval := testInterval, testTimer := if testInterval = 0 then none else some testInterval
              cap := (entryValue es 7).getD (match c with
                | .lifeline => 40 | .standard => 24 | .deferrable => 12)
              ration := (entryValue es 8).getD 0, charge := 0, rationSpent := false, capabilities := none, report := none
              verdict := none, suspect := false, lastOutcome := none, tests := 0, failedWakes := 0, lost := 0, idle := 0 }
          let e : Device := { w with roster := { w.roster with records := w.roster.records.set i (some r) } }
          exec (.enrol p) s = .next ⟨(match line with
            | some l => e.modLine l fun x => { x with binding := some i }
            | none => e).answers .ok [BitVec.ofNat 8 i], s.pending⟩))

/-- AMEND by a key that names a record, for every set of named fields (R18 to R21): LOCKED for the class of a record with a
lease or a claim, WRONG_STATE and LINE_TAKEN for the line, LOCKED for the wake method of a WAKING record, judged in this order;
else every named field written. Another line binds the record, unlatches its old one and makes a PENDING record DORMANT; the
line removed unbinds it and makes it PENDING, with no wake queue entry and no agenda entry. A change of head is examined. That a
class or a line named with the value it has counts as named, and so draws LOCKED or WRONG_STATE, is the model's choice (log 18),
and so is the agenda's examination before the head's where the line is removed (log 31). -/
def Obligations.AmendEffect : Prop :=
  ∀ (s : State) (d : Device) (p : List Byte) (k : Key) (i : Nat) (r : Record) (es : List (Nat × Nat)), s.takes p d → 5 ≤ p.length →
    parseKey (p.take 5) = some k → d.keyed k = some (i, r) → parseEntries (p.drop 5) = some es → fieldNumbersOk es = true →
    es ≠ [] → es.all fieldValueOk = true →
    let w := d.working 0x11 p
    let inService := r.state = .waking ∨ r.state = .attached ∨ r.state = .fed ∨ r.state = .testing
    let refusal : Option Result :=
      if (entryValue es 1).isSome = true ∧ ((d.leaseOf i).isSome = true ∨ (d.claimOf i).isSome = true) then some .locked
      else if (entryValue es 2).isSome = true ∧ inService then some .wrongState
      else if ∃ l, entryValue es 2 = some l ∧ l < 64 ∧ r.line ≠ some l ∧ d.lineTaken l = true then some .lineTaken
      else if (entryValue es 3).isSome = true ∧ r.state = .waking then some .locked
      else none
    let examined (e : Device) : Device := if e.wakeHead = w.wakeHead then e else e.examineWake
    let loaded (v : Nat) : Option Nat := if v = 0 then none else some v
    let e := w.modRec i fun r => { r with
      cls := ((entryValue es 1).bind Machine.Class.ofCode).getD r.cls
      method := ((entryValue es 3).bind WakeMethod.ofCode).getD r.method
      wakeInterval := (entryValue es 4).getD r.wakeInterval
      wakeTimer := match entryValue es 4 with
        | some v => loaded v
        | none => r.wakeTimer
      wakeOnOutage := ((entryValue es 5).bind yesNo).getD r.wakeOnOutage
      testInterval := (entryValue es 6).getD r.testInterval
      testTimer := match entryValue es 6 with
        | some v => loaded v
        | none => r.testTimer
      cap := (entryValue es 7).getD r.cap
      ration := (entryValue es 8).getD r.ration
      rationSpent := match entryValue es 8 with
        | some v => r.rationSpent && !(v == 0 || decide (r.charge < v * 36000))
        | none => r.rationSpent }
    let left : Device := match r.line with
      | some m => e.modLine m fun x => { x with binding := none, switch := if x.switch = Switch.tripped then .off else x.switch }
      | none => e
    (∀ why, refusal = some why → exec (.amend p) s = .next ⟨w.answers why [], s.pending⟩)
    ∧ (refusal = none →
      (entryValue es 2 = none ∨ (∃ l, entryValue es 2 = some l ∧ r.line = some l) ∨ (entryValue es 2 = some 65535 ∧ r.line = none) →
        exec (.amend p) s = .next ⟨(examined e).answers .ok [BitVec.ofNat 8 i], s.pending⟩)
      ∧ (∀ l, entryValue es 2 = some l → l < 64 → r.line ≠ some l →
        let f := (left.modRec i fun r => { r with line := some l }).modLine l fun x => { x with binding := some i }
        exec (.amend p) s = .next ⟨(examined (if r.state = .pending then f.modRec i fun r => { r with
            state := .dormant, reason := none, slot := none, lease := false, idle := 0
            wakeTimer := if r.wakeInterval = 0 then none else some r.wakeInterval }
          else f)).answers .ok [BitVec.ofNat 8 i], s.pending⟩)
      ∧ (entryValue es 2 = some 65535 → r.line ≠ none → r.state ≠ .pending →
        let f := left.modRec i fun r => { r with
          state := .pending, reason := none, slot := none, lease := false, idle := 0, line := none }
        let g : Device := { f with
          wake := { f.wake with queue := f.wake.queue.filter fun x => !x.isRecord i }
          test := { f.test with
            agenda := f.test.agenda.filter fun x => x.index != i
            inHand := if f.test.inHand.map Prod.fst = some i then none else f.test.inHand } }
        exec (.amend p) s = .next ⟨(examined (if d.inAgenda i = true then g.examineAgenda else g)).answers .ok
          [BitVec.ofNat 8 i], s.pending⟩))

/-- RETIRE where nothing but an agenda entry of the record waits: the position empty, its lease, its line's binding and its attention
entry gone, the line OFF, its slot RELEASING, its channel FREE, its agenda entry gone, its charge in the unattributed counter, every
other record as it was, and OK.
PURGE: every QUARANTINED record is retired in rising index order, and the answer counts them; where nothing waits, their
positions are empty and every other record is as it was. -/
def Obligations.RetireAndPurge : Prop :=
  (∀ (s : State) (d : Device) (p : List Byte) (k : Key) (i : Nat) (r : Record), s.takes p d → d.ok = true →
     d.lease.claims = [] → d.wake.queue = [] → (∀ y ∈ d.test.agenda, y.index = i) →
     parseKey p = some k → d.keyed k = some (i, r) →
     ∃ e : Device, exec (.retire p) s = .next ⟨e.answers .ok [], s.pending⟩
       ∧ e.rec? i = none ∧ (∀ j, j ≠ i → e.rec? j = d.rec? j) ∧ e.leaseOf i = none ∧ e.reasonsOf i = .empty
       ∧ e.roster.unattributed = min (d.roster.unattributed + r.charge) 1099511627775
       ∧ (∀ l x, r.line = some l → e.line? l = some x → x.binding = none ∧ x.switch = .off)
       ∧ (∀ n, d.heldSlot i r.id = some n → (e.slot? n).map Slot.use = some .releasing)
       ∧ (∀ c, d.channelOf i = some c → e.test? c = none) ∧ e.test.agenda = []
       ∧ e.settings = d.settings ∧ e.mode = d.mode ∧ e.reserve = d.reserve)
  ∧ (∀ (s : State) (d : Device), s.takes [] d →
       let all := (List.range 80).filter fun i => d.inState i .quarantined
       let e := all.foldl Device.retireRecord (d.working 0x13 [])
       exec (.purge []) s = .next ⟨e.answers .ok [BitVec.ofNat 8 all.length], s.pending⟩
         ∧ (d.quiet → ∀ i, i < 80 → (d.inState i .quarantined = true → e.rec? i = none)
           ∧ (d.inState i .quarantined = false → e.rec? i = d.rec? i)))

/-- A key that names no record draws NOT_FOUND from AMEND, with whatever field entries it carries in their layout, from RETIRE and
REINSTATE and, in OUTAGE, from WAKE and TEST, which answer
WRONG_MODE in any other mode; nothing changes.
REINSTATE: a QUARANTINED record DORMANT with its wake timer loaded, failed wakes and lost this outage 0, its line unlatched;
any other state draws WRONG_STATE.
R2: a key of an index names the record at it, and one of a terminal ID the record that holds the ID; a line names one by its binding
only (R25). No two records share an ID; so that the statement holds of every state, it says that the lowest index counts. An entry of
a table is that of a record by its index in the same way: lease, claim, agenda entry, wake queue entry, channel and slot. -/
def Obligations.KeyNotFoundAndReinstate : Prop :=
  (∀ (d : Device) (i : Nat) (r : Record) (t : TermId),
     (∀ j, d.keyed (.index j) = some (i, r) ↔ i = j ∧ d.rec? j = some r)
     ∧ (d.keyed (.id t) = some (i, r) ↔ d.rec? i = some r ∧ r.id = t ∧ ∀ j q, j < i → d.rec? j = some q → q.id ≠ t)
     ∧ (∀ l, d.keyed (.line l) = none)
     ∧ (d.findId t = some i ↔ (∃ q, d.rec? i = some q ∧ q.id = t) ∧ ∀ j q, j < i → d.rec? j = some q → q.id ≠ t)
     ∧ (d.findId t = none ↔ ∀ j q, d.rec? j = some q → q.id ≠ t))
  ∧ (∀ (d : Device) (i : Nat) (t : TermId),
       (∀ y, d.leaseOf i = some y → y ∈ d.lease.leases ∧ y.index = i)
       ∧ (d.leaseOf i = none ↔ ∀ y ∈ d.lease.leases, y.index ≠ i)
       ∧ (∀ c, d.claimOf i = some c → c ∈ d.lease.claims ∧ c.index = i)
       ∧ (d.claimOf i = none ↔ ∀ c ∈ d.lease.claims, c.index ≠ i)
       ∧ (d.inAgenda i = true ↔ ∃ x ∈ d.test.agenda, x.index = i)
       ∧ (∀ e, d.wakeEntryOf i = some e → e ∈ d.wake.queue ∧ ∃ t p, e.target = .record i t p)
       ∧ (d.wakeEntryOf i = none ↔ ∀ e ∈ d.wake.queue, ∀ t p, e.target ≠ .record i t p)
       ∧ (∀ c, d.channelOf i = some c ↔ (∃ x, d.test? c = some x ∧ x.index = i)
           ∧ ∀ b x, b < c → d.test? b = some x → x.index ≠ i)
       ∧ (d.channelOf i = none ↔ ∀ c x, d.test? c = some x → x.index ≠ i)
       ∧ (∀ n, d.heldSlot i t = some n ↔ (∃ x h, d.slot? n = some x ∧ x.use = .held h ∧ h.index = i ∧ h.id = t)
           ∧ ∀ m x h, m < n → d.slot? m = some x → x.use = .held h → ¬(h.index = i ∧ h.id = t))
       ∧ (d.heldSlot i t = none ↔ ∀ n x h, d.slot? n = some x → x.use = .held h → ¬(h.index = i ∧ h.id = t)))
  ∧ (∀ (s : State) (d : Device) (p : List Byte) (k : Key), s.takes p d → parseKey p = some k → (∀ l, k ≠ .line l) →
     (d.keyed k = none →
       exec (.retire p) s = .next ⟨(d.working 0x12 p).answers .notFound [], s.pending⟩
       ∧ exec (.reinstate p) s = .next ⟨(d.working 0x14 p).answers .notFound [], s.pending⟩
       ∧ (d.mode.mode = .outage → exec (.wake p) s = .next ⟨(d.working 0x20 p).answers .notFound [], s.pending⟩
         ∧ exec (.test p) s = .next ⟨(d.working 0x21 p).answers .notFound [], s.pending⟩))
     ∧ (d.mode.mode ≠ .outage → exec (.wake p) s = .next ⟨(d.working 0x20 p).answers .wrongMode [], s.pending⟩
       ∧ exec (.test p) s = .next ⟨(d.working 0x21 p).answers .wrongMode [], s.pending⟩))
  ∧ (∀ (s : State) (d : Device) (p : List Byte) (k : Key) (es : List (Nat × Nat)), s.takes p d → 5 ≤ p.length →
       parseKey (p.take 5) = some k → (∀ l, k ≠ .line l) → d.keyed k = none → parseEntries (p.drop 5) = some es →
       fieldNumbersOk es = true → (∀ v, entryValue es 2 = some v → v < 64 ∨ v = 65535) →
       exec (.amend p) s = .next ⟨(d.working 0x11 p).answers .notFound [], s.pending⟩)
  ∧ (∀ (s : State) (d : Device) (p : List Byte) (k : Key) (i : Nat) (r : Record), s.takes p d → parseKey p = some k →
       d.keyed k = some (i, r) →
       let w := d.working 0x14 p
       (r.state ≠ .quarantined → exec (.reinstate p) s = .next ⟨w.answers .wrongState [], s.pending⟩)
       ∧ (r.state = .quarantined →
         let e := w.modRec i fun r => { r with
           state := .dormant, reason := none, slot := none, lease := false, idle := 0, failedWakes := 0, lost := 0
           wakeTimer := if r.wakeInterval = 0 then none else some r.wakeInterval }
         exec (.reinstate p) s = .next ⟨(match r.line with
           | some l => e.modLine l fun x => { x with switch := if x.switch = Switch.tripped then .off else x.switch }
           | none => e).answers .ok [], s.pending⟩))

/-- WAKE in OUTAGE: WRONG_STATE unless DORMANT, ALREADY with an entry; else an entry with purpose HOST and the next arrival order,
and an examination where the head has changed.
TEST in OUTAGE: WRONG_STATE for a PENDING, QUARANTINED or TESTING record, ALREADY with an entry; else a HOST entry in its place,
and the agenda examined.
The examination of the agenda (R156 to R159): its entries are met in order; an eligible one that finds a channel FREE starts, with
the record TESTING, the lowest FREE channel BEGINNING with test window, the entry gone and TEST_BEGIN posted; then, with a channel
FREE and no wake in hand, the first entry whose record is DORMANT and may be tested is taken in hand, and a TEST entry of the wake
queue asked for.
DISCOVER: LINE_TAKEN for a bound line, ALREADY for one queued or in progress, QUEUE_FULL with four entries standing; else an entry
with the next arrival order, and an examination where the head has changed. -/
def Obligations.HostOrders : Prop :=
  (∀ (s : State) (d : Device) (p : List Byte) (k : Key) (i : Nat) (r : Record), s.takes p d → d.mode.mode = .outage →
     parseKey p = some k → d.keyed k = some (i, r) →
     let w := d.working 0x20 p
     (r.state ≠ .dormant → exec (.wake p) s = .next ⟨w.answers .wrongState [], s.pending⟩)
     ∧ (r.state = .dormant → (d.wakeEntryOf i).isSome = true → exec (.wake p) s = .next ⟨w.answers .already [], s.pending⟩)
     ∧ (r.state = .dormant → d.wakeEntryOf i = none →
       let e : Device := { w with wake := { w.wake with
         queue := w.wake.queue ++ [⟨.record i r.id .host, w.wake.arrival, false⟩]
         arrival := min (w.wake.arrival + 1) 0xFFFFFFFF } }
       exec (.wake p) s = .next ⟨(if e.wakeHead = w.wakeHead then e else e.examineWake).answers .ok [], s.pending⟩))
  ∧ (∀ (s : State) (d : Device) (p : List Byte) (k : Key) (i : Nat) (r : Record), s.takes p d → d.mode.mode = .outage →
       parseKey p = some k → d.keyed k = some (i, r) →
       let w := d.working 0x21 p
       let barred := r.state = .pending ∨ r.state = .quarantined ∨ r.state = .testing
       (barred → exec (.test p) s = .next ⟨w.answers .wrongState [], s.pending⟩)
       ∧ (¬ barred → d.inAgenda i = true → exec (.test p) s = .next ⟨w.answers .already [], s.pending⟩)
       ∧ (¬ barred → d.inAgenda i = false →
         let e : Device := { w with test := { w.test with
           agenda := insertAgenda ⟨i, r.id, .host, w.test.arrival⟩ w.test.agenda
           arrival := min (w.test.arrival + 1) 0xFFFFFFFF } }
         exec (.test p) s = .next ⟨e.examineAgenda.answers .ok [], s.pending⟩))
  ∧ (∀ d : Device,
       let fit (r : Record) : Prop := d.mode.mode = .outage ∧ (∀ b, r.report = some b → d.settings.testFloor ≤ b.voltage)
         ∧ (d.mode.level = .normal ∨ (d.mode.level = .low ∧ r.cls ≠ .lifeline))
       let inHand (i : Nat) : Option (Nat × TermId) :=
         if d.test.inHand.map Prod.fst = some i then none else d.test.inHand
       let wakeable (x : AgendaEntry) : Prop := ∃ r, d.rec? x.index = some r ∧ r.id = x.id ∧ r.state = .dormant ∧ fit r
       (d.test.agenda = [] → d.examineAgenda = d)
       ∧ (d.test.agenda ≠ [] → d.examineAgenda = (d.test.agenda.foldl Device.walkEntry d).testWake)
       ∧ (∀ x : AgendaEntry,
         let starts (r : Record) : Prop := r.id = x.id ∧ fit r
           ∧ (r.state = .fed ∨ (r.state = .attached ∧ d.claimOf x.index = none))
         ((∀ r, d.rec? x.index = some r → ¬ starts r) ∨ (∀ o ∈ d.test.channels, o.isSome = true) → d.walkEntry x = d)
         ∧ ∀ r c, d.rec? x.index = some r → starts r → d.test.channels[c]? = some none →
           (∀ j, j < c → (d.test? j).isSome = true) →
           d.walkEntry x = ({ d.modRec x.index (fun r => { r with state := .testing, idle := 0 }) with
             test := { d.test with
               agenda := d.test.agenda.filter fun y => y.index != x.index
               channels := d.test.channels.set c (some ⟨x.index, x.id, .beginning, d.settings.testWindow, r.state == .fed, none, none⟩)
               inHand := inHand x.index } } : Device).post x.index x.id (.testBegin d.settings.testWindow))
       ∧ ((∀ o ∈ d.test.channels, o.isSome = true) ∨ d.test.inHand.isSome = true ∨ (∀ x ∈ d.test.agenda, ¬ wakeable x) →
         d.testWake = d)
       ∧ (∀ xs x ys, d.test.agenda = xs ++ x :: ys → (∀ y ∈ xs, ¬ wakeable y) → wakeable x →
         (∃ o ∈ d.test.channels, o = none) → d.test.inHand = none →
         let e : Device := { d with test := { d.test with inHand := some (x.index, x.id) } }
         ((d.wakeEntryOf x.index).isSome = true → d.testWake = e)
         ∧ (d.wakeEntryOf x.index = none →
           let f : Device := { e with wake := { e.wake with
             queue := e.wake.queue ++ [⟨.record x.index x.id .test, e.wake.arrival, false⟩]
             arrival := min (e.wake.arrival + 1) 0xFFFFFFFF } }
           d.testWake = if f.wakeHead = d.wakeHead then f else f.examineWake)))
  ∧ (∀ (s : State) (d : Device) (b : Byte) (x : Line), s.takes [b] d → b.toNat ≤ 63 → d.line? b.toNat = some x →
       let w := d.working 0x22 [b]
       let standing := (∃ e ∈ d.wake.queue, e.target = .discovery b.toNat)
         ∨ ∃ a, d.wake.attempt = some a ∧ a.target = .discovery b.toNat
       (x.binding.isSome = true → exec (.discover [b]) s = .next ⟨w.answers .lineTaken [], s.pending⟩)
       ∧ (x.binding = none → standing → exec (.discover [b]) s = .next ⟨w.answers .already [], s.pending⟩)
       ∧ (x.binding = none → ¬ standing → 4 ≤ (d.wake.queue.filter WakeEntry.isDiscovery).length →
         exec (.discover [b]) s = .next ⟨w.answers .queueFull [], s.pending⟩)
       ∧ (x.binding = none → ¬ standing → (d.wake.queue.filter WakeEntry.isDiscovery).length < 4 →
         let e : Device := { w with wake := { w.wake with
           queue := w.wake.queue ++ [⟨.discovery b.toNat, w.wake.arrival, false⟩]
           arrival := min (w.wake.arrival + 1) 0xFFFFFFFF } }
         exec (.discover [b]) s = .next ⟨(if e.wakeHead = w.wakeHead then e else e.examineWake).answers .ok [], s.pending⟩))

/-! ## What every step keeps -/

/-- Every step keeps the sizes, ranges and capacities of the device's state, and the order of the settings. -/
def Obligations.StepKeepsRanges : Prop :=
  ∀ s s' : State, s.dev.ok = true → step s = .next s' → s'.dev.ok = true

/-- Every step keeps the law of the committed sum (R106): it is the steps of every lease and of the permit, and is within the
ceiling in force. -/
def Obligations.StepKeepsCommittedLaw : Prop :=
  ∀ s s' : State, s.dev.committedOk → step s = .next s' → s'.dev.committedOk

end
end

