-- ==== Sys2Proof/Laws/State.lean ====
section
/-! SUPPORT. What each small update of the device leaves as it is: one lemma per field per update, for simp. -/

namespace Sys2Proof.Machine.Device

variable (d : Device)

@[simp] theorem modRec_supply (i : Nat) (f : Record → Record) : (d.modRec i f).supply = d.supply := rfl
@[simp] theorem modRec_mode (i : Nat) (f : Record → Record) : (d.modRec i f).mode = d.mode := rfl
@[simp] theorem modRec_riser (i : Nat) (f : Record → Record) : (d.modRec i f).riser = d.riser := rfl
@[simp] theorem modRec_wake (i : Nat) (f : Record → Record) : (d.modRec i f).wake = d.wake := rfl
@[simp] theorem modRec_lease (i : Nat) (f : Record → Record) : (d.modRec i f).lease = d.lease := rfl
@[simp] theorem modRec_lines (i : Nat) (f : Record → Record) : (d.modRec i f).lines = d.lines := rfl
@[simp] theorem modRec_reserve (i : Nat) (f : Record → Record) : (d.modRec i f).reserve = d.reserve := rfl
@[simp] theorem modRec_scanned (i : Nat) (f : Record → Record) : (d.modRec i f).scanned = d.scanned := rfl
@[simp] theorem modRec_test (i : Nat) (f : Record → Record) : (d.modRec i f).test = d.test := rfl
@[simp] theorem modRec_port (i : Nat) (f : Record → Record) : (d.modRec i f).port = d.port := rfl
@[simp] theorem modRec_settings (i : Nat) (f : Record → Record) : (d.modRec i f).settings = d.settings := rfl
@[simp] theorem modRec_due (i : Nat) (f : Record → Record) : (d.modRec i f).due = d.due := rfl
@[simp] theorem modRec_freeCount (i : Nat) (f : Record → Record) : (d.modRec i f).freeCount = d.freeCount := rfl

@[simp] theorem putRec_supply (i : Nat) (r : Option Record) : (d.putRec i r).supply = d.supply := rfl
@[simp] theorem putRec_mode (i : Nat) (r : Option Record) : (d.putRec i r).mode = d.mode := rfl
@[simp] theorem putRec_riser (i : Nat) (r : Option Record) : (d.putRec i r).riser = d.riser := rfl
@[simp] theorem putRec_wake (i : Nat) (r : Option Record) : (d.putRec i r).wake = d.wake := rfl
@[simp] theorem putRec_lease (i : Nat) (r : Option Record) : (d.putRec i r).lease = d.lease := rfl
@[simp] theorem putRec_lines (i : Nat) (r : Option Record) : (d.putRec i r).lines = d.lines := rfl
@[simp] theorem putRec_reserve (i : Nat) (r : Option Record) : (d.putRec i r).reserve = d.reserve := rfl
@[simp] theorem putRec_scanned (i : Nat) (r : Option Record) : (d.putRec i r).scanned = d.scanned := rfl
@[simp] theorem putRec_test (i : Nat) (r : Option Record) : (d.putRec i r).test = d.test := rfl
@[simp] theorem putRec_port (i : Nat) (r : Option Record) : (d.putRec i r).port = d.port := rfl
@[simp] theorem putRec_settings (i : Nat) (r : Option Record) : (d.putRec i r).settings = d.settings := rfl
@[simp] theorem putRec_due (i : Nat) (r : Option Record) : (d.putRec i r).due = d.due := rfl
@[simp] theorem putRec_freeCount (i : Nat) (r : Option Record) : (d.putRec i r).freeCount = d.freeCount := rfl

@[simp] theorem addUnattributed_supply (n : Nat) : (d.addUnattributed n).supply = d.supply := rfl
@[simp] theorem addUnattributed_mode (n : Nat) : (d.addUnattributed n).mode = d.mode := rfl
@[simp] theorem addUnattributed_riser (n : Nat) : (d.addUnattributed n).riser = d.riser := rfl
@[simp] theorem addUnattributed_wake (n : Nat) : (d.addUnattributed n).wake = d.wake := rfl
@[simp] theorem addUnattributed_lease (n : Nat) : (d.addUnattributed n).lease = d.lease := rfl
@[simp] theorem addUnattributed_lines (n : Nat) : (d.addUnattributed n).lines = d.lines := rfl
@[simp] theorem addUnattributed_reserve (n : Nat) : (d.addUnattributed n).reserve = d.reserve := rfl
@[simp] theorem addUnattributed_scanned (n : Nat) : (d.addUnattributed n).scanned = d.scanned := rfl
@[simp] theorem addUnattributed_test (n : Nat) : (d.addUnattributed n).test = d.test := rfl
@[simp] theorem addUnattributed_port (n : Nat) : (d.addUnattributed n).port = d.port := rfl
@[simp] theorem addUnattributed_settings (n : Nat) : (d.addUnattributed n).settings = d.settings := rfl
@[simp] theorem addUnattributed_due (n : Nat) : (d.addUnattributed n).due = d.due := rfl
@[simp] theorem addUnattributed_freeCount (n : Nat) : (d.addUnattributed n).freeCount = d.freeCount := rfl

@[simp] theorem modLine_supply (l : Nat) (f : Line → Line) : (d.modLine l f).supply = d.supply := rfl
@[simp] theorem modLine_roster (l : Nat) (f : Line → Line) : (d.modLine l f).roster = d.roster := rfl
@[simp] theorem modLine_mode (l : Nat) (f : Line → Line) : (d.modLine l f).mode = d.mode := rfl
@[simp] theorem modLine_riser (l : Nat) (f : Line → Line) : (d.modLine l f).riser = d.riser := rfl
@[simp] theorem modLine_wake (l : Nat) (f : Line → Line) : (d.modLine l f).wake = d.wake := rfl
@[simp] theorem modLine_lease (l : Nat) (f : Line → Line) : (d.modLine l f).lease = d.lease := rfl
@[simp] theorem modLine_reserve (l : Nat) (f : Line → Line) : (d.modLine l f).reserve = d.reserve := rfl
@[simp] theorem modLine_scanned (l : Nat) (f : Line → Line) : (d.modLine l f).scanned = d.scanned := rfl
@[simp] theorem modLine_test (l : Nat) (f : Line → Line) : (d.modLine l f).test = d.test := rfl
@[simp] theorem modLine_port (l : Nat) (f : Line → Line) : (d.modLine l f).port = d.port := rfl
@[simp] theorem modLine_settings (l : Nat) (f : Line → Line) : (d.modLine l f).settings = d.settings := rfl
@[simp] theorem modLine_due (l : Nat) (f : Line → Line) : (d.modLine l f).due = d.due := rfl
@[simp] theorem modLine_freeCount (l : Nat) (f : Line → Line) : (d.modLine l f).freeCount = d.freeCount := rfl

@[simp] theorem orderOff_supply (l : Nat) : (d.orderOff l).supply = d.supply := rfl
@[simp] theorem orderOff_roster (l : Nat) : (d.orderOff l).roster = d.roster := rfl
@[simp] theorem orderOff_mode (l : Nat) : (d.orderOff l).mode = d.mode := rfl
@[simp] theorem orderOff_riser (l : Nat) : (d.orderOff l).riser = d.riser := rfl
@[simp] theorem orderOff_wake (l : Nat) : (d.orderOff l).wake = d.wake := rfl
@[simp] theorem orderOff_lease (l : Nat) : (d.orderOff l).lease = d.lease := rfl
@[simp] theorem orderOff_reserve (l : Nat) : (d.orderOff l).reserve = d.reserve := rfl
@[simp] theorem orderOff_scanned (l : Nat) : (d.orderOff l).scanned = d.scanned := rfl
@[simp] theorem orderOff_test (l : Nat) : (d.orderOff l).test = d.test := rfl
@[simp] theorem orderOff_port (l : Nat) : (d.orderOff l).port = d.port := rfl
@[simp] theorem orderOff_settings (l : Nat) : (d.orderOff l).settings = d.settings := rfl
@[simp] theorem orderOff_due (l : Nat) : (d.orderOff l).due = d.due := rfl
@[simp] theorem orderOff_freeCount (l : Nat) : (d.orderOff l).freeCount = d.freeCount := rfl

@[simp] theorem orderUnlatch_supply (l : Nat) : (d.orderUnlatch l).supply = d.supply := rfl
@[simp] theorem orderUnlatch_roster (l : Nat) : (d.orderUnlatch l).roster = d.roster := rfl
@[simp] theorem orderUnlatch_mode (l : Nat) : (d.orderUnlatch l).mode = d.mode := rfl
@[simp] theorem orderUnlatch_riser (l : Nat) : (d.orderUnlatch l).riser = d.riser := rfl
@[simp] theorem orderUnlatch_wake (l : Nat) : (d.orderUnlatch l).wake = d.wake := rfl
@[simp] theorem orderUnlatch_lease (l : Nat) : (d.orderUnlatch l).lease = d.lease := rfl
@[simp] theorem orderUnlatch_reserve (l : Nat) : (d.orderUnlatch l).reserve = d.reserve := rfl
@[simp] theorem orderUnlatch_scanned (l : Nat) : (d.orderUnlatch l).scanned = d.scanned := rfl
@[simp] theorem orderUnlatch_test (l : Nat) : (d.orderUnlatch l).test = d.test := rfl
@[simp] theorem orderUnlatch_port (l : Nat) : (d.orderUnlatch l).port = d.port := rfl
@[simp] theorem orderUnlatch_settings (l : Nat) : (d.orderUnlatch l).settings = d.settings := rfl
@[simp] theorem orderUnlatch_due (l : Nat) : (d.orderUnlatch l).due = d.due := rfl
@[simp] theorem orderUnlatch_freeCount (l : Nat) : (d.orderUnlatch l).freeCount = d.freeCount := rfl

@[simp] theorem addDue_supply (e : Due) : (d.addDue e).supply = d.supply := rfl
@[simp] theorem addDue_roster (e : Due) : (d.addDue e).roster = d.roster := rfl
@[simp] theorem addDue_mode (e : Due) : (d.addDue e).mode = d.mode := rfl
@[simp] theorem addDue_riser (e : Due) : (d.addDue e).riser = d.riser := rfl
@[simp] theorem addDue_wake (e : Due) : (d.addDue e).wake = d.wake := rfl
@[simp] theorem addDue_lease (e : Due) : (d.addDue e).lease = d.lease := rfl
@[simp] theorem addDue_lines (e : Due) : (d.addDue e).lines = d.lines := rfl
@[simp] theorem addDue_reserve (e : Due) : (d.addDue e).reserve = d.reserve := rfl
@[simp] theorem addDue_scanned (e : Due) : (d.addDue e).scanned = d.scanned := rfl
@[simp] theorem addDue_test (e : Due) : (d.addDue e).test = d.test := rfl
@[simp] theorem addDue_port (e : Due) : (d.addDue e).port = d.port := rfl
@[simp] theorem addDue_settings (e : Due) : (d.addDue e).settings = d.settings := rfl
@[simp] theorem addDue_freeCount (e : Due) : (d.addDue e).freeCount = d.freeCount := rfl
@[simp] theorem addTrip_supply (l : Nat) : (d.addTrip l).supply = d.supply := rfl
@[simp] theorem addTrip_roster (l : Nat) : (d.addTrip l).roster = d.roster := rfl
@[simp] theorem addTrip_mode (l : Nat) : (d.addTrip l).mode = d.mode := rfl
@[simp] theorem addTrip_riser (l : Nat) : (d.addTrip l).riser = d.riser := rfl
@[simp] theorem addTrip_wake (l : Nat) : (d.addTrip l).wake = d.wake := rfl
@[simp] theorem addTrip_lease (l : Nat) : (d.addTrip l).lease = d.lease := rfl
@[simp] theorem addTrip_lines (l : Nat) : (d.addTrip l).lines = d.lines := rfl
@[simp] theorem addTrip_reserve (l : Nat) : (d.addTrip l).reserve = d.reserve := rfl
@[simp] theorem addTrip_scanned (l : Nat) : (d.addTrip l).scanned = d.scanned := rfl
@[simp] theorem addTrip_test (l : Nat) : (d.addTrip l).test = d.test := rfl
@[simp] theorem addTrip_port (l : Nat) : (d.addTrip l).port = d.port := rfl
@[simp] theorem addTrip_settings (l : Nat) : (d.addTrip l).settings = d.settings := rfl
@[simp] theorem addTrip_freeCount (l : Nat) : (d.addTrip l).freeCount = d.freeCount := rfl
@[simp] theorem addExam_supply : d.addExam.supply = d.supply := rfl
@[simp] theorem addExam_roster : d.addExam.roster = d.roster := rfl
@[simp] theorem addExam_mode : d.addExam.mode = d.mode := rfl
@[simp] theorem addExam_riser : d.addExam.riser = d.riser := rfl
@[simp] theorem addExam_wake : d.addExam.wake = d.wake := rfl
@[simp] theorem addExam_lease : d.addExam.lease = d.lease := rfl
@[simp] theorem addExam_lines : d.addExam.lines = d.lines := rfl
@[simp] theorem addExam_reserve : d.addExam.reserve = d.reserve := rfl
@[simp] theorem addExam_scanned : d.addExam.scanned = d.scanned := rfl
@[simp] theorem addExam_test : d.addExam.test = d.test := rfl
@[simp] theorem addExam_port : d.addExam.port = d.port := rfl
@[simp] theorem addExam_settings : d.addExam.settings = d.settings := rfl
@[simp] theorem addExam_freeCount : d.addExam.freeCount = d.freeCount := rfl

@[simp] theorem modSlot_supply (n : Nat) (f : Slot → Slot) : (d.modSlot n f).supply = d.supply := by unfold modSlot; split <;> rfl
@[simp] theorem modSlot_roster (n : Nat) (f : Slot → Slot) : (d.modSlot n f).roster = d.roster := by unfold modSlot; split <;> rfl
@[simp] theorem modSlot_mode (n : Nat) (f : Slot → Slot) : (d.modSlot n f).mode = d.mode := by unfold modSlot; split <;> rfl
@[simp] theorem modSlot_wake (n : Nat) (f : Slot → Slot) : (d.modSlot n f).wake = d.wake := by unfold modSlot; split <;> rfl
@[simp] theorem modSlot_lease (n : Nat) (f : Slot → Slot) : (d.modSlot n f).lease = d.lease := by unfold modSlot; split <;> rfl
@[simp] theorem modSlot_lines (n : Nat) (f : Slot → Slot) : (d.modSlot n f).lines = d.lines := by unfold modSlot; split <;> rfl
@[simp] theorem modSlot_reserve (n : Nat) (f : Slot → Slot) : (d.modSlot n f).reserve = d.reserve := by unfold modSlot; split <;> rfl
@[simp] theorem modSlot_scanned (n : Nat) (f : Slot → Slot) : (d.modSlot n f).scanned = d.scanned := by unfold modSlot; split <;> rfl
@[simp] theorem modSlot_test (n : Nat) (f : Slot → Slot) : (d.modSlot n f).test = d.test := by unfold modSlot; split <;> rfl
@[simp] theorem modSlot_port (n : Nat) (f : Slot → Slot) : (d.modSlot n f).port = d.port := by unfold modSlot; split <;> rfl
@[simp] theorem modSlot_settings (n : Nat) (f : Slot → Slot) : (d.modSlot n f).settings = d.settings := by unfold modSlot; split <;> rfl
@[simp] theorem modSlot_due (n : Nat) (f : Slot → Slot) : (d.modSlot n f).due = d.due := by unfold modSlot; split <;> rfl
@[simp] theorem modSlot_freeCount (n : Nat) (f : Slot → Slot) : (d.modSlot n f).freeCount = d.freeCount := by unfold modSlot; split <;> rfl

@[simp] theorem modHolder_supply (n : Nat) (f : Holder → Holder) : (d.modHolder n f).supply = d.supply := modSlot_supply d _ _
@[simp] theorem modHolder_roster (n : Nat) (f : Holder → Holder) : (d.modHolder n f).roster = d.roster := modSlot_roster d _ _
@[simp] theorem modHolder_mode (n : Nat) (f : Holder → Holder) : (d.modHolder n f).mode = d.mode := modSlot_mode d _ _
@[simp] theorem modHolder_wake (n : Nat) (f : Holder → Holder) : (d.modHolder n f).wake = d.wake := modSlot_wake d _ _
@[simp] theorem modHolder_lease (n : Nat) (f : Holder → Holder) : (d.modHolder n f).lease = d.lease := modSlot_lease d _ _
@[simp] theorem modHolder_lines (n : Nat) (f : Holder → Holder) : (d.modHolder n f).lines = d.lines := modSlot_lines d _ _
@[simp] theorem modHolder_reserve (n : Nat) (f : Holder → Holder) : (d.modHolder n f).reserve = d.reserve := modSlot_reserve d _ _
@[simp] theorem modHolder_scanned (n : Nat) (f : Holder → Holder) : (d.modHolder n f).scanned = d.scanned := modSlot_scanned d _ _
@[simp] theorem modHolder_test (n : Nat) (f : Holder → Holder) : (d.modHolder n f).test = d.test := modSlot_test d _ _
@[simp] theorem modHolder_port (n : Nat) (f : Holder → Holder) : (d.modHolder n f).port = d.port := modSlot_port d _ _
@[simp] theorem modHolder_settings (n : Nat) (f : Holder → Holder) : (d.modHolder n f).settings = d.settings := modSlot_settings d _ _
@[simp] theorem modHolder_due (n : Nat) (f : Holder → Holder) : (d.modHolder n f).due = d.due := modSlot_due d _ _
@[simp] theorem modHolder_freeCount (n : Nat) (f : Holder → Holder) : (d.modHolder n f).freeCount = d.freeCount := modSlot_freeCount d _ _

@[simp] theorem reserveSlot_supply (n : Nat) (c : Claimant) : (d.reserveSlot n c).supply = d.supply := modSlot_supply d _ _
@[simp] theorem reserveSlot_roster (n : Nat) (c : Claimant) : (d.reserveSlot n c).roster = d.roster := modSlot_roster d _ _
@[simp] theorem reserveSlot_mode (n : Nat) (c : Claimant) : (d.reserveSlot n c).mode = d.mode := modSlot_mode d _ _
@[simp] theorem reserveSlot_wake (n : Nat) (c : Claimant) : (d.reserveSlot n c).wake = d.wake := modSlot_wake d _ _
@[simp] theorem reserveSlot_lease (n : Nat) (c : Claimant) : (d.reserveSlot n c).lease = d.lease := modSlot_lease d _ _
@[simp] theorem reserveSlot_lines (n : Nat) (c : Claimant) : (d.reserveSlot n c).lines = d.lines := modSlot_lines d _ _
@[simp] theorem reserveSlot_reserve (n : Nat) (c : Claimant) : (d.reserveSlot n c).reserve = d.reserve := modSlot_reserve d _ _
@[simp] theorem reserveSlot_scanned (n : Nat) (c : Claimant) : (d.reserveSlot n c).scanned = d.scanned := modSlot_scanned d _ _
@[simp] theorem reserveSlot_test (n : Nat) (c : Claimant) : (d.reserveSlot n c).test = d.test := modSlot_test d _ _
@[simp] theorem reserveSlot_port (n : Nat) (c : Claimant) : (d.reserveSlot n c).port = d.port := modSlot_port d _ _
@[simp] theorem reserveSlot_settings (n : Nat) (c : Claimant) : (d.reserveSlot n c).settings = d.settings := modSlot_settings d _ _
@[simp] theorem reserveSlot_due (n : Nat) (c : Claimant) : (d.reserveSlot n c).due = d.due := modSlot_due d _ _
@[simp] theorem reserveSlot_freeCount (n : Nat) (c : Claimant) : (d.reserveSlot n c).freeCount = d.freeCount := modSlot_freeCount d _ _

@[simp] theorem freeSlot_supply (n : Nat) : (d.freeSlot n).supply = d.supply := modSlot_supply d _ _
@[simp] theorem freeSlot_roster (n : Nat) : (d.freeSlot n).roster = d.roster := modSlot_roster d _ _
@[simp] theorem freeSlot_mode (n : Nat) : (d.freeSlot n).mode = d.mode := modSlot_mode d _ _
@[simp] theorem freeSlot_wake (n : Nat) : (d.freeSlot n).wake = d.wake := modSlot_wake d _ _
@[simp] theorem freeSlot_lease (n : Nat) : (d.freeSlot n).lease = d.lease := modSlot_lease d _ _
@[simp] theorem freeSlot_lines (n : Nat) : (d.freeSlot n).lines = d.lines := modSlot_lines d _ _
@[simp] theorem freeSlot_reserve (n : Nat) : (d.freeSlot n).reserve = d.reserve := modSlot_reserve d _ _
@[simp] theorem freeSlot_scanned (n : Nat) : (d.freeSlot n).scanned = d.scanned := modSlot_scanned d _ _
@[simp] theorem freeSlot_test (n : Nat) : (d.freeSlot n).test = d.test := modSlot_test d _ _
@[simp] theorem freeSlot_port (n : Nat) : (d.freeSlot n).port = d.port := modSlot_port d _ _
@[simp] theorem freeSlot_settings (n : Nat) : (d.freeSlot n).settings = d.settings := modSlot_settings d _ _
@[simp] theorem freeSlot_due (n : Nat) : (d.freeSlot n).due = d.due := modSlot_due d _ _
@[simp] theorem freeSlot_freeCount (n : Nat) : (d.freeSlot n).freeCount = d.freeCount := modSlot_freeCount d _ _

@[simp] theorem assignSlot_supply (n i : Nat) (t : TermId) : (d.assignSlot n i t).supply = d.supply := modSlot_supply d _ _
@[simp] theorem assignSlot_roster (n i : Nat) (t : TermId) : (d.assignSlot n i t).roster = d.roster := modSlot_roster d _ _
@[simp] theorem assignSlot_mode (n i : Nat) (t : TermId) : (d.assignSlot n i t).mode = d.mode := modSlot_mode d _ _
@[simp] theorem assignSlot_wake (n i : Nat) (t : TermId) : (d.assignSlot n i t).wake = d.wake := modSlot_wake d _ _
@[simp] theorem assignSlot_lease (n i : Nat) (t : TermId) : (d.assignSlot n i t).lease = d.lease := modSlot_lease d _ _
@[simp] theorem assignSlot_lines (n i : Nat) (t : TermId) : (d.assignSlot n i t).lines = d.lines := modSlot_lines d _ _
@[simp] theorem assignSlot_reserve (n i : Nat) (t : TermId) : (d.assignSlot n i t).reserve = d.reserve := modSlot_reserve d _ _
@[simp] theorem assignSlot_scanned (n i : Nat) (t : TermId) : (d.assignSlot n i t).scanned = d.scanned := modSlot_scanned d _ _
@[simp] theorem assignSlot_test (n i : Nat) (t : TermId) : (d.assignSlot n i t).test = d.test := modSlot_test d _ _
@[simp] theorem assignSlot_port (n i : Nat) (t : TermId) : (d.assignSlot n i t).port = d.port := modSlot_port d _ _
@[simp] theorem assignSlot_settings (n i : Nat) (t : TermId) : (d.assignSlot n i t).settings = d.settings := modSlot_settings d _ _
@[simp] theorem assignSlot_due (n i : Nat) (t : TermId) : (d.assignSlot n i t).due = d.due := modSlot_due d _ _
@[simp] theorem assignSlot_freeCount (n i : Nat) (t : TermId) : (d.assignSlot n i t).freeCount = d.freeCount := modSlot_freeCount d _ _

@[simp] theorem post_supply (i : Nat) (t : TermId) (c : Cmd) : (d.post i t c).supply = d.supply := by unfold post; split; exacts [modHolder_supply d _ _, rfl]
@[simp] theorem post_roster (i : Nat) (t : TermId) (c : Cmd) : (d.post i t c).roster = d.roster := by unfold post; split; exacts [modHolder_roster d _ _, rfl]
@[simp] theorem post_mode (i : Nat) (t : TermId) (c : Cmd) : (d.post i t c).mode = d.mode := by unfold post; split; exacts [modHolder_mode d _ _, rfl]
@[simp] theorem post_wake (i : Nat) (t : TermId) (c : Cmd) : (d.post i t c).wake = d.wake := by unfold post; split; exacts [modHolder_wake d _ _, rfl]
@[simp] theorem post_lease (i : Nat) (t : TermId) (c : Cmd) : (d.post i t c).lease = d.lease := by unfold post; split; exacts [modHolder_lease d _ _, rfl]
@[simp] theorem post_lines (i : Nat) (t : TermId) (c : Cmd) : (d.post i t c).lines = d.lines := by unfold post; split; exacts [modHolder_lines d _ _, rfl]
@[simp] theorem post_reserve (i : Nat) (t : TermId) (c : Cmd) : (d.post i t c).reserve = d.reserve := by unfold post; split; exacts [modHolder_reserve d _ _, rfl]
@[simp] theorem post_scanned (i : Nat) (t : TermId) (c : Cmd) : (d.post i t c).scanned = d.scanned := by unfold post; split; exacts [modHolder_scanned d _ _, rfl]
@[simp] theorem post_test (i : Nat) (t : TermId) (c : Cmd) : (d.post i t c).test = d.test := by unfold post; split; exacts [modHolder_test d _ _, rfl]
@[simp] theorem post_port (i : Nat) (t : TermId) (c : Cmd) : (d.post i t c).port = d.port := by unfold post; split; exacts [modHolder_port d _ _, rfl]
@[simp] theorem post_settings (i : Nat) (t : TermId) (c : Cmd) : (d.post i t c).settings = d.settings := by unfold post; split; exacts [modHolder_settings d _ _, rfl]
@[simp] theorem post_due (i : Nat) (t : TermId) (c : Cmd) : (d.post i t c).due = d.due := by unfold post; split; exacts [modHolder_due d _ _, rfl]
@[simp] theorem post_freeCount (i : Nat) (t : TermId) (c : Cmd) : (d.post i t c).freeCount = d.freeCount := by unfold post; split; exacts [modHolder_freeCount d _ _, rfl]

@[simp] theorem releaseSlot_supply (i : Nat) (t : TermId) : (d.releaseSlot i t).supply = d.supply := by unfold releaseSlot; split; exacts [modSlot_supply d _ _, rfl]
@[simp] theorem releaseSlot_roster (i : Nat) (t : TermId) : (d.releaseSlot i t).roster = d.roster := by unfold releaseSlot; split; exacts [modSlot_roster d _ _, rfl]
@[simp] theorem releaseSlot_mode (i : Nat) (t : TermId) : (d.releaseSlot i t).mode = d.mode := by unfold releaseSlot; split; exacts [modSlot_mode d _ _, rfl]
@[simp] theorem releaseSlot_wake (i : Nat) (t : TermId) : (d.releaseSlot i t).wake = d.wake := by unfold releaseSlot; split; exacts [modSlot_wake d _ _, rfl]
@[simp] theorem releaseSlot_lease (i : Nat) (t : TermId) : (d.releaseSlot i t).lease = d.lease := by unfold releaseSlot; split; exacts [modSlot_lease d _ _, rfl]
@[simp] theorem releaseSlot_lines (i : Nat) (t : TermId) : (d.releaseSlot i t).lines = d.lines := by unfold releaseSlot; split; exacts [modSlot_lines d _ _, rfl]
@[simp] theorem releaseSlot_reserve (i : Nat) (t : TermId) : (d.releaseSlot i t).reserve = d.reserve := by unfold releaseSlot; split; exacts [modSlot_reserve d _ _, rfl]
@[simp] theorem releaseSlot_scanned (i : Nat) (t : TermId) : (d.releaseSlot i t).scanned = d.scanned := by unfold releaseSlot; split; exacts [modSlot_scanned d _ _, rfl]
@[simp] theorem releaseSlot_test (i : Nat) (t : TermId) : (d.releaseSlot i t).test = d.test := by unfold releaseSlot; split; exacts [modSlot_test d _ _, rfl]
@[simp] theorem releaseSlot_port (i : Nat) (t : TermId) : (d.releaseSlot i t).port = d.port := by unfold releaseSlot; split; exacts [modSlot_port d _ _, rfl]
@[simp] theorem releaseSlot_settings (i : Nat) (t : TermId) : (d.releaseSlot i t).settings = d.settings := by unfold releaseSlot; split; exacts [modSlot_settings d _ _, rfl]
@[simp] theorem releaseSlot_due (i : Nat) (t : TermId) : (d.releaseSlot i t).due = d.due := by unfold releaseSlot; split; exacts [modSlot_due d _ _, rfl]
@[simp] theorem releaseSlot_freeCount (i : Nat) (t : TermId) : (d.releaseSlot i t).freeCount = d.freeCount := by unfold releaseSlot; split; exacts [modSlot_freeCount d _ _, rfl]

@[simp] theorem handAssign_supply (t : TermId) (n : Nat) : (d.handAssign t n).supply = d.supply := rfl
@[simp] theorem handAssign_roster (t : TermId) (n : Nat) : (d.handAssign t n).roster = d.roster := rfl
@[simp] theorem handAssign_mode (t : TermId) (n : Nat) : (d.handAssign t n).mode = d.mode := rfl
@[simp] theorem handAssign_wake (t : TermId) (n : Nat) : (d.handAssign t n).wake = d.wake := rfl
@[simp] theorem handAssign_lease (t : TermId) (n : Nat) : (d.handAssign t n).lease = d.lease := rfl
@[simp] theorem handAssign_lines (t : TermId) (n : Nat) : (d.handAssign t n).lines = d.lines := rfl
@[simp] theorem handAssign_reserve (t : TermId) (n : Nat) : (d.handAssign t n).reserve = d.reserve := rfl
@[simp] theorem handAssign_scanned (t : TermId) (n : Nat) : (d.handAssign t n).scanned = d.scanned := rfl
@[simp] theorem handAssign_test (t : TermId) (n : Nat) : (d.handAssign t n).test = d.test := rfl
@[simp] theorem handAssign_port (t : TermId) (n : Nat) : (d.handAssign t n).port = d.port := rfl
@[simp] theorem handAssign_settings (t : TermId) (n : Nat) : (d.handAssign t n).settings = d.settings := rfl
@[simp] theorem handAssign_due (t : TermId) (n : Nat) : (d.handAssign t n).due = d.due := rfl
@[simp] theorem handAssign_freeCount (t : TermId) (n : Nat) : (d.handAssign t n).freeCount = d.freeCount := rfl

@[simp] theorem handBackoff_supply (t : TermId) : (d.handBackoff t).supply = d.supply := rfl
@[simp] theorem handBackoff_roster (t : TermId) : (d.handBackoff t).roster = d.roster := rfl
@[simp] theorem handBackoff_mode (t : TermId) : (d.handBackoff t).mode = d.mode := rfl
@[simp] theorem handBackoff_wake (t : TermId) : (d.handBackoff t).wake = d.wake := rfl
@[simp] theorem handBackoff_lease (t : TermId) : (d.handBackoff t).lease = d.lease := rfl
@[simp] theorem handBackoff_lines (t : TermId) : (d.handBackoff t).lines = d.lines := rfl
@[simp] theorem handBackoff_reserve (t : TermId) : (d.handBackoff t).reserve = d.reserve := rfl
@[simp] theorem handBackoff_scanned (t : TermId) : (d.handBackoff t).scanned = d.scanned := rfl
@[simp] theorem handBackoff_test (t : TermId) : (d.handBackoff t).test = d.test := rfl
@[simp] theorem handBackoff_port (t : TermId) : (d.handBackoff t).port = d.port := rfl
@[simp] theorem handBackoff_settings (t : TermId) : (d.handBackoff t).settings = d.settings := rfl
@[simp] theorem handBackoff_due (t : TermId) : (d.handBackoff t).due = d.due := rfl
@[simp] theorem handBackoff_freeCount (t : TermId) : (d.handBackoff t).freeCount = d.freeCount := rfl

@[simp] theorem enterFifo_supply (e : FifoEntry) : (d.enterFifo e).supply = d.supply := by unfold enterFifo; split <;> rfl
@[simp] theorem enterFifo_roster (e : FifoEntry) : (d.enterFifo e).roster = d.roster := by unfold enterFifo; split <;> rfl
@[simp] theorem enterFifo_mode (e : FifoEntry) : (d.enterFifo e).mode = d.mode := by unfold enterFifo; split <;> rfl
@[simp] theorem enterFifo_wake (e : FifoEntry) : (d.enterFifo e).wake = d.wake := by unfold enterFifo; split <;> rfl
@[simp] theorem enterFifo_lease (e : FifoEntry) : (d.enterFifo e).lease = d.lease := by unfold enterFifo; split <;> rfl
@[simp] theorem enterFifo_lines (e : FifoEntry) : (d.enterFifo e).lines = d.lines := by unfold enterFifo; split <;> rfl
@[simp] theorem enterFifo_reserve (e : FifoEntry) : (d.enterFifo e).reserve = d.reserve := by unfold enterFifo; split <;> rfl
@[simp] theorem enterFifo_scanned (e : FifoEntry) : (d.enterFifo e).scanned = d.scanned := by unfold enterFifo; split <;> rfl
@[simp] theorem enterFifo_test (e : FifoEntry) : (d.enterFifo e).test = d.test := by unfold enterFifo; split <;> rfl
@[simp] theorem enterFifo_port (e : FifoEntry) : (d.enterFifo e).port = d.port := by unfold enterFifo; split <;> rfl
@[simp] theorem enterFifo_settings (e : FifoEntry) : (d.enterFifo e).settings = d.settings := by unfold enterFifo; split <;> rfl
@[simp] theorem enterFifo_due (e : FifoEntry) : (d.enterFifo e).due = d.due := by unfold enterFifo; split <;> rfl
@[simp] theorem enterFifo_freeCount (e : FifoEntry) : (d.enterFifo e).freeCount = d.freeCount := by unfold enterFifo; split <;> rfl

@[simp] theorem drive_supply (n : Nat) (w : Option (List Byte)) : (d.drive n w).supply = d.supply := rfl
@[simp] theorem drive_roster (n : Nat) (w : Option (List Byte)) : (d.drive n w).roster = d.roster := rfl
@[simp] theorem drive_mode (n : Nat) (w : Option (List Byte)) : (d.drive n w).mode = d.mode := rfl
@[simp] theorem drive_wake (n : Nat) (w : Option (List Byte)) : (d.drive n w).wake = d.wake := rfl
@[simp] theorem drive_lease (n : Nat) (w : Option (List Byte)) : (d.drive n w).lease = d.lease := rfl
@[simp] theorem drive_lines (n : Nat) (w : Option (List Byte)) : (d.drive n w).lines = d.lines := rfl
@[simp] theorem drive_reserve (n : Nat) (w : Option (List Byte)) : (d.drive n w).reserve = d.reserve := rfl
@[simp] theorem drive_scanned (n : Nat) (w : Option (List Byte)) : (d.drive n w).scanned = d.scanned := rfl
@[simp] theorem drive_test (n : Nat) (w : Option (List Byte)) : (d.drive n w).test = d.test := rfl
@[simp] theorem drive_port (n : Nat) (w : Option (List Byte)) : (d.drive n w).port = d.port := rfl
@[simp] theorem drive_settings (n : Nat) (w : Option (List Byte)) : (d.drive n w).settings = d.settings := rfl
@[simp] theorem drive_due (n : Nat) (w : Option (List Byte)) : (d.drive n w).due = d.due := rfl
@[simp] theorem drive_freeCount (n : Nat) (w : Option (List Byte)) : (d.drive n w).freeCount = d.freeCount := rfl

@[simp] theorem modLease_supply (i : Nat) (f : Lease → Lease) : (d.modLease i f).supply = d.supply := rfl
@[simp] theorem modLease_roster (i : Nat) (f : Lease → Lease) : (d.modLease i f).roster = d.roster := rfl
@[simp] theorem modLease_mode (i : Nat) (f : Lease → Lease) : (d.modLease i f).mode = d.mode := rfl
@[simp] theorem modLease_riser (i : Nat) (f : Lease → Lease) : (d.modLease i f).riser = d.riser := rfl
@[simp] theorem modLease_wake (i : Nat) (f : Lease → Lease) : (d.modLease i f).wake = d.wake := rfl
@[simp] theorem modLease_lines (i : Nat) (f : Lease → Lease) : (d.modLease i f).lines = d.lines := rfl
@[simp] theorem modLease_reserve (i : Nat) (f : Lease → Lease) : (d.modLease i f).reserve = d.reserve := rfl
@[simp] theorem modLease_scanned (i : Nat) (f : Lease → Lease) : (d.modLease i f).scanned = d.scanned := rfl
@[simp] theorem modLease_test (i : Nat) (f : Lease → Lease) : (d.modLease i f).test = d.test := rfl
@[simp] theorem modLease_port (i : Nat) (f : Lease → Lease) : (d.modLease i f).port = d.port := rfl
@[simp] theorem modLease_settings (i : Nat) (f : Lease → Lease) : (d.modLease i f).settings = d.settings := rfl
@[simp] theorem modLease_due (i : Nat) (f : Lease → Lease) : (d.modLease i f).due = d.due := rfl
@[simp] theorem modLease_freeCount (i : Nat) (f : Lease → Lease) : (d.modLease i f).freeCount = d.freeCount := rfl

@[simp] theorem removeLease_supply (l : Lease) : (d.removeLease l).supply = d.supply := rfl
@[simp] theorem removeLease_roster (l : Lease) : (d.removeLease l).roster = d.roster := rfl
@[simp] theorem removeLease_mode (l : Lease) : (d.removeLease l).mode = d.mode := rfl
@[simp] theorem removeLease_riser (l : Lease) : (d.removeLease l).riser = d.riser := rfl
@[simp] theorem removeLease_wake (l : Lease) : (d.removeLease l).wake = d.wake := rfl
@[simp] theorem removeLease_lines (l : Lease) : (d.removeLease l).lines = d.lines := rfl
@[simp] theorem removeLease_reserve (l : Lease) : (d.removeLease l).reserve = d.reserve := rfl
@[simp] theorem removeLease_scanned (l : Lease) : (d.removeLease l).scanned = d.scanned := rfl
@[simp] theorem removeLease_test (l : Lease) : (d.removeLease l).test = d.test := rfl
@[simp] theorem removeLease_port (l : Lease) : (d.removeLease l).port = d.port := rfl
@[simp] theorem removeLease_settings (l : Lease) : (d.removeLease l).settings = d.settings := rfl
@[simp] theorem removeLease_due (l : Lease) : (d.removeLease l).due = d.due := rfl
@[simp] theorem removeLease_freeCount (l : Lease) : (d.removeLease l).freeCount = d.freeCount := rfl

@[simp] theorem removeClaim_supply (i : Nat) : (d.removeClaim i).supply = d.supply := rfl
@[simp] theorem removeClaim_roster (i : Nat) : (d.removeClaim i).roster = d.roster := rfl
@[simp] theorem removeClaim_mode (i : Nat) : (d.removeClaim i).mode = d.mode := rfl
@[simp] theorem removeClaim_riser (i : Nat) : (d.removeClaim i).riser = d.riser := rfl
@[simp] theorem removeClaim_wake (i : Nat) : (d.removeClaim i).wake = d.wake := rfl
@[simp] theorem removeClaim_lines (i : Nat) : (d.removeClaim i).lines = d.lines := rfl
@[simp] theorem removeClaim_reserve (i : Nat) : (d.removeClaim i).reserve = d.reserve := rfl
@[simp] theorem removeClaim_scanned (i : Nat) : (d.removeClaim i).scanned = d.scanned := rfl
@[simp] theorem removeClaim_test (i : Nat) : (d.removeClaim i).test = d.test := rfl
@[simp] theorem removeClaim_port (i : Nat) : (d.removeClaim i).port = d.port := rfl
@[simp] theorem removeClaim_settings (i : Nat) : (d.removeClaim i).settings = d.settings := rfl
@[simp] theorem removeClaim_due (i : Nat) : (d.removeClaim i).due = d.due := rfl
@[simp] theorem removeClaim_freeCount (i : Nat) : (d.removeClaim i).freeCount = d.freeCount := rfl

@[simp] theorem addCommitted_supply (n : Nat) : (d.addCommitted n).supply = d.supply := rfl
@[simp] theorem addCommitted_roster (n : Nat) : (d.addCommitted n).roster = d.roster := rfl
@[simp] theorem addCommitted_mode (n : Nat) : (d.addCommitted n).mode = d.mode := rfl
@[simp] theorem addCommitted_riser (n : Nat) : (d.addCommitted n).riser = d.riser := rfl
@[simp] theorem addCommitted_wake (n : Nat) : (d.addCommitted n).wake = d.wake := rfl
@[simp] theorem addCommitted_lines (n : Nat) : (d.addCommitted n).lines = d.lines := rfl
@[simp] theorem addCommitted_reserve (n : Nat) : (d.addCommitted n).reserve = d.reserve := rfl
@[simp] theorem addCommitted_scanned (n : Nat) : (d.addCommitted n).scanned = d.scanned := rfl
@[simp] theorem addCommitted_test (n : Nat) : (d.addCommitted n).test = d.test := rfl
@[simp] theorem addCommitted_port (n : Nat) : (d.addCommitted n).port = d.port := rfl
@[simp] theorem addCommitted_settings (n : Nat) : (d.addCommitted n).settings = d.settings := rfl
@[simp] theorem addCommitted_due (n : Nat) : (d.addCommitted n).due = d.due := rfl
@[simp] theorem addCommitted_freeCount (n : Nat) : (d.addCommitted n).freeCount = d.freeCount := rfl

@[simp] theorem subCommitted_supply (n : Nat) : (d.subCommitted n).supply = d.supply := rfl
@[simp] theorem subCommitted_roster (n : Nat) : (d.subCommitted n).roster = d.roster := rfl
@[simp] theorem subCommitted_mode (n : Nat) : (d.subCommitted n).mode = d.mode := rfl
@[simp] theorem subCommitted_riser (n : Nat) : (d.subCommitted n).riser = d.riser := rfl
@[simp] theorem subCommitted_wake (n : Nat) : (d.subCommitted n).wake = d.wake := rfl
@[simp] theorem subCommitted_lines (n : Nat) : (d.subCommitted n).lines = d.lines := rfl
@[simp] theorem subCommitted_reserve (n : Nat) : (d.subCommitted n).reserve = d.reserve := rfl
@[simp] theorem subCommitted_scanned (n : Nat) : (d.subCommitted n).scanned = d.scanned := rfl
@[simp] theorem subCommitted_test (n : Nat) : (d.subCommitted n).test = d.test := rfl
@[simp] theorem subCommitted_port (n : Nat) : (d.subCommitted n).port = d.port := rfl
@[simp] theorem subCommitted_settings (n : Nat) : (d.subCommitted n).settings = d.settings := rfl
@[simp] theorem subCommitted_due (n : Nat) : (d.subCommitted n).due = d.due := rfl
@[simp] theorem subCommitted_freeCount (n : Nat) : (d.subCommitted n).freeCount = d.freeCount := rfl

@[simp] theorem addLease_supply (i : Nat) (t : TermId) (n : Nat) (c : Class) : (d.addLease i t n c).supply = d.supply := rfl
@[simp] theorem addLease_roster (i : Nat) (t : TermId) (n : Nat) (c : Class) : (d.addLease i t n c).roster = d.roster := rfl
@[simp] theorem addLease_mode (i : Nat) (t : TermId) (n : Nat) (c : Class) : (d.addLease i t n c).mode = d.mode := rfl
@[simp] theorem addLease_riser (i : Nat) (t : TermId) (n : Nat) (c : Class) : (d.addLease i t n c).riser = d.riser := rfl
@[simp] theorem addLease_wake (i : Nat) (t : TermId) (n : Nat) (c : Class) : (d.addLease i t n c).wake = d.wake := rfl
@[simp] theorem addLease_lines (i : Nat) (t : TermId) (n : Nat) (c : Class) : (d.addLease i t n c).lines = d.lines := rfl
@[simp] theorem addLease_reserve (i : Nat) (t : TermId) (n : Nat) (c : Class) : (d.addLease i t n c).reserve = d.reserve := rfl
@[simp] theorem addLease_scanned (i : Nat) (t : TermId) (n : Nat) (c : Class) : (d.addLease i t n c).scanned = d.scanned := rfl
@[simp] theorem addLease_test (i : Nat) (t : TermId) (n : Nat) (c : Class) : (d.addLease i t n c).test = d.test := rfl
@[simp] theorem addLease_port (i : Nat) (t : TermId) (n : Nat) (c : Class) : (d.addLease i t n c).port = d.port := rfl
@[simp] theorem addLease_settings (i : Nat) (t : TermId) (n : Nat) (c : Class) : (d.addLease i t n c).settings = d.settings := rfl
@[simp] theorem addLease_due (i : Nat) (t : TermId) (n : Nat) (c : Class) : (d.addLease i t n c).due = d.due := rfl
@[simp] theorem addLease_freeCount (i : Nat) (t : TermId) (n : Nat) (c : Class) : (d.addLease i t n c).freeCount = d.freeCount := rfl

@[simp] theorem addClaim_supply (i : Nat) (r : Record) (n : Nat) : (d.addClaim i r n).supply = d.supply := rfl
@[simp] theorem addClaim_roster (i : Nat) (r : Record) (n : Nat) : (d.addClaim i r n).roster = d.roster := rfl
@[simp] theorem addClaim_mode (i : Nat) (r : Record) (n : Nat) : (d.addClaim i r n).mode = d.mode := rfl
@[simp] theorem addClaim_riser (i : Nat) (r : Record) (n : Nat) : (d.addClaim i r n).riser = d.riser := rfl
@[simp] theorem addClaim_wake (i : Nat) (r : Record) (n : Nat) : (d.addClaim i r n).wake = d.wake := rfl
@[simp] theorem addClaim_lines (i : Nat) (r : Record) (n : Nat) : (d.addClaim i r n).lines = d.lines := rfl
@[simp] theorem addClaim_reserve (i : Nat) (r : Record) (n : Nat) : (d.addClaim i r n).reserve = d.reserve := rfl
@[simp] theorem addClaim_scanned (i : Nat) (r : Record) (n : Nat) : (d.addClaim i r n).scanned = d.scanned := rfl
@[simp] theorem addClaim_test (i : Nat) (r : Record) (n : Nat) : (d.addClaim i r n).test = d.test := rfl
@[simp] theorem addClaim_port (i : Nat) (r : Record) (n : Nat) : (d.addClaim i r n).port = d.port := rfl
@[simp] theorem addClaim_settings (i : Nat) (r : Record) (n : Nat) : (d.addClaim i r n).settings = d.settings := rfl
@[simp] theorem addClaim_due (i : Nat) (r : Record) (n : Nat) : (d.addClaim i r n).due = d.due := rfl
@[simp] theorem addClaim_freeCount (i : Nat) (r : Record) (n : Nat) : (d.addClaim i r n).freeCount = d.freeCount := rfl

@[simp] theorem setClaimSteps_supply (i n : Nat) : (d.setClaimSteps i n).supply = d.supply := rfl
@[simp] theorem setClaimSteps_roster (i n : Nat) : (d.setClaimSteps i n).roster = d.roster := rfl
@[simp] theorem setClaimSteps_mode (i n : Nat) : (d.setClaimSteps i n).mode = d.mode := rfl
@[simp] theorem setClaimSteps_riser (i n : Nat) : (d.setClaimSteps i n).riser = d.riser := rfl
@[simp] theorem setClaimSteps_wake (i n : Nat) : (d.setClaimSteps i n).wake = d.wake := rfl
@[simp] theorem setClaimSteps_lines (i n : Nat) : (d.setClaimSteps i n).lines = d.lines := rfl
@[simp] theorem setClaimSteps_reserve (i n : Nat) : (d.setClaimSteps i n).reserve = d.reserve := rfl
@[simp] theorem setClaimSteps_scanned (i n : Nat) : (d.setClaimSteps i n).scanned = d.scanned := rfl
@[simp] theorem setClaimSteps_test (i n : Nat) : (d.setClaimSteps i n).test = d.test := rfl
@[simp] theorem setClaimSteps_port (i n : Nat) : (d.setClaimSteps i n).port = d.port := rfl
@[simp] theorem setClaimSteps_settings (i n : Nat) : (d.setClaimSteps i n).settings = d.settings := rfl
@[simp] theorem setClaimSteps_due (i n : Nat) : (d.setClaimSteps i n).due = d.due := rfl
@[simp] theorem setClaimSteps_freeCount (i n : Nat) : (d.setClaimSteps i n).freeCount = d.freeCount := rfl

@[simp] theorem grantPermit_supply : d.grantPermit.supply = d.supply := rfl
@[simp] theorem grantPermit_roster : d.grantPermit.roster = d.roster := rfl
@[simp] theorem grantPermit_mode : d.grantPermit.mode = d.mode := rfl
@[simp] theorem grantPermit_riser : d.grantPermit.riser = d.riser := rfl
@[simp] theorem grantPermit_wake : d.grantPermit.wake = d.wake := rfl
@[simp] theorem grantPermit_lines : d.grantPermit.lines = d.lines := rfl
@[simp] theorem grantPermit_reserve : d.grantPermit.reserve = d.reserve := rfl
@[simp] theorem grantPermit_scanned : d.grantPermit.scanned = d.scanned := rfl
@[simp] theorem grantPermit_test : d.grantPermit.test = d.test := rfl
@[simp] theorem grantPermit_port : d.grantPermit.port = d.port := rfl
@[simp] theorem grantPermit_settings : d.grantPermit.settings = d.settings := rfl
@[simp] theorem grantPermit_due : d.grantPermit.due = d.due := rfl
@[simp] theorem grantPermit_freeCount : d.grantPermit.freeCount = d.freeCount := rfl

@[simp] theorem clearPermit_supply : d.clearPermit.supply = d.supply := by unfold clearPermit; split <;> rfl
@[simp] theorem clearPermit_roster : d.clearPermit.roster = d.roster := by unfold clearPermit; split <;> rfl
@[simp] theorem clearPermit_mode : d.clearPermit.mode = d.mode := by unfold clearPermit; split <;> rfl
@[simp] theorem clearPermit_riser : d.clearPermit.riser = d.riser := by unfold clearPermit; split <;> rfl
@[simp] theorem clearPermit_wake : d.clearPermit.wake = d.wake := by unfold clearPermit; split <;> rfl
@[simp] theorem clearPermit_lines : d.clearPermit.lines = d.lines := by unfold clearPermit; split <;> rfl
@[simp] theorem clearPermit_reserve : d.clearPermit.reserve = d.reserve := by unfold clearPermit; split <;> rfl
@[simp] theorem clearPermit_scanned : d.clearPermit.scanned = d.scanned := by unfold clearPermit; split <;> rfl
@[simp] theorem clearPermit_test : d.clearPermit.test = d.test := by unfold clearPermit; split <;> rfl
@[simp] theorem clearPermit_port : d.clearPermit.port = d.port := by unfold clearPermit; split <;> rfl
@[simp] theorem clearPermit_settings : d.clearPermit.settings = d.settings := by unfold clearPermit; split <;> rfl
@[simp] theorem clearPermit_due : d.clearPermit.due = d.due := by unfold clearPermit; split <;> rfl
@[simp] theorem clearPermit_freeCount : d.clearPermit.freeCount = d.freeCount := by unfold clearPermit; split <;> rfl

@[simp] theorem joinAgenda_supply (i : Nat) (t : TermId) (k : AgendaKind) : (d.joinAgenda i t k).supply = d.supply := rfl
@[simp] theorem joinAgenda_roster (i : Nat) (t : TermId) (k : AgendaKind) : (d.joinAgenda i t k).roster = d.roster := rfl
@[simp] theorem joinAgenda_mode (i : Nat) (t : TermId) (k : AgendaKind) : (d.joinAgenda i t k).mode = d.mode := rfl
@[simp] theorem joinAgenda_riser (i : Nat) (t : TermId) (k : AgendaKind) : (d.joinAgenda i t k).riser = d.riser := rfl
@[simp] theorem joinAgenda_wake (i : Nat) (t : TermId) (k : AgendaKind) : (d.joinAgenda i t k).wake = d.wake := rfl
@[simp] theorem joinAgenda_lease (i : Nat) (t : TermId) (k : AgendaKind) : (d.joinAgenda i t k).lease = d.lease := rfl
@[simp] theorem joinAgenda_lines (i : Nat) (t : TermId) (k : AgendaKind) : (d.joinAgenda i t k).lines = d.lines := rfl
@[simp] theorem joinAgenda_reserve (i : Nat) (t : TermId) (k : AgendaKind) : (d.joinAgenda i t k).reserve = d.reserve := rfl
@[simp] theorem joinAgenda_scanned (i : Nat) (t : TermId) (k : AgendaKind) : (d.joinAgenda i t k).scanned = d.scanned := rfl
@[simp] theorem joinAgenda_port (i : Nat) (t : TermId) (k : AgendaKind) : (d.joinAgenda i t k).port = d.port := rfl
@[simp] theorem joinAgenda_settings (i : Nat) (t : TermId) (k : AgendaKind) : (d.joinAgenda i t k).settings = d.settings := rfl
@[simp] theorem joinAgenda_due (i : Nat) (t : TermId) (k : AgendaKind) : (d.joinAgenda i t k).due = d.due := rfl
@[simp] theorem joinAgenda_freeCount (i : Nat) (t : TermId) (k : AgendaKind) : (d.joinAgenda i t k).freeCount = d.freeCount := rfl

@[simp] theorem putChannel_supply (c : Nat) (t : Option Test) : (d.putChannel c t).supply = d.supply := rfl
@[simp] theorem putChannel_roster (c : Nat) (t : Option Test) : (d.putChannel c t).roster = d.roster := rfl
@[simp] theorem putChannel_mode (c : Nat) (t : Option Test) : (d.putChannel c t).mode = d.mode := rfl
@[simp] theorem putChannel_riser (c : Nat) (t : Option Test) : (d.putChannel c t).riser = d.riser := rfl
@[simp] theorem putChannel_wake (c : Nat) (t : Option Test) : (d.putChannel c t).wake = d.wake := rfl
@[simp] theorem putChannel_lease (c : Nat) (t : Option Test) : (d.putChannel c t).lease = d.lease := rfl
@[simp] theorem putChannel_lines (c : Nat) (t : Option Test) : (d.putChannel c t).lines = d.lines := rfl
@[simp] theorem putChannel_reserve (c : Nat) (t : Option Test) : (d.putChannel c t).reserve = d.reserve := rfl
@[simp] theorem putChannel_scanned (c : Nat) (t : Option Test) : (d.putChannel c t).scanned = d.scanned := rfl
@[simp] theorem putChannel_port (c : Nat) (t : Option Test) : (d.putChannel c t).port = d.port := rfl
@[simp] theorem putChannel_settings (c : Nat) (t : Option Test) : (d.putChannel c t).settings = d.settings := rfl
@[simp] theorem putChannel_due (c : Nat) (t : Option Test) : (d.putChannel c t).due = d.due := rfl
@[simp] theorem putChannel_freeCount (c : Nat) (t : Option Test) : (d.putChannel c t).freeCount = d.freeCount := rfl

@[simp] theorem modTest_supply (i : Nat) (f : Test → Test) : (d.modTest i f).supply = d.supply := rfl
@[simp] theorem modTest_roster (i : Nat) (f : Test → Test) : (d.modTest i f).roster = d.roster := rfl
@[simp] theorem modTest_mode (i : Nat) (f : Test → Test) : (d.modTest i f).mode = d.mode := rfl
@[simp] theorem modTest_riser (i : Nat) (f : Test → Test) : (d.modTest i f).riser = d.riser := rfl
@[simp] theorem modTest_wake (i : Nat) (f : Test → Test) : (d.modTest i f).wake = d.wake := rfl
@[simp] theorem modTest_lease (i : Nat) (f : Test → Test) : (d.modTest i f).lease = d.lease := rfl
@[simp] theorem modTest_lines (i : Nat) (f : Test → Test) : (d.modTest i f).lines = d.lines := rfl
@[simp] theorem modTest_reserve (i : Nat) (f : Test → Test) : (d.modTest i f).reserve = d.reserve := rfl
@[simp] theorem modTest_scanned (i : Nat) (f : Test → Test) : (d.modTest i f).scanned = d.scanned := rfl
@[simp] theorem modTest_port (i : Nat) (f : Test → Test) : (d.modTest i f).port = d.port := rfl
@[simp] theorem modTest_settings (i : Nat) (f : Test → Test) : (d.modTest i f).settings = d.settings := rfl
@[simp] theorem modTest_due (i : Nat) (f : Test → Test) : (d.modTest i f).due = d.due := rfl
@[simp] theorem modTest_freeCount (i : Nat) (f : Test → Test) : (d.modTest i f).freeCount = d.freeCount := rfl

@[simp] theorem setInHand_supply (i : Nat) (t : TermId) : (d.setInHand i t).supply = d.supply := rfl
@[simp] theorem setInHand_roster (i : Nat) (t : TermId) : (d.setInHand i t).roster = d.roster := rfl
@[simp] theorem setInHand_mode (i : Nat) (t : TermId) : (d.setInHand i t).mode = d.mode := rfl
@[simp] theorem setInHand_riser (i : Nat) (t : TermId) : (d.setInHand i t).riser = d.riser := rfl
@[simp] theorem setInHand_wake (i : Nat) (t : TermId) : (d.setInHand i t).wake = d.wake := rfl
@[simp] theorem setInHand_lease (i : Nat) (t : TermId) : (d.setInHand i t).lease = d.lease := rfl
@[simp] theorem setInHand_lines (i : Nat) (t : TermId) : (d.setInHand i t).lines = d.lines := rfl
@[simp] theorem setInHand_reserve (i : Nat) (t : TermId) : (d.setInHand i t).reserve = d.reserve := rfl
@[simp] theorem setInHand_scanned (i : Nat) (t : TermId) : (d.setInHand i t).scanned = d.scanned := rfl
@[simp] theorem setInHand_port (i : Nat) (t : TermId) : (d.setInHand i t).port = d.port := rfl
@[simp] theorem setInHand_settings (i : Nat) (t : TermId) : (d.setInHand i t).settings = d.settings := rfl
@[simp] theorem setInHand_due (i : Nat) (t : TermId) : (d.setInHand i t).due = d.due := rfl
@[simp] theorem setInHand_freeCount (i : Nat) (t : TermId) : (d.setInHand i t).freeCount = d.freeCount := rfl

@[simp] theorem clearInHand_supply (i : Nat) : (d.clearInHand i).supply = d.supply := by unfold clearInHand; split; split <;> rfl; rfl
@[simp] theorem clearInHand_roster (i : Nat) : (d.clearInHand i).roster = d.roster := by unfold clearInHand; split; split <;> rfl; rfl
@[simp] theorem clearInHand_mode (i : Nat) : (d.clearInHand i).mode = d.mode := by unfold clearInHand; split; split <;> rfl; rfl
@[simp] theorem clearInHand_riser (i : Nat) : (d.clearInHand i).riser = d.riser := by unfold clearInHand; split; split <;> rfl; rfl
@[simp] theorem clearInHand_wake (i : Nat) : (d.clearInHand i).wake = d.wake := by unfold clearInHand; split; split <;> rfl; rfl
@[simp] theorem clearInHand_lease (i : Nat) : (d.clearInHand i).lease = d.lease := by unfold clearInHand; split; split <;> rfl; rfl
@[simp] theorem clearInHand_lines (i : Nat) : (d.clearInHand i).lines = d.lines := by unfold clearInHand; split; split <;> rfl; rfl
@[simp] theorem clearInHand_reserve (i : Nat) : (d.clearInHand i).reserve = d.reserve := by unfold clearInHand; split; split <;> rfl; rfl
@[simp] theorem clearInHand_scanned (i : Nat) : (d.clearInHand i).scanned = d.scanned := by unfold clearInHand; split; split <;> rfl; rfl
@[simp] theorem clearInHand_port (i : Nat) : (d.clearInHand i).port = d.port := by unfold clearInHand; split; split <;> rfl; rfl
@[simp] theorem clearInHand_settings (i : Nat) : (d.clearInHand i).settings = d.settings := by unfold clearInHand; split; split <;> rfl; rfl
@[simp] theorem clearInHand_due (i : Nat) : (d.clearInHand i).due = d.due := by unfold clearInHand; split; split <;> rfl; rfl
@[simp] theorem clearInHand_freeCount (i : Nat) : (d.clearInHand i).freeCount = d.freeCount := by unfold clearInHand; split; split <;> rfl; rfl

@[simp] theorem removeAgenda_supply (i : Nat) : (d.removeAgenda i).supply = d.supply := by unfold removeAgenda; rw [clearInHand_supply]
@[simp] theorem removeAgenda_roster (i : Nat) : (d.removeAgenda i).roster = d.roster := by unfold removeAgenda; rw [clearInHand_roster]
@[simp] theorem removeAgenda_mode (i : Nat) : (d.removeAgenda i).mode = d.mode := by unfold removeAgenda; rw [clearInHand_mode]
@[simp] theorem removeAgenda_riser (i : Nat) : (d.removeAgenda i).riser = d.riser := by unfold removeAgenda; rw [clearInHand_riser]
@[simp] theorem removeAgenda_wake (i : Nat) : (d.removeAgenda i).wake = d.wake := by unfold removeAgenda; rw [clearInHand_wake]
@[simp] theorem removeAgenda_lease (i : Nat) : (d.removeAgenda i).lease = d.lease := by unfold removeAgenda; rw [clearInHand_lease]
@[simp] theorem removeAgenda_lines (i : Nat) : (d.removeAgenda i).lines = d.lines := by unfold removeAgenda; rw [clearInHand_lines]
@[simp] theorem removeAgenda_reserve (i : Nat) : (d.removeAgenda i).reserve = d.reserve := by unfold removeAgenda; rw [clearInHand_reserve]
@[simp] theorem removeAgenda_scanned (i : Nat) : (d.removeAgenda i).scanned = d.scanned := by unfold removeAgenda; rw [clearInHand_scanned]
@[simp] theorem removeAgenda_port (i : Nat) : (d.removeAgenda i).port = d.port := by unfold removeAgenda; rw [clearInHand_port]
@[simp] theorem removeAgenda_settings (i : Nat) : (d.removeAgenda i).settings = d.settings := by unfold removeAgenda; rw [clearInHand_settings]
@[simp] theorem removeAgenda_due (i : Nat) : (d.removeAgenda i).due = d.due := by unfold removeAgenda; rw [clearInHand_due]
@[simp] theorem removeAgenda_freeCount (i : Nat) : (d.removeAgenda i).freeCount = d.freeCount := by unfold removeAgenda; rw [clearInHand_freeCount]

@[simp] theorem joinWake_supply (t : WakeTarget) (b : Bool) : (d.joinWake t b).supply = d.supply := rfl
@[simp] theorem joinWake_roster (t : WakeTarget) (b : Bool) : (d.joinWake t b).roster = d.roster := rfl
@[simp] theorem joinWake_mode (t : WakeTarget) (b : Bool) : (d.joinWake t b).mode = d.mode := rfl
@[simp] theorem joinWake_riser (t : WakeTarget) (b : Bool) : (d.joinWake t b).riser = d.riser := rfl
@[simp] theorem joinWake_lease (t : WakeTarget) (b : Bool) : (d.joinWake t b).lease = d.lease := rfl
@[simp] theorem joinWake_lines (t : WakeTarget) (b : Bool) : (d.joinWake t b).lines = d.lines := rfl
@[simp] theorem joinWake_reserve (t : WakeTarget) (b : Bool) : (d.joinWake t b).reserve = d.reserve := rfl
@[simp] theorem joinWake_scanned (t : WakeTarget) (b : Bool) : (d.joinWake t b).scanned = d.scanned := rfl
@[simp] theorem joinWake_test (t : WakeTarget) (b : Bool) : (d.joinWake t b).test = d.test := rfl
@[simp] theorem joinWake_port (t : WakeTarget) (b : Bool) : (d.joinWake t b).port = d.port := rfl
@[simp] theorem joinWake_settings (t : WakeTarget) (b : Bool) : (d.joinWake t b).settings = d.settings := rfl
@[simp] theorem joinWake_due (t : WakeTarget) (b : Bool) : (d.joinWake t b).due = d.due := rfl
@[simp] theorem joinWake_freeCount (t : WakeTarget) (b : Bool) : (d.joinWake t b).freeCount = d.freeCount := rfl

@[simp] theorem dropEntry_supply (e : WakeEntry) : (d.dropEntry e).supply = d.supply := rfl
@[simp] theorem dropEntry_roster (e : WakeEntry) : (d.dropEntry e).roster = d.roster := rfl
@[simp] theorem dropEntry_mode (e : WakeEntry) : (d.dropEntry e).mode = d.mode := rfl
@[simp] theorem dropEntry_riser (e : WakeEntry) : (d.dropEntry e).riser = d.riser := rfl
@[simp] theorem dropEntry_lease (e : WakeEntry) : (d.dropEntry e).lease = d.lease := rfl
@[simp] theorem dropEntry_lines (e : WakeEntry) : (d.dropEntry e).lines = d.lines := rfl
@[simp] theorem dropEntry_reserve (e : WakeEntry) : (d.dropEntry e).reserve = d.reserve := rfl
@[simp] theorem dropEntry_scanned (e : WakeEntry) : (d.dropEntry e).scanned = d.scanned := rfl
@[simp] theorem dropEntry_test (e : WakeEntry) : (d.dropEntry e).test = d.test := rfl
@[simp] theorem dropEntry_port (e : WakeEntry) : (d.dropEntry e).port = d.port := rfl
@[simp] theorem dropEntry_settings (e : WakeEntry) : (d.dropEntry e).settings = d.settings := rfl
@[simp] theorem dropEntry_due (e : WakeEntry) : (d.dropEntry e).due = d.due := rfl
@[simp] theorem dropEntry_freeCount (e : WakeEntry) : (d.dropEntry e).freeCount = d.freeCount := rfl

@[simp] theorem dropWakeRecord_supply (i : Nat) : (d.dropWakeRecord i).supply = d.supply := rfl
@[simp] theorem dropWakeRecord_roster (i : Nat) : (d.dropWakeRecord i).roster = d.roster := rfl
@[simp] theorem dropWakeRecord_mode (i : Nat) : (d.dropWakeRecord i).mode = d.mode := rfl
@[simp] theorem dropWakeRecord_riser (i : Nat) : (d.dropWakeRecord i).riser = d.riser := rfl
@[simp] theorem dropWakeRecord_lease (i : Nat) : (d.dropWakeRecord i).lease = d.lease := rfl
@[simp] theorem dropWakeRecord_lines (i : Nat) : (d.dropWakeRecord i).lines = d.lines := rfl
@[simp] theorem dropWakeRecord_reserve (i : Nat) : (d.dropWakeRecord i).reserve = d.reserve := rfl
@[simp] theorem dropWakeRecord_scanned (i : Nat) : (d.dropWakeRecord i).scanned = d.scanned := rfl
@[simp] theorem dropWakeRecord_test (i : Nat) : (d.dropWakeRecord i).test = d.test := rfl
@[simp] theorem dropWakeRecord_port (i : Nat) : (d.dropWakeRecord i).port = d.port := rfl
@[simp] theorem dropWakeRecord_settings (i : Nat) : (d.dropWakeRecord i).settings = d.settings := rfl
@[simp] theorem dropWakeRecord_due (i : Nat) : (d.dropWakeRecord i).due = d.due := rfl
@[simp] theorem dropWakeRecord_freeCount (i : Nat) : (d.dropWakeRecord i).freeCount = d.freeCount := rfl

@[simp] theorem setAttempt_supply (a : Attempt) : (d.setAttempt a).supply = d.supply := rfl
@[simp] theorem setAttempt_roster (a : Attempt) : (d.setAttempt a).roster = d.roster := rfl
@[simp] theorem setAttempt_mode (a : Attempt) : (d.setAttempt a).mode = d.mode := rfl
@[simp] theorem setAttempt_riser (a : Attempt) : (d.setAttempt a).riser = d.riser := rfl
@[simp] theorem setAttempt_lease (a : Attempt) : (d.setAttempt a).lease = d.lease := rfl
@[simp] theorem setAttempt_lines (a : Attempt) : (d.setAttempt a).lines = d.lines := rfl
@[simp] theorem setAttempt_reserve (a : Attempt) : (d.setAttempt a).reserve = d.reserve := rfl
@[simp] theorem setAttempt_scanned (a : Attempt) : (d.setAttempt a).scanned = d.scanned := rfl
@[simp] theorem setAttempt_test (a : Attempt) : (d.setAttempt a).test = d.test := rfl
@[simp] theorem setAttempt_port (a : Attempt) : (d.setAttempt a).port = d.port := rfl
@[simp] theorem setAttempt_settings (a : Attempt) : (d.setAttempt a).settings = d.settings := rfl
@[simp] theorem setAttempt_due (a : Attempt) : (d.setAttempt a).due = d.due := rfl
@[simp] theorem setAttempt_freeCount (a : Attempt) : (d.setAttempt a).freeCount = d.freeCount := rfl

@[simp] theorem clearAttempt_supply : d.clearAttempt.supply = d.supply := rfl
@[simp] theorem clearAttempt_roster : d.clearAttempt.roster = d.roster := rfl
@[simp] theorem clearAttempt_mode : d.clearAttempt.mode = d.mode := rfl
@[simp] theorem clearAttempt_riser : d.clearAttempt.riser = d.riser := rfl
@[simp] theorem clearAttempt_lease : d.clearAttempt.lease = d.lease := rfl
@[simp] theorem clearAttempt_lines : d.clearAttempt.lines = d.lines := rfl
@[simp] theorem clearAttempt_reserve : d.clearAttempt.reserve = d.reserve := rfl
@[simp] theorem clearAttempt_scanned : d.clearAttempt.scanned = d.scanned := rfl
@[simp] theorem clearAttempt_test : d.clearAttempt.test = d.test := rfl
@[simp] theorem clearAttempt_port : d.clearAttempt.port = d.port := rfl
@[simp] theorem clearAttempt_settings : d.clearAttempt.settings = d.settings := rfl
@[simp] theorem clearAttempt_due : d.clearAttempt.due = d.due := rfl
@[simp] theorem clearAttempt_freeCount : d.clearAttempt.freeCount = d.freeCount := rfl

@[simp] theorem setEviction_supply (e : Option (Nat × TermId)) : (d.setEviction e).supply = d.supply := rfl
@[simp] theorem setEviction_roster (e : Option (Nat × TermId)) : (d.setEviction e).roster = d.roster := rfl
@[simp] theorem setEviction_mode (e : Option (Nat × TermId)) : (d.setEviction e).mode = d.mode := rfl
@[simp] theorem setEviction_riser (e : Option (Nat × TermId)) : (d.setEviction e).riser = d.riser := rfl
@[simp] theorem setEviction_lease (e : Option (Nat × TermId)) : (d.setEviction e).lease = d.lease := rfl
@[simp] theorem setEviction_lines (e : Option (Nat × TermId)) : (d.setEviction e).lines = d.lines := rfl
@[simp] theorem setEviction_reserve (e : Option (Nat × TermId)) : (d.setEviction e).reserve = d.reserve := rfl
@[simp] theorem setEviction_scanned (e : Option (Nat × TermId)) : (d.setEviction e).scanned = d.scanned := rfl
@[simp] theorem setEviction_test (e : Option (Nat × TermId)) : (d.setEviction e).test = d.test := rfl
@[simp] theorem setEviction_port (e : Option (Nat × TermId)) : (d.setEviction e).port = d.port := rfl
@[simp] theorem setEviction_settings (e : Option (Nat × TermId)) : (d.setEviction e).settings = d.settings := rfl
@[simp] theorem setEviction_due (e : Option (Nat × TermId)) : (d.setEviction e).due = d.due := rfl
@[simp] theorem setEviction_freeCount (e : Option (Nat × TermId)) : (d.setEviction e).freeCount = d.freeCount := rfl

@[simp] theorem pulseOver_supply : d.pulseOver.supply = d.supply := rfl
@[simp] theorem pulseOver_roster : d.pulseOver.roster = d.roster := rfl
@[simp] theorem pulseOver_mode : d.pulseOver.mode = d.mode := rfl
@[simp] theorem pulseOver_riser : d.pulseOver.riser = d.riser := rfl
@[simp] theorem pulseOver_lease : d.pulseOver.lease = d.lease := rfl
@[simp] theorem pulseOver_lines : d.pulseOver.lines = d.lines := rfl
@[simp] theorem pulseOver_reserve : d.pulseOver.reserve = d.reserve := rfl
@[simp] theorem pulseOver_scanned : d.pulseOver.scanned = d.scanned := rfl
@[simp] theorem pulseOver_test : d.pulseOver.test = d.test := rfl
@[simp] theorem pulseOver_port : d.pulseOver.port = d.port := rfl
@[simp] theorem pulseOver_settings : d.pulseOver.settings = d.settings := rfl
@[simp] theorem pulseOver_due : d.pulseOver.due = d.due := rfl
@[simp] theorem pulseOver_freeCount : d.pulseOver.freeCount = d.freeCount := rfl

@[simp] theorem setStrangers_supply (l : List Stranger) : (d.setStrangers l).supply = d.supply := rfl
@[simp] theorem setStrangers_roster (l : List Stranger) : (d.setStrangers l).roster = d.roster := rfl
@[simp] theorem setStrangers_mode (l : List Stranger) : (d.setStrangers l).mode = d.mode := rfl
@[simp] theorem setStrangers_riser (l : List Stranger) : (d.setStrangers l).riser = d.riser := rfl
@[simp] theorem setStrangers_lease (l : List Stranger) : (d.setStrangers l).lease = d.lease := rfl
@[simp] theorem setStrangers_lines (l : List Stranger) : (d.setStrangers l).lines = d.lines := rfl
@[simp] theorem setStrangers_reserve (l : List Stranger) : (d.setStrangers l).reserve = d.reserve := rfl
@[simp] theorem setStrangers_scanned (l : List Stranger) : (d.setStrangers l).scanned = d.scanned := rfl
@[simp] theorem setStrangers_test (l : List Stranger) : (d.setStrangers l).test = d.test := rfl
@[simp] theorem setStrangers_port (l : List Stranger) : (d.setStrangers l).port = d.port := rfl
@[simp] theorem setStrangers_settings (l : List Stranger) : (d.setStrangers l).settings = d.settings := rfl
@[simp] theorem setStrangers_due (l : List Stranger) : (d.setStrangers l).due = d.due := rfl
@[simp] theorem setStrangers_freeCount (l : List Stranger) : (d.setStrangers l).freeCount = d.freeCount := rfl

@[simp] theorem raiseDev_supply (f : DevReasons → DevReasons) : (d.raiseDev f).supply = d.supply := rfl
@[simp] theorem raiseDev_roster (f : DevReasons → DevReasons) : (d.raiseDev f).roster = d.roster := rfl
@[simp] theorem raiseDev_mode (f : DevReasons → DevReasons) : (d.raiseDev f).mode = d.mode := rfl
@[simp] theorem raiseDev_riser (f : DevReasons → DevReasons) : (d.raiseDev f).riser = d.riser := rfl
@[simp] theorem raiseDev_wake (f : DevReasons → DevReasons) : (d.raiseDev f).wake = d.wake := rfl
@[simp] theorem raiseDev_lease (f : DevReasons → DevReasons) : (d.raiseDev f).lease = d.lease := rfl
@[simp] theorem raiseDev_lines (f : DevReasons → DevReasons) : (d.raiseDev f).lines = d.lines := rfl
@[simp] theorem raiseDev_reserve (f : DevReasons → DevReasons) : (d.raiseDev f).reserve = d.reserve := rfl
@[simp] theorem raiseDev_scanned (f : DevReasons → DevReasons) : (d.raiseDev f).scanned = d.scanned := rfl
@[simp] theorem raiseDev_test (f : DevReasons → DevReasons) : (d.raiseDev f).test = d.test := rfl
@[simp] theorem raiseDev_settings (f : DevReasons → DevReasons) : (d.raiseDev f).settings = d.settings := rfl
@[simp] theorem raiseDev_due (f : DevReasons → DevReasons) : (d.raiseDev f).due = d.due := rfl
@[simp] theorem raiseDev_freeCount (f : DevReasons → DevReasons) : (d.raiseDev f).freeCount = d.freeCount := rfl

@[simp] theorem raiseRec_supply (i : Nat) (t : TermId) (f : RecReasons → RecReasons) : (d.raiseRec i t f).supply = d.supply := by unfold raiseRec; split <;> rfl
@[simp] theorem raiseRec_roster (i : Nat) (t : TermId) (f : RecReasons → RecReasons) : (d.raiseRec i t f).roster = d.roster := by unfold raiseRec; split <;> rfl
@[simp] theorem raiseRec_mode (i : Nat) (t : TermId) (f : RecReasons → RecReasons) : (d.raiseRec i t f).mode = d.mode := by unfold raiseRec; split <;> rfl
@[simp] theorem raiseRec_riser (i : Nat) (t : TermId) (f : RecReasons → RecReasons) : (d.raiseRec i t f).riser = d.riser := by unfold raiseRec; split <;> rfl
@[simp] theorem raiseRec_wake (i : Nat) (t : TermId) (f : RecReasons → RecReasons) : (d.raiseRec i t f).wake = d.wake := by unfold raiseRec; split <;> rfl
@[simp] theorem raiseRec_lease (i : Nat) (t : TermId) (f : RecReasons → RecReasons) : (d.raiseRec i t f).lease = d.lease := by unfold raiseRec; split <;> rfl
@[simp] theorem raiseRec_lines (i : Nat) (t : TermId) (f : RecReasons → RecReasons) : (d.raiseRec i t f).lines = d.lines := by unfold raiseRec; split <;> rfl
@[simp] theorem raiseRec_reserve (i : Nat) (t : TermId) (f : RecReasons → RecReasons) : (d.raiseRec i t f).reserve = d.reserve := by unfold raiseRec; split <;> rfl
@[simp] theorem raiseRec_scanned (i : Nat) (t : TermId) (f : RecReasons → RecReasons) : (d.raiseRec i t f).scanned = d.scanned := by unfold raiseRec; split <;> rfl
@[simp] theorem raiseRec_test (i : Nat) (t : TermId) (f : RecReasons → RecReasons) : (d.raiseRec i t f).test = d.test := by unfold raiseRec; split <;> rfl
@[simp] theorem raiseRec_settings (i : Nat) (t : TermId) (f : RecReasons → RecReasons) : (d.raiseRec i t f).settings = d.settings := by unfold raiseRec; split <;> rfl
@[simp] theorem raiseRec_due (i : Nat) (t : TermId) (f : RecReasons → RecReasons) : (d.raiseRec i t f).due = d.due := by unfold raiseRec; split <;> rfl
@[simp] theorem raiseRec_freeCount (i : Nat) (t : TermId) (f : RecReasons → RecReasons) : (d.raiseRec i t f).freeCount = d.freeCount := by unfold raiseRec; split <;> rfl

@[simp] theorem dropReasons_supply (i : Nat) : (d.dropReasons i).supply = d.supply := rfl
@[simp] theorem dropReasons_roster (i : Nat) : (d.dropReasons i).roster = d.roster := rfl
@[simp] theorem dropReasons_mode (i : Nat) : (d.dropReasons i).mode = d.mode := rfl
@[simp] theorem dropReasons_riser (i : Nat) : (d.dropReasons i).riser = d.riser := rfl
@[simp] theorem dropReasons_wake (i : Nat) : (d.dropReasons i).wake = d.wake := rfl
@[simp] theorem dropReasons_lease (i : Nat) : (d.dropReasons i).lease = d.lease := rfl
@[simp] theorem dropReasons_lines (i : Nat) : (d.dropReasons i).lines = d.lines := rfl
@[simp] theorem dropReasons_reserve (i : Nat) : (d.dropReasons i).reserve = d.reserve := rfl
@[simp] theorem dropReasons_scanned (i : Nat) : (d.dropReasons i).scanned = d.scanned := rfl
@[simp] theorem dropReasons_test (i : Nat) : (d.dropReasons i).test = d.test := rfl
@[simp] theorem dropReasons_settings (i : Nat) : (d.dropReasons i).settings = d.settings := rfl
@[simp] theorem dropReasons_due (i : Nat) : (d.dropReasons i).due = d.due := rfl
@[simp] theorem dropReasons_freeCount (i : Nat) : (d.dropReasons i).freeCount = d.freeCount := rfl

@[simp] theorem addTally_supply (m : Nat) : (d.addTally m).supply = d.supply := rfl
@[simp] theorem addTally_roster (m : Nat) : (d.addTally m).roster = d.roster := rfl
@[simp] theorem addTally_riser (m : Nat) : (d.addTally m).riser = d.riser := rfl
@[simp] theorem addTally_wake (m : Nat) : (d.addTally m).wake = d.wake := rfl
@[simp] theorem addTally_lease (m : Nat) : (d.addTally m).lease = d.lease := rfl
@[simp] theorem addTally_lines (m : Nat) : (d.addTally m).lines = d.lines := rfl
@[simp] theorem addTally_reserve (m : Nat) : (d.addTally m).reserve = d.reserve := rfl
@[simp] theorem addTally_scanned (m : Nat) : (d.addTally m).scanned = d.scanned := rfl
@[simp] theorem addTally_test (m : Nat) : (d.addTally m).test = d.test := rfl
@[simp] theorem addTally_port (m : Nat) : (d.addTally m).port = d.port := rfl
@[simp] theorem addTally_settings (m : Nat) : (d.addTally m).settings = d.settings := rfl
@[simp] theorem addTally_due (m : Nat) : (d.addTally m).due = d.due := rfl
@[simp] theorem addTally_freeCount (m : Nat) : (d.addTally m).freeCount = d.freeCount := rfl

end Sys2Proof.Machine.Device
end

