-- ==== Sys2Proof/Laws/Kept.lean ====
section
/-! SUPPORT. `Kept`: what a handling in the service of records does at most, as a relation between the device before and
after it; its closure, and one lemma per kind of update. -/

namespace Sys2Proof.Machine

open Device

/-- Events put behind the urgent ones that head a list of events due. -/
def putUrgent (ts es : List Due) : List Due := es.takeWhile Due.urgent ++ ts ++ es.dropWhile Due.urgent

theorem takeWhile_append_of_all {α : Type} {p : α → Bool} : ∀ {xs ys : List α}, xs.all p = true →
    (xs ++ ys).takeWhile p = xs ++ ys.takeWhile p
  | [], _, _ => rfl
  | x :: xs, ys, h => by
    simp only [List.all_cons, Bool.and_eq_true] at h
    simp [h.1, takeWhile_append_of_all h.2]

theorem dropWhile_append_of_all {α : Type} {p : α → Bool} : ∀ {xs ys : List α}, xs.all p = true →
    (xs ++ ys).dropWhile p = ys.dropWhile p
  | [], _, _ => rfl
  | x :: xs, ys, h => by
    simp only [List.all_cons, Bool.and_eq_true] at h
    simp [h.1, dropWhile_append_of_all h.2]

theorem dropWhile_dropWhile {α : Type} (p : α → Bool) : ∀ xs : List α,
    (xs.dropWhile p).takeWhile p = [] ∧ (xs.dropWhile p).dropWhile p = xs.dropWhile p
  | [] => ⟨rfl, rfl⟩
  | x :: xs => by
    by_cases h : p x = true
    · simpa [h] using dropWhile_dropWhile p xs
    · simp [h]

theorem all_takeWhile {α : Type} (p : α → Bool) : ∀ xs : List α, (xs.takeWhile p).all p = true
  | [] => rfl
  | x :: xs => by
    by_cases h : p x = true
    · simp only [List.takeWhile_cons, h, if_true, List.all_cons, Bool.true_and]; exact all_takeWhile p xs
    · simp [h]

theorem putUrgent_nil (es : List Due) : putUrgent [] es = es := by simp [putUrgent, List.takeWhile_append_dropWhile]

theorem putUrgent_putUrgent {ts us es : List Due} (h : ts.all Due.urgent = true) :
    putUrgent us (putUrgent ts es) = putUrgent (ts ++ us) es := by
  have ha : (es.takeWhile Due.urgent ++ ts).all Due.urgent = true := by
    rw [List.all_append, all_takeWhile, h]; rfl
  unfold putUrgent
  rw [takeWhile_append_of_all ha, dropWhile_append_of_all ha, (dropWhile_dropWhile _ es).1, (dropWhile_dropWhile _ es).2]
  simp only [List.append_nil, List.append_assoc]

/-- What was due stays due, and only the events put there are new. -/
theorem mem_putUrgent {e : Due} {ts es : List Due} : e ∈ putUrgent ts es ↔ e ∈ ts ∨ e ∈ es := by
  conv => rhs; rw [← List.takeWhile_append_dropWhile (p := Due.urgent) (l := es)]
  simp only [putUrgent, List.mem_append]
  constructor
  · rintro ((h | h) | h) <;> simp [h]
  · rintro (h | h | h) <;> simp [h]

/-- The device after keeps all that `still` shows, keeps its ranges and capacities, and of the events due only adds trips, behind
the urgent ones that head them. -/
def Kept (part : Record → Record) (d d' : Device) : Prop :=
  d'.still part = d.still part ∧ (d.ok = true → d'.ok = true)
  ∧ ∃ ls : List Nat, d'.due = putUrgent (ls.map Due.trip) d.due

namespace Kept

variable {part : Record → Record} {d d' d'' : Device}

theorem refl (part : Record → Record) (d : Device) : Kept part d d := ⟨rfl, id, [], (putUrgent_nil _).symm⟩

theorem trans (h : Kept part d d') (h' : Kept part d' d'') : Kept part d d'' := by
  obtain ⟨a, b, ls, c⟩ := h
  obtain ⟨a', b', ls', c'⟩ := h'
  refine ⟨a'.trans a, b' ∘ b, ls ++ ls', ?_⟩
  rw [c', c, putUrgent_putUrgent (by simp [Due.urgent]), List.map_append]

/-- What was due stays due. -/
theorem mem_due (h : Kept part d d') {e : Due} (he : e ∈ d.due) : e ∈ d'.due := by
  obtain ⟨_, _, ls, c⟩ := h
  rw [c, mem_putUrgent]
  exact Or.inr he

/-- A handling after another. -/
theorem bind (h : Kept part d d') (f : Device → Device) (hf : ∀ e, Kept part e (f e)) : Kept part d (f d') :=
  h.trans (hf d')

theorem lasting_standing (r : Record) : r.standing.lasting = r.lasting := rfl

/-- What keeps more keeps less. -/
theorem weaken (h : Kept Record.standing d d') : Kept Record.lasting d d' := by
  refine ⟨?_, h.2⟩
  have key : ∀ e : Device, e.still Record.lasting =
      { e.still Record.standing with
        roster := { (e.still Record.standing).roster with
          records := (e.still Record.standing).roster.records.map (Option.map Record.lasting) } } := by
    intro e
    have : (Option.map Record.lasting ∘ Option.map Record.standing) = Option.map Record.lasting := by
      funext o; cases o <;> rfl
    simp [still, List.map_map, this]
  rw [key, key, h.1]

/-! ## One lemma per kind of update -/

theorem ofLease (l : LeaseMgr) : Kept part d { d with lease := l } := ⟨rfl, id, [], (putUrgent_nil _).symm⟩

theorem ofWake (w : Wake) (hs : w.strangers = d.wake.strangers) (ho : w.overflow = d.wake.overflow) :
    Kept part d { d with wake := w } := by
  refine ⟨by simp [still, hs, ho], fun h => ?_, [], (putUrgent_nil _).symm⟩
  simpa [Device.ok, sizes, hs] using h

theorem ofTest (t : TestEngine) (hc : t.channels.length = d.test.channels.length) : Kept part d { d with test := t } := by
  refine ⟨rfl, fun h => ?_, [], (putUrgent_nil _).symm⟩
  simpa [Device.ok, sizes, hc] using h

theorem ofReasons (rs : List RecReasons) (h : rs.length = d.port.records.length) :
    Kept part d { d with port := { d.port with records := rs } } := by
  refine ⟨rfl, fun hk => ?_, [], (putUrgent_nil _).symm⟩
  simpa [Device.ok, sizes, h] using hk

theorem ofTrip (l : Nat) : Kept part d (d.addTrip l) := ⟨rfl, id, [l], by simp [addTrip, putUrgent]⟩

theorem map_modify {α β : Type} (g : α → β) (f : α → α) (h : ∀ a, g (f a) = g a) :
    ∀ (l : List α) (i : Nat), (l.modify i f).map g = l.map g
  | [], i => by cases i <;> simp
  | a :: l, 0 => by simp [h]
  | a :: l, i + 1 => by simp [map_modify g f h l i]

theorem all_modify {α : Type} (p : α → Bool) (f : α → α) (h : ∀ a, p a = true → p (f a) = true) :
    ∀ (l : List α) (i : Nat), l.all p = true → (l.modify i f).all p = true
  | [], i => by cases i <;> simp
  | a :: l, 0 => by
    simp only [List.modify_zero_cons, List.all_cons, Bool.and_eq_true]
    exact fun ⟨x, y⟩ => ⟨h a x, y⟩
  | a :: l, i + 1 => by
    simp only [List.modify_succ_cons, List.all_cons, Bool.and_eq_true]
    exact fun ⟨x, y⟩ => ⟨x, all_modify p f h l i y⟩

/-- Every part of `ok`, as a conjunction. -/
theorem ok_iff (d : Device) : d.ok = true ↔
    d.sizes = true ∧ d.roster.records.all (fun r => r.all Record.ok) = true ∧ d.riser.slots.all Slot.ok = true
    ∧ d.riser.fifo.length ≤ 16 ∧ d.wake.strangers.length ≤ 4 ∧ d.lines.all (fun x => decide (x.current ≤ 1500)) = true
    ∧ d.reserve ≤ 3000 ∧ d.roster.unattributed ≤ maxCharge ∧ d.mode.minutes ≤ 65535 ∧ d.mode.tally ≤ maxTally
    ∧ d.settings.ordered = true := by
  simp only [Device.ok, Bool.and_eq_true, decide_eq_true_eq, and_assoc]

theorem ofRec (i : Nat) (f : Record → Record) (hp : ∀ r, part (f r) = part r) (hk : ∀ r : Record, r.ok = true → (f r).ok = true) :
    Kept part d (d.modRec i f) := by
  refine ⟨?_, fun h => ?_, [], (putUrgent_nil _).symm⟩
  · have : (d.modRec i f).roster.records.map (Option.map part) = d.roster.records.map (Option.map part) :=
      map_modify _ _ (fun o => by cases o <;> simp [hp]) _ _
    simp only [still, modRec_supply, modRec_mode, modRec_riser, modRec_wake, modRec_lines, modRec_reserve, modRec_port,
      modRec_settings, modRec_freeCount, this]
    rfl
  · rw [ok_iff] at h ⊢
    obtain ⟨h1, h2, h3⟩ := h
    refine ⟨?_, all_modify _ _ (fun o => by cases o <;> simp_all) _ _ h2, h3⟩
    simpa [sizes, modRec] using h1

theorem ofLine (l : Nat) (f : Line → Line) (hf : ∀ x : Line, ({ f x with switch := .off } : Line) = { x with switch := .off }) :
    Kept part d (d.modLine l f) := by
  have hc : ∀ x : Line, (f x).current = x.current := fun x => by have := congrArg Line.current (hf x); simpa using this
  refine ⟨?_, fun h => ?_, [], (putUrgent_nil _).symm⟩
  · have : (d.modLine l f).lines.map (fun x => ({ x with switch := .off } : Line)) = d.lines.map fun x => { x with switch := .off } :=
      map_modify _ _ hf _ _
    simp only [still, this]
    rfl
  · rw [ok_iff] at h ⊢
    obtain ⟨h1, h2, h3, h4, h5, h6, h7⟩ := h
    refine ⟨?_, h2, h3, h4, h5, all_modify _ _ (fun x => by simp [hc]) _ _ h6, h7⟩
    simpa [sizes, modLine] using h1

theorem ofSlot (n : Nat) (f : Slot → Slot) (hf : ∀ s : Slot, s.ok = true → (f s).ok = true) : Kept part d (d.modSlot n f) := by
  unfold modSlot
  split
  · exact refl _ _
  · refine ⟨rfl, fun h => ?_, [], (putUrgent_nil _).symm⟩
    rw [ok_iff] at h ⊢
    obtain ⟨h1, h2, h3, h4⟩ := h
    refine ⟨?_, h2, all_modify _ _ hf _ _ h3, h4⟩
    simpa [sizes] using h1

theorem ofHolder (n : Nat) (f : Holder → Holder) (hf : ∀ h : Holder, h.ok = true → (f h).ok = true) :
    Kept part d (d.modHolder n f) := by
  refine ofSlot n _ fun s hs => ?_
  cases s with
  | mk hold use => cases use <;> simp_all [Slot.ok]

end Kept

end Sys2Proof.Machine
end

