-- ==== Sys2Proof/Laws/Queue.lean ====
section
/-! SUPPORT. The downlink queue: what a post does, and that it keeps the queue's shape (R61 to R63). -/

namespace Sys2Proof.Machine

theorem seqAfter_range (n : Nat) (h : 1 ≤ n ∧ n ≤ 15) : 1 ≤ seqAfter n ∧ seqAfter n ≤ 15 := by
  unfold seqAfter; split <;> omega

/-- The dropped entry is one of the queue's. -/
theorem dropOldest_mem {q : List QEntry} {e : QEntry} (h : e ∈ dropOldest q) : e ∈ q := by
  induction q with
  | nil => simp [dropOldest] at h
  | cons a q ih =>
    unfold dropOldest at h
    split at h
    · rcases List.mem_cons.1 h with rfl | h
      · simp
      · exact List.mem_cons_of_mem _ (ih h)
    · exact List.mem_cons_of_mem _ h

theorem kindsDistinct_cons (e : QEntry) (q : List QEntry) :
    kindsDistinct (e :: q) = true ↔ (∀ f ∈ q, f.cmd.kind ≠ e.cmd.kind) ∧ kindsDistinct q = true := by
  simp [kindsDistinct]

theorem kindsDistinct_dropOldest {q : List QEntry} (h : kindsDistinct q = true) : kindsDistinct (dropOldest q) = true := by
  induction q with
  | nil => simp [dropOldest, kindsDistinct]
  | cons a q ih =>
    obtain ⟨h1, h2⟩ := (kindsDistinct_cons a q).1 h
    unfold dropOldest
    split
    · exact (kindsDistinct_cons _ _).2 ⟨fun f hf => h1 f (dropOldest_mem hf), ih h2⟩
    · exact h2

theorem length_dropOldest_le (q : List QEntry) : (dropOldest q).length ≤ q.length := by
  induction q with
  | nil => simp [dropOldest]
  | cons a q ih => unfold dropOldest; split <;> simp; omega

/-- A queue of three or more different kinds has an entry that is neither CUT nor REST, which is the one dropped (R63). -/
theorem length_dropOldest {q : List QEntry} (h : kindsDistinct q = true) (hl : 3 ≤ q.length) :
    (dropOldest q).length + 1 = q.length := by
  match q, h, hl with
  | a :: b :: c :: q, h, _ =>
    obtain ⟨ha, h⟩ := (kindsDistinct_cons _ _).1 h
    obtain ⟨hb, h⟩ := (kindsDistinct_cons _ _).1 h
    have ab := ha b (by simp)
    have ac := ha c (by simp)
    have bc := hb c (by simp)
    unfold dropOldest
    split
    · unfold dropOldest
      split
      · unfold dropOldest
        split
        · omega
        · simp
      · simp
    · simp

theorem kindsDistinct_append {q : List QEntry} {e : QEntry} (h : kindsDistinct q = true)
    (he : ∀ f ∈ q, f.cmd.kind ≠ e.cmd.kind) : kindsDistinct (q ++ [e]) = true := by
  induction q with
  | nil => simp [kindsDistinct]
  | cons a q ih =>
    obtain ⟨h1, h2⟩ := (kindsDistinct_cons a q).1 h
    refine (kindsDistinct_cons _ _).2 ⟨?_, ih h2 fun f hf => he f (List.mem_cons_of_mem _ hf)⟩
    intro f hf
    rcases List.mem_append.1 hf with hf | hf
    · exact h1 f hf
    · rw [List.mem_singleton.1 hf]
      exact fun hk => he a (by simp) hk.symm

theorem kindsDistinct_map {q : List QEntry} {f : QEntry → QEntry} (hf : ∀ e, (f e).cmd.kind = e.cmd.kind)
    (h : kindsDistinct q = true) : kindsDistinct (q.map f) = true := by
  induction q with
  | nil => simp [kindsDistinct]
  | cons a q ih =>
    obtain ⟨h1, h2⟩ := (kindsDistinct_cons a q).1 h
    rw [List.map_cons]
    refine (kindsDistinct_cons _ _).2 ⟨?_, ih h2⟩
    intro g hg
    obtain ⟨e, he, rfl⟩ := List.mem_map.1 hg
    rw [hf, hf]
    exact h1 e he

theorem Holder.ok_iff (h : Holder) : h.ok = true ↔ h.queue.length ≤ 4 ∧ kindsDistinct h.queue = true
    ∧ (1 ≤ h.nextSeq ∧ h.nextSeq ≤ 15) ∧ (∀ e ∈ h.queue, 1 ≤ e.seq ∧ e.seq ≤ 15) ∧ h.silence ≤ 255 := by
  simp only [Holder.ok, Bool.and_eq_true, decide_eq_true_eq, and_assoc, List.all_eq_true]

theorem Holder.fresh_ok (i : Nat) (t : TermId) : (Holder.fresh i t).ok = true := by
  simp [Holder.ok, Holder.fresh, kindsDistinct]

/-- What is left of a queue, with its numbers raised to sends, keeps the shape. -/
theorem Holder.ok_tail {h : Holder} {e : QEntry} {es : List QEntry} (hk : h.ok = true) (hq : h.queue = e :: es) :
    ({ h with queue := es } : Holder).ok = true := by
  rw [Holder.ok_iff] at *
  rw [hq] at hk
  obtain ⟨h1, h2, h3, h4, h5⟩ := hk
  exact ⟨by simp at h1 ⊢; omega, ((kindsDistinct_cons _ _).1 h2).2, h3, fun x hx => h4 x (List.mem_cons_of_mem _ hx), h5⟩

theorem Holder.post_ok (h : Holder) (c : Cmd) (hk : h.ok = true) : (h.post c).ok = true := by
  rw [Holder.ok_iff] at hk
  obtain ⟨h1, h2, h3, h4, h5⟩ := hk
  unfold Holder.post
  split
  · rw [Holder.ok_iff]
    refine ⟨by simpa using h1, kindsDistinct_map (fun e => ?_) h2, h3, ?_, h5⟩
    · split
      · rename_i hc; exact hc.symm
      · rfl
    · intro e he
      obtain ⟨x, hx, rfl⟩ := List.mem_map.1 he
      have := h4 x hx
      split <;> simpa using this
  · rename_i hc
    have hc' : ∀ f ∈ h.queue, f.cmd.kind ≠ c.kind := by simpa using hc
    rw [Holder.ok_iff]
    have hq : ∀ x ∈ (if h.queue.length < 4 then h.queue else dropOldest h.queue), x ∈ h.queue := by
      intro x hx; split at hx
      · exact hx
      · exact dropOldest_mem hx
    have hd : kindsDistinct (if h.queue.length < 4 then h.queue else dropOldest h.queue) = true := by
      split
      · exact h2
      · exact kindsDistinct_dropOldest h2
    have hl : (if h.queue.length < 4 then h.queue else dropOldest h.queue).length ≤ 3 := by
      split
      · omega
      · have := length_dropOldest h2 (by omega); omega
    refine ⟨by simp; omega, kindsDistinct_append hd fun f hf => hc' f (hq f hf), seqAfter_range _ h3, ?_, h5⟩
    intro e he
    rcases List.mem_append.1 he with he | he
    · exact h4 e (hq e he)
    · rw [List.mem_singleton.1 he]; exact h3

end Sys2Proof.Machine
end

