-- ==== Sys2Proof/Laws/Service.lean ====
section
/-! SUPPORT. One lemma per shared operation of the Roster, the Riser Controller, the Wake Sequencer, the Test Engine and the
Lease Manager: what it does at most (`Kept Record.standing`). -/

namespace Sys2Proof.Machine

open Device Kept

abbrev Served (d d' : Device) : Prop := Kept Record.standing d d'

theorem rec?_eq {d : Device} {i : Nat} {r : Record} : d.rec? i = some r ↔ d.roster.records[i]? = some (some r) := by
  simp [rec?, Option.join_eq_some_iff]

/-- A record changed where it is known. -/
theorem modRec_eq {d : Device} {i : Nat} {r : Record} (h : d.rec? i = some r) (f : Record → Record) :
    d.modRec i f = d.putRec i (some (f r)) := by
  rw [rec?_eq] at h
  have : d.roster.records.modify i (Option.map f) = d.roster.records.set i (some (f r)) := by
    rw [List.modify_eq_set, h]; rfl
  simp [modRec, putRec, this]

theorem Kept.ofPut {part : Record → Record} {d : Device} {i : Nat} {r r' : Record} (h : d.rec? i = some r)
    (hp : part r' = part r) (hk : r.ok = true → r'.ok = true) : Kept part d (d.putRec i (some r')) := by
  have e : d.putRec i (some r') = d.modRec i fun x => if x = r then r' else x := by
    rw [modRec_eq h]; simp
  rw [e]
  refine ofRec i _ (fun x => ?_) fun x hx => ?_
  · split
    · rename_i hx; rw [hx, hp]
    · rfl
  · split
    · rename_i hx'; exact hk (hx' ▸ hx)
    · exact hx

/-! ## The Roster -/

theorem Record.enter_standing (r : Record) (c : Cause) (st : RecState) : (r.enter c st).standing = r.standing := by
  cases st <;> rfl

theorem Record.ok_iff (r : Record) : r.ok = true ↔ (r.reason = none ∨ r.state = .quarantined)
    ∧ (r.slot = none ∨ r.state.onSlot = true) ∧ (r.lease = false ∨ r.state = .fed ∨ r.state = .testing)
    ∧ (r.idle = 0 ∨ r.state = .attached) ∧ r.charge ≤ maxCharge ∧ r.failedWakes ≤ 7 ∧ r.lost ≤ 15 ∧ r.tests ≤ 255
    ∧ r.idle ≤ 65535 := by
  simp [Record.ok, and_assoc, or_assoc]

/-- A transition that table 1-4 lists keeps a record's parts to its state. -/
theorem Record.enter_ok {r : Record} {c : Cause} {st : RecState} (h : c.target r.state = some st) (hk : r.ok = true) :
    (r.enter c st).ok = true := by
  rw [Record.ok_iff] at *
  revert h hk
  cases c <;> cases hs : r.state <;> simp only [Cause.target, reduceCtorEq, false_implies, Option.some.injEq] <;>
    rintro rfl <;> simp_all [Record.enter, Record.loadWake, RecState.onSlot]

theorem Served.transition {d d' : Device} {i : Nat} {t : TermId} {c : Cause} (h : d.transition i t c = some d') : Served d d' := by
  unfold Device.transition at h
  split at h
  · rename_i r hr
    split at h
    · split at h
      · rename_i st hst
        rw [← Option.some.inj h, modRec_eq hr]
        exact Kept.ofPut hr (Record.enter_standing _ _ _) (Record.enter_ok hst)
      · cases h
    · cases h
  · cases h

theorem Served.request (d : Device) (i : Nat) (t : TermId) (c : Cause) : Served d (d.request i t c) := by
  unfold Device.request
  cases h : d.transition i t c with
  | none => exact refl _ _
  | some d' => exact Served.transition h

/-! ## Lines, slots, small updates -/

theorem Served.orderOff (d : Device) (l : Nat) : Served d (d.orderOff l) :=
  ofLine l _ fun x => by split <;> rfl

theorem Served.orderUnlatch (d : Device) (l : Nat) : Served d (d.orderUnlatch l) :=
  ofLine l _ fun x => by split <;> rfl

theorem Served.tripIfAsserted (d : Device) (l : Nat) : Served d (d.tripIfAsserted l) := by
  unfold Device.tripIfAsserted
  split
  · split
    · exact ofTrip _
    · exact refl _ _
  · exact refl _ _

theorem Served.orderSoftstart (d : Device) (l : Nat) : Served d (d.orderSoftstart l) := by
  unfold Device.orderSoftstart
  split
  · split
    · exact (ofLine l (fun x => { x with switch := .softstart 2 }) fun x => rfl).trans (Served.tripIfAsserted _ _)
    · exact refl _ _
  · exact refl _ _

theorem Served.orderPulse (d : Device) (l : Nat) (o : Claimant) : Served d (d.orderPulse l o) := by
  unfold Device.orderPulse
  split
  · split
    · exact (ofLine l (fun x => { x with switch := .pulse d.settings.pulseLength o }) fun x => rfl).trans
        (Served.tripIfAsserted _ _)
    · exact refl _ _
  · exact refl _ _

theorem Served.onLineOf (d : Device) (i : Nat) (o : Device → Nat → Device) (h : ∀ d l, Served d (o d l)) :
    Served d (d.onLineOf i o) := by
  unfold Device.onLineOf
  split
  · exact h _ _
  · exact refl _ _

theorem Served.post (d : Device) (i : Nat) (t : TermId) (c : Cmd) : Served d (d.post i t c) := by
  unfold Device.post
  split
  · exact ofHolder _ _ fun h hk => Holder.post_ok h c hk
  · exact refl _ _

theorem Served.reserveSlot (d : Device) (n : Nat) (c : Claimant) : Served d (d.reserveSlot n c) := ofSlot _ _ fun _ _ => rfl

theorem Served.freeSlot (d : Device) (n : Nat) : Served d (d.freeSlot n) :=
  ofSlot _ _ fun s hs => by
    split
    · rfl
    · exact hs

theorem Served.assignSlot (d : Device) (n i : Nat) (t : TermId) : Served d (d.assignSlot n i t) :=
  ofSlot _ _ fun _ _ => Holder.fresh_ok i t

theorem Served.releaseSlot (d : Device) (i : Nat) (t : TermId) : Served d (d.releaseSlot i t) := by
  unfold Device.releaseSlot
  split
  · exact ofSlot _ _ fun _ _ => rfl
  · exact refl _ _

theorem Served.raiseRec (d : Device) (i : Nat) (t : TermId) (f : RecReasons → RecReasons) : Served d (d.raiseRec i t f) := by
  unfold Device.raiseRec
  split
  · exact ofReasons _ (by simp)
  · exact refl _ _

/-- A record's slot, lease or idle frames cleared. -/
theorem Served.modRec (d : Device) (i : Nat) (f : Record → Record) (hp : ∀ r, (f r).standing = r.standing)
    (hk : ∀ r : Record, r.ok = true → (f r).ok = true) : Served d (d.modRec i f) := ofRec i f hp hk

theorem Served.noLease (d : Device) (i : Nat) : Served d (d.modRec i fun r => { r with lease := false }) :=
  ofRec i _ (fun _ => rfl) fun r h => by rw [Record.ok_iff] at *; simp_all

theorem Served.modTest (d : Device) (i : Nat) (f : Test → Test) : Served d (d.modTest i f) := ofTest _ (by simp)

theorem Served.putChannel (d : Device) (c : Nat) (t : Option Test) : Served d (d.putChannel c t) := ofTest _ (by simp)

theorem Served.joinAgenda (d : Device) (i : Nat) (t : TermId) (k : AgendaKind) : Served d (d.joinAgenda i t k) := ofTest _ rfl

theorem Served.setInHand (d : Device) (i : Nat) (t : TermId) : Served d (d.setInHand i t) := ofTest _ rfl

theorem Served.clearInHand (d : Device) (i : Nat) : Served d (d.clearInHand i) := by
  unfold Device.clearInHand
  split
  · split
    · exact ofTest _ rfl
    · exact refl _ _
  · exact refl _ _

theorem Served.removeAgenda (d : Device) (i : Nat) : Served d (d.removeAgenda i) := by
  unfold Device.removeAgenda
  refine Kept.trans ?_ (Served.clearInHand _ i)
  exact ofTest { d.test with agenda := _ } rfl

theorem Served.joinWake (d : Device) (t : WakeTarget) (b : Bool) : Served d (d.joinWake t b) := ofWake _ rfl rfl

theorem Served.dropEntry (d : Device) (e : WakeEntry) : Served d (d.dropEntry e) := ofWake _ rfl rfl

theorem Served.dropWakeRecord (d : Device) (i : Nat) : Served d (d.dropWakeRecord i) := ofWake _ rfl rfl

theorem Served.setAttempt (d : Device) (a : Attempt) : Served d (d.setAttempt a) := ofWake _ rfl rfl

theorem Served.clearAttempt (d : Device) : Served d d.clearAttempt := ofWake _ rfl rfl

theorem Served.pulseOver (d : Device) : Served d d.pulseOver := ofWake _ rfl rfl

theorem Served.setEviction (d : Device) (e : Option (Nat × TermId)) : Served d (d.setEviction e) := ofWake _ rfl rfl

theorem Served.clearPermit (d : Device) : Served d d.clearPermit := by
  unfold Device.clearPermit
  split
  · exact ofLease _
  · exact refl _ _

/-! ## The wake queue -/

theorem Served.judgeEviction (d : Device) (k : Nat) : Served d (d.judgeEviction k) := by
  unfold Device.judgeEviction
  split
  · exact refl _ _
  · split
    · exact (Served.post _ _ _ _).trans (Served.setEviction _ _)
    · exact refl _ _

theorem Served.startAttempt (d : Device) (e : WakeEntry) (v : HeadView) (n : Nat) : Served d (d.startAttempt e v n) := by
  have h1 : Served d (if v.method = .pulse then d.grantPermit else d) := by
    split
    · exact ofLease _
    · exact refl _ _
  refine Kept.bind h1 (fun d => match v.method, v.line with
    | .pulse, some l => (((d.reserveSlot n e.target.claimant).dropEntry e).setAttempt
        ⟨e.target, v.method, n, ((d.reserveSlot n e.target.claimant).dropEntry e).settings.attachWindow,
          v.method == .pulse, v.method == .pulse⟩).orderPulse l e.target.claimant
    | _, _ => ((d.reserveSlot n e.target.claimant).dropEntry e).setAttempt
        ⟨e.target, v.method, n, ((d.reserveSlot n e.target.claimant).dropEntry e).settings.attachWindow,
          v.method == .pulse, v.method == .pulse⟩) fun d => ?_
  have h2 : ∀ a, Served d (((d.reserveSlot n e.target.claimant).dropEntry e).setAttempt a) := fun a =>
    ((Served.reserveSlot _ _ _).trans (Served.dropEntry _ _)).trans (Served.setAttempt _ _)
  split
  · exact (h2 _).trans (Served.orderPulse _ _ _)
  · exact h2 _

/-- The start's part in the record: WAKING, with the reserved slot. -/
theorem Served.startTransition {d d' : Device} {e : WakeEntry} {n : Nat} (h : d.startTransition e n = some d') : Served d d' := by
  unfold Device.startTransition at h
  split at h
  · rename_i i t p _
    obtain ⟨d1, h1, h2⟩ := Option.map_eq_some_iff.1 h
    rw [← h2]
    refine (Served.transition h1).trans ?_
    unfold Device.transition at h1
    split at h1
    · rename_i r hr
      split at h1
      · split at h1
        · rename_i st hst
          have hd1 := (Option.some.inj h1).symm
          have hw : st = .waking := by
            revert hst; cases r.state <;> simp [Cause.target]; exact fun h => h.symm
          have hr1 : d1.rec? i = some (r.enter .wakeStarted st) := by
            rw [hd1, modRec_eq hr]
            rw [rec?_eq] at hr ⊢
            have : i < d.roster.records.length := by
              rcases Nat.lt_or_ge i d.roster.records.length with h | h
              · exact h
              · rw [List.getElem?_eq_none h] at hr; cases hr
            simp [putRec, this]
          rw [modRec_eq hr1]
          refine Kept.ofPut hr1 rfl fun hk => ?_
          rw [Record.ok_iff] at hk ⊢
          subst hw
          simp_all [Record.enter, RecState.onSlot]
        · cases h1
      · cases h1
    · cases h1
  · rw [← Option.some.inj h]; exact refl _ _

theorem Served.examineLoop : ∀ (k : Nat) (d : Device), Served d (examineLoop k d)
  | 0, d => refl _ _
  | k + 1, d => by
    unfold Device.examineLoop
    split
    · exact refl _ _
    · split
      · exact refl _ _
      · split
        · exact (Served.dropEntry _ _).trans (Served.examineLoop k _)
        · split
          · exact refl _ _
          · split
            · exact refl _ _
            · split
              · exact Served.judgeEviction _ _
              · split
                · exact refl _ _
                · split
                  · exact (Served.dropEntry _ _).trans (Served.examineLoop k _)
                  · rename_i h
                    exact (Served.startTransition h).trans (Served.startAttempt _ _ _ _)

theorem Served.examineWake (d : Device) : Served d d.examineWake := Served.examineLoop _ _

theorem Served.headCheck {d d' : Device} (h : Served d d') : Served d (headCheck d d') := by
  unfold Device.headCheck
  split
  · exact h
  · exact h.trans (Served.examineWake _)

theorem Served.joinEntry (d : Device) (i : Nat) (t : TermId) (p : Purpose) : Served d (d.joinEntry i t p) := by
  unfold Device.joinEntry
  split
  · exact Served.joinWake _ _ _
  · exact refl _ _

theorem Served.requestEntry (d : Device) (i : Nat) (t : TermId) (p : Purpose) : Served d (d.requestEntry i t p) :=
  Served.headCheck (Served.joinEntry d i t p)

theorem Served.completeEviction (d : Device) (i : Nat) (t : TermId) : Served d (d.completeEviction i t) := by
  unfold Device.completeEviction
  split
  · exact (Served.setEviction _ _).trans (Served.examineWake _)
  · exact refl _ _

/-! ## The agenda -/

theorem Served.startTest (d : Device) (e : AgendaEntry) (c : Nat) : Served d (d.startTest e c) := by
  unfold Device.startTest
  split
  · exact refl _ _
  · rename_i h
    exact ((Served.transition h).trans (Served.putChannel _ _ _)).trans ((Served.removeAgenda _ _).trans (Served.post _ _ _ _))

theorem Served.foldl {α : Type} {f : Device → α → Device} (h : ∀ d a, Served d (f d a)) :
    ∀ (l : List α) (d : Device), Served d (l.foldl f d)
  | [], _ => refl _ _
  | a :: l, d => (h d a).trans (Served.foldl h l (f d a))

theorem Served.walkEntry (d : Device) (e : AgendaEntry) : Served d (d.walkEntry e) := by
  unfold Device.walkEntry
  split
  · split
    · exact Served.startTest _ _ _
    · exact refl _ _
  · exact refl _ _

theorem Served.testWake (d : Device) : Served d d.testWake := by
  unfold Device.testWake
  split
  · split
    · split
      · exact refl _ _
      · exact (Served.setInHand _ _ _).trans (Served.requestEntry _ _ _ _)
    · exact refl _ _
  · exact refl _ _

theorem Served.examineAgenda (d : Device) : Served d d.examineAgenda := by
  unfold Device.examineAgenda
  split
  · exact refl _ _
  · exact (Served.foldl Served.walkEntry _ _).trans (Served.testWake _)

/-! ## Leases and claims -/

theorem Served.grant (d : Device) (i : Nat) (t : TermId) (k : Nat) : Served d (d.grant i t k) := by
  unfold Device.grant
  split
  · exact ofLease _
  · rename_i d' h
    have h2 : Served d' (((d'.removeClaim i).addCommitted k).addLease i t k (((d.rec? i).map Record.cls).getD .deferrable)) :=
      ofLease _
    exact ((Served.transition h).trans h2).trans
      ((Served.onLineOf _ _ _ Served.orderSoftstart).trans (Served.post _ _ _ _))

theorem Served.serveLoop : ∀ (k : Nat) (d : Device), Served d (serveLoop k d)
  | 0, d => refl _ _
  | k + 1, d => by
    unfold Device.serveLoop
    split
    · exact refl _ _
    · split
      · exact (Served.grant _ _ _ _).trans (Served.serveLoop k _)
      · exact refl _ _

theorem Served.examineIfGranted (d : Device) (cs : List ClaimEntry) : Served d (d.examineIfGranted cs) := by
  unfold Device.examineIfGranted
  split
  · exact Served.examineAgenda _
  · exact refl _ _

theorem Served.serve (d : Device) : Served d d.serve :=
  ((Served.serveLoop _ d).trans (Served.examineWake _)).trans (Served.examineIfGranted _ _)

theorem Served.deferClaim (d : Device) (c : ClaimEntry) (w : DeferReason) : Served d (d.deferClaim c w) :=
  (ofLease _ : Served d (d.removeClaim c.index)).trans (Served.post _ _ _ _)

theorem Served.dropClaim (d : Device) (i : Nat) : Served d (d.dropClaim i) := by
  unfold Device.dropClaim
  split
  · exact (ofLease _ : Served d (d.removeClaim i)).trans (Served.serve _)
  · exact refl _ _

theorem Served.leaseEndRecord (d : Device) (i : Nat) (t : TermId) : Served d (d.leaseEndRecord i t) := by
  unfold Device.leaseEndRecord
  split
  · exact Served.request _ _ _ _
  · exact (Served.noLease _ _).trans (Served.modTest _ _ _)

theorem Served.endLeaseQuiet (d : Device) (l : Lease) (w : LeaseEnd) : Served d (d.endLeaseQuiet l w) := by
  have h0 : Served d (d.removeLease l) := ofLease _
  have h1 : ∀ e : Device, Served e (if l.phase = .live then e.onLineOf l.index Device.orderOff else e) := by
    intro e; split
    · exact Served.onLineOf _ _ _ Served.orderOff
    · exact refl _ _
  refine Kept.bind ((h0.trans (h1 _)).trans (Served.leaseEndRecord _ l.index l.id)) (fun d => match w.cut with
    | some c => d.post l.index l.id (.cut c)
    | none => d) fun d => ?_
  split
  · exact Served.post _ _ _ _
  · exact refl _ _

theorem Served.endLease (d : Device) (i : Nat) (w : LeaseEnd) : Served d (d.endLease i w) := by
  unfold Device.endLease
  split
  · exact (Served.endLeaseQuiet _ _ _).trans (Served.serve _)
  · exact refl _ _

theorem Served.judgeClaim (d : Device) (i : Nat) (r : Record) (k : Nat) : Served d (d.judgeClaim i r k) := by
  unfold Device.judgeClaim
  split
  · dsimp only
    split
    · exact (Served.grant _ _ _ _).trans (Served.examineAgenda _)
    · exact Served.grant _ _ _ _
  · unfold Device.joinClaim
    exact ((ofLease _ : Served d (d.addClaim i r k)).trans (Served.post _ _ _ _)).trans (Served.serve _)

theorem Served.attachedClaim (d : Device) (i : Nat) (r : Record) (k : Nat) : Served d (d.attachedClaim i r k) := by
  unfold Device.attachedClaim
  split
  · exact Served.post _ _ _ _
  · exact Served.judgeClaim _ _ _ _
  · exact (Served.deferClaim _ _ _).trans (Served.serve _)
  · exact ((ofLease _ : Served d (d.setClaimSteps i k)).trans (Served.post _ _ _ _)).trans (Served.serve _)

theorem Served.resizeClaim (d : Device) (i : Nat) (r : Record) (l : Lease) (k : Nat) : Served d (d.resizeClaim i r l k) := by
  have h0 : ∀ (d : Device) (f : Lease → Lease), Served d (d.modLease i f) := fun _ _ => ofLease _
  have h1 : ∀ (d : Device) (n : Nat), Served d (d.subCommitted n) := fun _ _ => ofLease _
  have h2 : ∀ (d : Device) (n : Nat), Served d (d.addCommitted n) := fun _ _ => ofLease _
  unfold Device.resizeClaim
  extract_lets d0
  refine (h0 d _ : Served d d0).trans ?_
  split
  · exact Served.post _ _ _ _
  · split
    · exact (((h0 _ _).trans (h1 _ _)).trans (Served.post _ _ _ _)).trans (Served.serve _)
    · split
      · exact Served.post _ _ _ _
      · split
        · exact ((h0 _ _).trans (h2 _ _)).trans (Served.post _ _ _ _)
        · exact Served.post _ _ _ _

theorem Served.testingClaim (d : Device) (i : Nat) (r : Record) : Served d (d.testingClaim i r) := by
  unfold Device.testingClaim
  refine Kept.trans ?_ (Served.post _ _ _ _)
  split
  · exact ofLease _
  · exact refl _ _

theorem Served.takeClaim (d : Device) (i : Nat) (t : TermId) (k : Nat) : Served d (d.takeClaim i t k) := by
  unfold Device.takeClaim
  split
  · split
    · split
      · exact Served.attachedClaim _ _ _ _
      · split
        · exact Served.resizeClaim _ _ _ _ _
        · exact refl _ _
      · exact Served.testingClaim _ _ _
      all_goals exact refl _ _
    · exact refl _ _
  · exact refl _ _

theorem Served.autoClaim (d : Device) (i : Nat) (t : TermId) : Served d (d.autoClaim i t) := by
  unfold Device.autoClaim
  split
  · exact Served.takeClaim _ _ _ _
  · exact refl _ _

theorem Served.leaseReport (d : Device) (i : Nat) (t : TermId) (b : Bool) : Served d (d.leaseReport i t b) := by
  unfold Device.leaseReport
  split
  · exact Served.autoClaim _ _ _
  · exact refl _ _

theorem Served.takeRenew (d : Device) (i : Nat) (t : TermId) : Served d (d.takeRenew i t) := by
  unfold Device.takeRenew
  split
  · split
    · split
      · exact ofLease _
      · split
        · exact ofLease _
        · exact refl _ _
      · split
        · exact Served.post _ _ _ _
        · exact Served.post _ _ _ _
      all_goals exact refl _ _
    · exact refl _ _
  · exact refl _ _

theorem Served.takeRelease (d : Device) (i : Nat) (t : TermId) : Served d (d.takeRelease i t) := by
  unfold Device.takeRelease
  split
  · split
    · split
      · exact Served.endLease _ _ _
      · exact Served.endLease _ _ _
      · exact Served.dropClaim _ _
      all_goals exact refl _ _
    · exact refl _ _
  · exact refl _ _

theorem Served.returnPermit (d : Device) : Served d d.returnPermit := by
  unfold Device.returnPermit
  split
  · exact (Served.clearPermit _).trans (Served.serve _)
  · exact refl _ _

theorem Served.suspend (d : Device) (i : Nat) : Served d (d.suspend i) := by
  unfold Device.suspend
  split
  · exact (ofLease _ : Served d (d.modLease i _)).trans (Served.onLineOf _ _ _ Served.orderOff)
  · exact refl _ _

theorem Served.resume (d : Device) (i : Nat) : Served d (d.resume i) := by
  unfold Device.resume
  split
  · split
    · exact (ofLease _ : Served d (d.modLease i _)).trans (Served.onLineOf _ _ _ Served.orderSoftstart)
    · exact refl _ _
  · exact refl _ _

/-! ## Attempts, teardown -/

theorem Served.stopPulse (d : Device) : Served d d.stopPulse := by
  unfold Device.stopPulse
  split
  · split
    · dsimp only
      split
      · exact ((Served.orderOff _ _).trans (Served.pulseOver _)).trans (Served.returnPermit _)
      · exact (Served.pulseOver _).trans (Served.returnPermit _)
    · exact refl _ _
  · exact refl _ _

theorem Served.reportPulseEnd (d : Device) (l : Nat) : Served d (d.reportPulseEnd l) := by
  unfold Device.reportPulseEnd
  split
  · split
    · exact (Served.pulseOver _).trans (Served.returnPermit _)
    · exact refl _ _
  · exact refl _ _

theorem Served.abandonAttempt (d : Device) : Served d d.abandonAttempt := by
  unfold Device.abandonAttempt
  split
  · exact (((Served.stopPulse _).trans (Served.freeSlot _ _)).trans (Served.clearAttempt _)).trans (Served.examineWake _)
  · exact refl _ _

theorem Served.abandonReturned (d : Device) : Served d d.abandonReturned := by
  unfold Device.abandonReturned
  split
  · rename_i a _
    split
    · have h1 : Served d (match d.targetLine a.target with
          | some l => d.orderOff l
          | none => d) := by
        split
        · exact Served.orderOff _ _
        · exact refl _ _
      refine Kept.bind (h1.trans ((Served.freeSlot _ a.slot).trans (Served.clearAttempt _))) (fun d => match a.target with
        | .record i t p => match d.transition i t .attemptAbandoned with
          | some d' => d'.joinWake (.record i t p) true
          | none => d
        | .discovery l => d.joinWake (.discovery l) true) fun d => ?_
      split
      · split
        · rename_i h
          exact (Served.transition h).trans (Served.joinWake _ _ _)
        · exact refl _ _
      · exact Served.joinWake _ _ _
    · exact refl _ _
  · exact refl _ _

theorem Served.dropTest (d : Device) (i : Nat) : Served d (d.dropTest i) := by
  have h1 : Served d (match d.channelOf i with
      | some c => d.putChannel c none
      | none => d) := by
    split
    · exact Served.putChannel _ _ _
    · exact refl _ _
  refine Kept.bind (h1.trans (Served.removeAgenda _ i))
    (fun e => if (d.channelOf i).isSome || d.inAgenda i then e.examineAgenda else e) fun e => ?_
  split
  · exact Served.examineAgenda _
  · exact refl _ _

theorem Served.dropWake (d : Device) (i : Nat) : Served d (d.dropWake i) := by
  refine Kept.bind (Served.headCheck (Served.dropWakeRecord d i))
    (fun d => if d.attemptFor i then d.abandonAttempt else d) fun d => ?_
  split
  · exact Served.abandonAttempt _
  · exact refl _ _

theorem Served.teardown (d : Device) (i : Nat) (t : TermId) (w : LeaseEnd) : Served d (d.teardown i t w) := by
  unfold Device.teardown
  refine ((Served.endLease d i w).trans (Served.dropClaim _ i)).trans ?_
  refine ((Served.dropTest _ i).trans (Served.dropWake _ i)).trans ?_
  exact ((Served.releaseSlot _ i t).trans (Served.onLineOf _ _ _ Served.orderOff)).trans (Served.completeEviction _ _ _)

theorem Served.quarantine {d d' : Device} {i : Nat} {t : TermId} {c : Cause} (h : d.quarantine i t c = some d') : Served d d' := by
  obtain ⟨d1, h1, h2⟩ := Option.map_eq_some_iff.1 h
  rw [← h2]
  exact ((Served.transition h1).trans (Served.raiseRec _ _ _ _)).trans (Served.teardown _ _ _ _)

theorem Served.quarantineD (d : Device) (i : Nat) (t : TermId) (c : Cause) : Served d (d.quarantineD i t c) := by
  unfold Device.quarantineD
  cases h : d.quarantine i t c with
  | none => exact refl _ _
  | some d' => exact Served.quarantine h

theorem Served.restDelivered {d d' : Device} {i : Nat} {t : TermId} (h : d.restDelivered i t = some d') : Served d d' := by
  obtain ⟨d1, h1, h2⟩ := Option.map_eq_some_iff.1 h
  rw [← h2]
  exact (((Served.transition h1).trans (Served.releaseSlot _ _ _)).trans (Served.dropClaim _ _)).trans
    (Served.completeEviction _ _ _)

theorem Served.testBegun (d : Device) (i w : Nat) : Served d (d.testBegun i w) := by
  unfold Device.testBegun
  split
  · split
    · exact (Served.modTest _ _ _).trans (Served.suspend _ _)
    · exact refl _ _
  · exact refl _ _

theorem Served.deliver (d : Device) (n : Nat) (h : Holder) (hq : ∀ x : Holder, x.ok = true → h.queue ≠ [] →
    ({ x with queue := h.queue.tail } : Holder).ok = true) (a : Option Nat) : Served d (d.deliver n h a).1 := by
  unfold Device.deliver
  split
  · exact refl _ _
  · rename_i e es he
    split
    · have h1 : Served d (d.modHolder n fun h => { h with queue := es }) :=
        ofHolder _ _ fun x hx => by have := hq x hx (by simp [he]); simpa [he] using this
      generalize d.modHolder n _ = d1 at h1 ⊢
      dsimp only
      split
      · split
        · rename_i h2
          exact h1.trans (Served.restDelivered h2)
        · exact h1
      · exact h1.trans (Served.testBegun _ _ _)
      all_goals exact h1
    · exact refl _ _

/-! ## Shedding -/

theorem Served.shedPermit (d : Device) : Served d d.shedPermit := by
  unfold Device.shedPermit
  split
  · exact (Served.clearPermit _).trans (Served.abandonReturned _)
  · exact refl _ _

theorem Served.fitLoop : ∀ (k : Nat) (d : Device), Served d (fitLoop k d)
  | 0, d => refl _ _
  | k + 1, d => by
    unfold Device.fitLoop
    split
    · split
      · exact (Served.endLeaseQuiet _ _ _).trans (Served.fitLoop k _)
      · exact refl _ _
    · exact refl _ _

theorem Served.shed (d : Device) : Served d d.shed := by
  unfold Device.shed
  have h1 : ∀ e : Device, Served e e.shedLeases := fun e => Served.foldl (fun d l => by
    split
    · exact Served.endLeaseQuiet _ _ _
    · exact refl _ _) _ _
  have h2 : ∀ e : Device, Served e e.shedClaims := fun e => Served.foldl (fun d l => by
    split
    · exact Served.deferClaim _ _ _
    · exact refl _ _) _ _
  exact (((Served.shedPermit d).trans (h1 _)).trans (h2 _)).trans ((Served.fitLoop _ _).trans (Served.serve _))

end Sys2Proof.Machine
end

