-- ==== Sys2Proof/Laws/Handled.lean ====
section
/-! SUPPORT. One lemma per handling that also writes test results or failure counters (`Kept Record.lasting`): LOST, restart,
the end of a test, window expiry, and the due events that stay within the service of records. -/

namespace Sys2Proof.Machine

open Device Kept

abbrev Handled (d d' : Device) : Prop := Kept Record.lasting d d'

/-! ## LOST and restart -/

theorem Handled.storeAbort (d : Device) (i : Nat) (o : TestOutcome) :
    Handled d (d.modRec i fun r => { r with lastOutcome := some o }) :=
  ofRec i _ (fun _ => rfl) fun r h => by rw [Record.ok_iff] at *; simpa using h

theorem Handled.abortLost (d : Device) (i : Nat) : Handled d (d.abortLost i) := by
  unfold Device.abortLost
  split
  · exact (Handled.storeAbort _ _ _).trans ((Served.putChannel _ _ _).trans (Served.examineAgenda _)).weaken
  · exact refl _ _

theorem Handled.lostTeardown (d : Device) (i : Nat) (t : TermId) : Handled d (d.lostTeardown i t) := by
  unfold Device.lostTeardown
  refine (((Served.releaseSlot d i t).trans (Served.endLease _ i .lost)).trans (Served.dropClaim _ i)).weaken.trans ?_
  exact (Handled.abortLost _ _).trans (Served.completeEviction _ _ _).weaken

theorem Handled.judgeLost (d : Device) (i : Nat) (t : TermId) : Handled d (d.judgeLost i t) := by
  unfold Device.judgeLost
  split
  · split
    · exact (Served.quarantineD _ _ _ _).weaken
    · split
      · exact (Served.requestEntry _ _ _ _).weaken
      · exact refl _ _
  · exact refl _ _

theorem Handled.countLost (d : Device) (i : Nat) : Handled d (d.modRec i fun r => { r with lost := min (r.lost + 1) 15 }) :=
  ofRec i _ (fun _ => rfl) fun r h => by
    rw [Record.ok_iff] at *
    obtain ⟨h1, h2, h3, h4, h5, h6, _, h8⟩ := h
    exact ⟨h1, h2, h3, h4, h5, h6, Nat.min_le_right _ _, h8⟩

theorem Handled.declareLost (d : Device) (i : Nat) (t : TermId) : Handled d (d.declareLost i t) := by
  unfold Device.declareLost
  split
  · rename_i h
    exact ((Served.transition h).weaken.trans ((Handled.countLost _ i).trans (Served.raiseRec _ i t _).weaken)).trans
      ((Handled.lostTeardown _ i t).trans (Handled.judgeLost _ i t))
  · exact refl _ _

theorem Handled.restartTeardown (d : Device) (i : Nat) (t : TermId) : Handled d (d.restartTeardown i t) := by
  unfold Device.restartTeardown
  split
  · rename_i h
    exact (Served.transition h).weaken.trans (Handled.lostTeardown _ i t)
  · exact refl _ _

/-! ## The end of a test -/

theorem Record.storeOutcome_ok (r : Record) (o : TestOutcome) (k : Nat) (h : r.ok = true) : (r.storeOutcome o k).ok = true := by
  cases o with
  | verdict v =>
    rw [Record.ok_iff] at *
    obtain ⟨h1, h2, h3, h4, h5, h6, h7, h8, h9⟩ := h
    exact ⟨h1, h2, h3, h4, h5, h6, h7, Nat.min_le_right _ _, h9⟩
  | aborted w => rw [Record.ok_iff] at *; simpa [Record.storeOutcome] using h

theorem Handled.storeOutcome (d : Device) (i : Nat) (t : TermId) (o : TestOutcome) (k : Nat) :
    Handled d (d.storeOutcome i t o k) := by
  have h1 : Handled d (d.modRec i fun r => r.storeOutcome o k) :=
    ofRec i _ (fun r => by cases o <;> rfl) fun r h => Record.storeOutcome_ok r o k h
  cases o with
  | verdict v => exact h1.trans (Served.raiseRec _ _ _ _).weaken
  | aborted w => exact h1

theorem Served.resumeRecord (d : Device) (i : Nat) (t : TermId) : Served d (d.resumeRecord i t) :=
  (Served.resume d i).trans (Served.request _ _ _ _)

theorem Handled.closeTest (d : Device) (t : Test) (o : TestOutcome) (k : Nat) : Handled d (d.closeTest t o k) :=
  ((Served.resumeRecord d _ _).weaken.trans (Handled.storeOutcome _ _ _ _ _)).trans (Served.post _ _ _ _).weaken

theorem Handled.endTest (d : Device) (c : Nat) (t : Test) (o : TestOutcome) (k : Nat) (b : Bool) :
    Handled d (d.endTest c t o k b) := by
  have h1 : ∀ d : Device, Served d
      (if d.inState t.index .attached && (b || d.nearCutoff t.index) then d.autoClaim t.index t.id else d) := by
    intro d; split
    · exact Served.autoClaim _ _ _
    · exact refl _ _
  exact ((Handled.closeTest d t o k).trans (h1 _).weaken).trans
    ((Served.putChannel _ c none).trans (Served.examineAgenda _)).weaken

theorem Handled.endTestMains (d : Device) (c : Nat) : Handled d (d.endTestMains c) := by
  unfold Device.endTestMains
  split
  · exact (Handled.closeTest _ _ _ _).trans (Served.putChannel _ _ _).weaken
  · exact refl _ _

theorem Handled.runningReport (d : Device) (c : Nat) (t : Test) (b : BatteryReport) : Handled d (d.runningReport c t b) := by
  unfold Device.runningReport
  split
  · dsimp only
    split
    · exact (Served.putChannel _ _ _).weaken.trans (Handled.endTest _ _ _ _ _ _)
    · split
      · exact (Served.putChannel _ _ _).weaken.trans (Handled.endTest _ _ _ _ _ _)
      · exact (Served.putChannel _ _ _).weaken
  · dsimp only
    split
    · exact (Served.putChannel _ _ _).weaken.trans (Handled.endTest _ _ _ _ _ _)
    · exact (Served.putChannel _ _ _).weaken

theorem Handled.testReport (d : Device) (i : Nat) (b : BatteryReport) : Handled d (d.testReport i b) := by
  unfold Device.testReport
  split
  · split
    · split
      · split
        · exact Handled.endTest _ _ _ _ _ _
        · exact refl _ _
      · exact Handled.runningReport _ _ _ _
    · exact refl _ _
  · exact refl _ _

theorem Handled.testExpired (d : Device) (c : Nat) (p : TestPhase) : Handled d (d.testExpired c p) := by
  unfold Device.testExpired
  split
  · split
    · split <;> exact Handled.endTest _ _ _ _ _ _
    · exact refl _ _
  · exact refl _ _

/-! ## Window expiry -/

theorem Handled.countFailed (d : Device) (i : Nat) :
    Handled d (d.modRec i fun r => { r with failedWakes := min (r.failedWakes + 1) 7 }) :=
  ofRec i _ (fun _ => rfl) fun r h => by
    rw [Record.ok_iff] at *
    obtain ⟨h1, h2, h3, h4, h5, _, h7⟩ := h
    exact ⟨h1, h2, h3, h4, h5, Nat.min_le_right _ _, h7⟩

theorem Handled.attachExpired (d : Device) : Handled d d.attachExpired := by
  unfold Device.attachExpired
  split
  · rename_i a _
    split
    · rename_i i t p _
      split
      · refine Kept.bind ((Served.stopPulse d).weaken.trans (Handled.countFailed _ i)) (fun d => match d.rec? i with
          | some r =>
            if r.failedWakes < d.settings.wakeAttempts then
              match ((d.freeSlot a.slot).clearAttempt).transition i t .windowExpired with
              | some d => (d.joinEntry i t p).examineWake
              | none => ((d.freeSlot a.slot).clearAttempt).examineWake
            else (d.quarantineD i t .attemptsExhausted).examineWake
          | none => d) fun d => ?_
        split
        · split
          · have h1 : Served d ((d.freeSlot a.slot).clearAttempt) := (Served.freeSlot _ _).trans (Served.clearAttempt _)
            split
            · rename_i h
              exact ((h1.trans (Served.transition h)).trans ((Served.joinEntry _ _ _ _).trans (Served.examineWake _))).weaken
            · exact (h1.trans (Served.examineWake _)).weaken
          · exact ((Served.quarantineD _ _ _ _).trans (Served.examineWake _)).weaken
        · exact refl _ _
      · exact refl _ _
    · exact refl _ _
  · exact refl _ _

/-! ## Due events within the service of records -/

theorem Handled.silenceLost (d : Device) (n : Nat) : Handled d (d.silenceLost n) := by
  unfold Device.silenceLost
  split
  · exact Handled.declareLost _ _ _
  · exact refl _ _

theorem Served.idleRest (d : Device) (i : Nat) : Served d (d.idleRest i) := by
  unfold Device.idleRest
  split
  · split
    · exact Served.post _ _ _ _
    · exact refl _ _
  · exact refl _ _

theorem Served.leaseExpired (d : Device) (i : Nat) : Served d (d.leaseExpired i) := by
  unfold Device.leaseExpired
  split
  · split
    · exact Served.endLease _ _ _
    · exact refl _ _
  · exact refl _ _

theorem Served.claimWaitExpired (d : Device) (i : Nat) : Served d (d.claimWaitExpired i) := by
  unfold Device.claimWaitExpired
  split
  · split
    · exact (Served.deferClaim _ _ _).trans (Served.serve _)
    · exact refl _ _
  · exact refl _ _

theorem Served.pulseEnded (d : Device) (l : Nat) : Served d (d.pulseEnded l) := by
  unfold Device.pulseEnded
  split
  · exact (Served.orderOff _ _).trans (Served.reportPulseEnd _ _)
  · exact refl _ _

theorem Served.softstartDone (d : Device) (l : Nat) : Served d (d.softstartDone l) := by
  unfold Device.softstartDone
  split
  · exact ofLine _ _ fun _ => rfl
  · exact refl _ _

theorem Served.tripBound (d : Device) (l i : Nat) (b : Bool) : Served d (d.tripBound l i b) := by
  have h0 : ∀ (d : Device) (s : Switch), Served d (d.modLine l fun x => { x with switch := s }) := fun d s =>
    ofLine l _ fun _ => rfl
  have h1 : ∀ d : Device, Served d (if b then d.reportPulseEnd l else d) := by
    intro d; split
    · exact Served.reportPulseEnd _ _
    · exact refl _ _
  unfold Device.tripBound
  extract_lets d1 t
  refine (h0 d .tripped : Served d d1).trans ?_
  split
  · rename_i h
    exact (Served.quarantine h).trans (h1 _)
  · exact (h0 _ .off).trans (h1 _)

end Sys2Proof.Machine
end

