-- ==== Sys2Proof/Laws/Quiet.lean ====
section
/-! SUPPORT. How commands reach the device, and what examinations and services do where nothing waits. -/

namespace Sys2Proof.Machine

open Device

/-! ## Services and examinations that find nothing -/

theorem Device.examineWake_none {d : Device} (h : d.wake.queue = []) : d.examineWake = d := by
  unfold Device.examineWake Device.examineLoop Device.wakeHead
  rw [h]
  split
  · rfl
  · rfl

theorem Device.examineWake_busy {d : Device} (h : d.wake.attempt.isSome = true) : d.examineWake = d := by
  unfold Device.examineWake Device.examineLoop
  rw [if_pos h]

theorem Device.examineAgenda_none {d : Device} (h : d.test.agenda = []) : d.examineAgenda = d := by
  unfold Device.examineAgenda
  rw [h]
  rfl

theorem Device.serveLoop_none {d : Device} (k : Nat) (h : d.lease.claims = []) : d.serveLoop k = d := by
  cases k with
  | zero => rfl
  | succ k => unfold Device.serveLoop; rw [h]

theorem Device.serve_none {d : Device} (h : d.lease.claims = []) (hw : d.wake.queue = []) : d.serve = d := by
  unfold Device.serve
  rw [h, serveLoop_none _ h, examineWake_none hw]
  rfl

theorem Device.finish_none {d : Device} (h : d.due.head? ≠ some .agendaExam) : d.finish = d := by
  unfold Device.finish
  split
  · rename_i es he
    rw [he] at h
    exact absurd rfl h
  · rfl

theorem Device.settle_none {d : Device} (h : d.due = []) : d.settle = d := by
  unfold Device.settle Device.settleLoop
  rw [h]
  rfl

/-- Nothing is hastened where no urgent event stands before the one named. -/
theorem Device.hasten_none {d : Device} {e : Due} (h : ∀ x, d.due.head? = some x → x.urgent = false ∨ x = e) :
    d.hasten e = d := by
  unfold Device.hasten Device.hastenLoop
  split
  · rename_i x xs hx
    rw [if_neg]
    rcases h x (by rw [hx]; rfl) with h | h <;> simp [h]
  · rfl

/-! ## How a command reaches the device -/

theorem State.named_due {s : State} {e : Due} {d : Device} (h : s.dueNow e d) :
    s.named e = .next ⟨(d.handle e).finish, s.pending⟩ := by
  obtain ⟨hr, he, rfl⟩ := h
  unfold State.named Device.takeDue
  rw [if_pos hr, if_pos (by simpa using he)]

theorem State.outside_settled {s : State} {d : Device} (h : s.settled d) (f : Device → Device) :
    s.outside f = .next ⟨f d, s.pending⟩ := by
  obtain ⟨hr, rfl⟩ := h
  unfold State.outside
  rw [if_pos hr]

theorem State.guarded_settled {s : State} {d : Device} {ok : Bool} (h : s.settled d) (hk : ok = true) (f : Device → Device) :
    s.guarded ok f = .next ⟨f d, s.pending⟩ := by
  unfold State.guarded
  rw [outside_settled h, hk]
  rfl

theorem State.half_settled {s : State} {d : Device} {ok : Bool} {p : Nat} (h : s.settled d) (hk : ok = true)
    (hp : d.inTurn p = true) (f : Device → Device) : s.half ok p f = .next ⟨f d, s.pending⟩ := by
  unfold State.half
  rw [outside_settled h, hk, hp]
  rfl

/-- A half whose turn has passed, or that comes before frame 0, changes nothing (log 4). -/
theorem State.half_passed {s : State} {d : Device} {ok : Bool} {p : Nat} (h : s.settled d) (hp : d.inTurn p = false)
    (f : Device → Device) : s.half ok p f = .next ⟨d, s.pending⟩ := by
  unfold State.half
  rw [outside_settled h, hp, Bool.and_false]
  rfl

/-- What the beacon that precedes a scan round changes at most: the riser (R54, log 39). -/
theorem Device.beaconFirst_riser (d : Device) : ({ d.beaconFirst with riser := d.riser } : Device) = d := by
  unfold Device.beaconFirst
  split <;> rfl

/-- BEACON sends the beacon where it is still to come, and does nothing else. -/
theorem execBeacon_settled {s : State} {d : Device} (h : s.settled d) : execBeacon s = .next ⟨d.beaconFirst, s.pending⟩ :=
  State.outside_settled h Device.beaconFirst

theorem Device.requestBytes_length (c : Byte) (p : List Byte) : (requestBytes c p).length = 4 + p.length := by
  simp [requestBytes, withCheck]
  omega

/-- A REQUEST that the port takes: carried out and answered (R173 to R176). -/
theorem State.request_takes {s : State} {d : Device} {c : Byte} {p : List Byte} {carry : List Byte → Device → Device × Answer}
    (h : s.takes p d) {e : Device} {r : Result} {fields : List Byte} (hc : carry p (d.working c p) = (e, r, fields)) :
    s.request c p carry = .next ⟨e.answers r fields, s.pending⟩ := by
  obtain ⟨hs, hi, hp⟩ := h
  have h32 : ¬ 32 < p.length := by omega
  have hl : 4 + p.length - 1 = 3 + p.length := by omega
  unfold State.request
  rw [outside_settled hs]
  unfold Device.hostRequest Device.requestTransaction
  simp only [hi, Device.requestBytes_length, hl, Device.receive, Device.shiftOut, if_neg h32, Device.answered]
  unfold Device.working at hc
  simp only [hc, Device.place, Device.answers]

/-- The take of a new word goes to its dispatch (R67 to R71). -/
theorem State.takeRow_new {s : State} {n : Nat} {h : Holder} {r : Record} {w : List Byte} {d : Device} (k : UpKind)
    (hw : s.newWord n h r w d) (hk : (FifoEntry.mk (.terminal n 0) w).row = k) :
    (s.outside fun d => d.takeRow k) = .next ⟨d.dispatch h.index h.id w, s.pending⟩ := by
  obtain ⟨d0, hold, rest, h0, hf, ⟨hs, hr, hid⟩, ha, hl, rfl⟩ := hw
  rw [outside_settled h0]
  have hk' : (FifoEntry.mk (.terminal n hold) w).row = k := by
    rw [← hk]; unfold FifoEntry.row; dsimp only; cases upKind w <;> rfl
  have hdel : ∀ e : Device, e.deliver n h (upAck w) = (e, true) := by
    intro e
    unfold Device.deliver
    split
    · rfl
    · rename_i x xs hq
      rw [if_neg]
      exact ha x (by rw [hq]; rfl)
  have hs' : ({ d0 with riser := { d0.riser with fifo := rest } } : Device).slot? n = some ⟨hold, .held h⟩ := hs
  simp only [Device.takeRow, hf, hk', if_true, Device.takeWord, Device.takeTerminal, hs', hdel, Device.takeSequence, if_neg hl]

end Sys2Proof.Machine
end

