-- ==== Sys2Proof/Laws/Port.lean ====
section
/-! SUPPORT. The device as it carries out a request is the device but for the port: what every read of it gives. -/

namespace Sys2Proof.Machine.Device

variable (d : Device) (c : Byte) (p : List Byte)

@[simp] theorem working_supply : (d.working c p).supply = d.supply := rfl
@[simp] theorem working_roster : (d.working c p).roster = d.roster := rfl
@[simp] theorem working_mode : (d.working c p).mode = d.mode := rfl
@[simp] theorem working_riser : (d.working c p).riser = d.riser := rfl
@[simp] theorem working_wake : (d.working c p).wake = d.wake := rfl
@[simp] theorem working_lease : (d.working c p).lease = d.lease := rfl
@[simp] theorem working_lines : (d.working c p).lines = d.lines := rfl
@[simp] theorem working_reserve : (d.working c p).reserve = d.reserve := rfl
@[simp] theorem working_test : (d.working c p).test = d.test := rfl
@[simp] theorem working_settings : (d.working c p).settings = d.settings := rfl
@[simp] theorem working_due : (d.working c p).due = d.due := rfl
@[simp] theorem working_device : (d.working c p).port.device = d.port.device := rfl
@[simp] theorem working_records : (d.working c p).port.records = d.port.records := rfl
@[simp] theorem working_rec (i : Nat) : (d.working c p).rec? i = d.rec? i := rfl
@[simp] theorem working_findId (t : TermId) : (d.working c p).findId t = d.findId t := rfl
@[simp] theorem working_inState (i : Nat) (st : RecState) : (d.working c p).inState i st = d.inState i st := rfl
@[simp] theorem working_line (l : Nat) : (d.working c p).line? l = d.line? l := rfl
@[simp] theorem working_lineTaken (l : Nat) : (d.working c p).lineTaken l = d.lineTaken l := rfl
@[simp] theorem working_leaseOf (i : Nat) : (d.working c p).leaseOf i = d.leaseOf i := rfl
@[simp] theorem working_claimOf (i : Nat) : (d.working c p).claimOf i = d.claimOf i := rfl
@[simp] theorem working_inAgenda (i : Nat) : (d.working c p).inAgenda i = d.inAgenda i := rfl
@[simp] theorem working_wakeEntryOf (i : Nat) : (d.working c p).wakeEntryOf i = d.wakeEntryOf i := rfl
@[simp] theorem working_wakeHead : (d.working c p).wakeHead = d.wakeHead := rfl
@[simp] theorem working_reasonsOf (i : Nat) : (d.working c p).reasonsOf i = d.reasonsOf i := rfl

@[simp] theorem working_keyed (k : Key) : (d.working c p).keyed k = d.keyed k := by cases k <;> rfl

/-- A request that carries no parameters. -/
theorem bare_nil (go : Device × Answer) : d.bare [] go = go := rfl

/-- A request with a key that names a record goes on with it (R2, R176). -/
theorem withKey_found {d : Device} {p : List Byte} {k : Key} {i : Nat} {r : Record} (hk : parseKey p = some k)
    (hr : d.keyed k = some (i, r)) (go : Nat → Record → Device × Answer) : d.withKey p go = go i r := by
  unfold Device.withKey
  rw [hk]
  cases k with
  | line l => exact nomatch hr
  | index j => simp only [hr]
  | id t => simp only [hr]

/-- A request with a key that names no record draws NOT_FOUND (R2, R176). -/
theorem withKey_absent {d : Device} {p : List Byte} {k : Key} (hk : parseKey p = some k) (hl : ∀ l, k ≠ .line l)
    (hr : d.keyed k = none) (go : Nat → Record → Device × Answer) : d.withKey p go = (d, fails .notFound) := by
  unfold Device.withKey
  rw [hk]
  cases k with
  | line l => exact absurd rfl (hl l)
  | index j => simp only [hr]
  | id t => simp only [hr]

/-- A wake or test request in OUTAGE goes on by its key (R155, R180). -/
theorem inOutageMode_found {d : Device} {p : List Byte} {k : Key} {i : Nat} {r : Record} (hm : d.mode.mode = .outage)
    (hk : parseKey p = some k) (hr : d.keyed k = some (i, r)) (go : Nat → Record → Device × Answer) :
    d.inOutageMode p go = go i r := by
  have hw := withKey_found hk hr go
  unfold Device.inOutageMode
  rw [hk]
  cases k with
  | line l => exact nomatch hr
  | index j => simp only [hm, if_true, hw]
  | id t => simp only [hm, if_true, hw]

end Sys2Proof.Machine.Device
end

