-- ==== Sys2Proof/Laws/Pulses.lean ====
section
/-! SUPPORT. What the examinations of a frame start make due: at most the trip of a line that they took out of OFF with its TRIP_N
asserted (R135). -/

namespace Sys2Proof.Machine

open Device

/-- A line that is OFF after was OFF before, and the only new events due are trips of lines that were OFF with TRIP_N asserted. -/
def Pulses (d d' : Device) : Prop :=
  (∀ l y, d'.line? l = some y → y.switch = .off → d.line? l = some y)
  ∧ ∀ e ∈ d'.due, e ∈ d.due ∨ ∃ l y, e = .trip l ∧ d.line? l = some y ∧ y.switch = .off ∧ y.tripLow = true

namespace Pulses

variable {d d' d'' : Device}

theorem refl (d : Device) : Pulses d d := ⟨fun _ _ h _ => h, fun _ h => Or.inl h⟩

theorem trans (h : Pulses d d') (h' : Pulses d' d'') : Pulses d d'' := by
  refine ⟨fun l y hy ho => h.1 l y (h'.1 l y hy ho) ho, fun e he => ?_⟩
  rcases h'.2 e he with h1 | ⟨l, y, rfl, hy, ho, ht⟩
  · exact h.2 e h1
  · exact Or.inr ⟨l, y, rfl, h.1 l y hy ho, ho, ht⟩

/-- An update of neither the lines nor the events due. -/
theorem same (hl : d'.lines = d.lines) (hd : d'.due = d.due) : Pulses d d' := by
  refine ⟨fun l y hy _ => ?_, fun e he => Or.inl (hd ▸ he)⟩
  unfold Device.line? at *
  rwa [← hl]

theorem transition {i : Nat} {t : TermId} {c : Cause} (h : d.transition i t c = some d') : Pulses d d' := by
  unfold Device.transition at h
  split at h
  · split at h
    · split at h
      · cases h
        exact same rfl rfl
      · cases h
    · cases h
  · cases h

theorem modSlot (n : Nat) (f : Slot → Slot) : Pulses d (d.modSlot n f) := by
  unfold Device.modSlot
  split <;> exact same rfl rfl

theorem post (i : Nat) (t : TermId) (c : Cmd) : Pulses d (d.post i t c) := by
  unfold Device.post
  split
  · exact modSlot _ _
  · exact refl _

theorem clearInHand (i : Nat) : Pulses d (d.clearInHand i) := by
  unfold Device.clearInHand
  split
  · split <;> exact same rfl rfl
  · exact refl _

/-- The order that takes a line out of OFF. -/
theorem orderPulse (l : Nat) (o : Claimant) : Pulses d (d.orderPulse l o) := by
  unfold Device.orderPulse
  split
  · rename_i x hx
    split
    · rename_i ho
      have hm : ∀ k y, (d.modLine l fun x => { x with switch := .pulse d.settings.pulseLength o }).line? k = some y →
          y.switch = .off → d.line? k = some y := by
        intro k y hk hy
        simp only [Device.line?, Device.modLine, List.getElem?_modify] at hk ⊢
        obtain ⟨z, hz, rfl⟩ := Option.map_eq_some_iff.1 hk
        by_cases h : l = k
        · rw [if_pos h] at hy
          cases hy
        · rw [if_neg h]
          exact hz
      unfold Device.tripIfAsserted
      split
      · rename_i z hz
        have hz' : z.tripLow = x.tripLow := by
          simp only [Device.line?, Device.modLine, List.getElem?_modify, if_true,
            show d.lines[l]? = some x from hx] at hz
          cases hz
          rfl
        split
        · rename_i ht
          refine ⟨hm, fun e he => ?_⟩
          rcases mem_putUrgent.1 (show e ∈ putUrgent [.trip l] d.due by simpa [putUrgent, Device.addTrip] using he) with h | h
          · exact Or.inr ⟨l, x, by simpa using h, hx, ho, hz' ▸ ht⟩
          · exact Or.inl h
        · exact ⟨hm, fun e he => Or.inl he⟩
      · exact ⟨hm, fun e he => Or.inl he⟩
    · exact refl _
  · exact refl _

theorem startTransition {e : WakeEntry} {n : Nat} (h : d.startTransition e n = some d') : Pulses d d' := by
  unfold Device.startTransition at h
  split at h
  · obtain ⟨c, hc, rfl⟩ := Option.map_eq_some_iff.1 h
    exact (transition hc).trans (same rfl rfl)
  · cases h
    exact refl _

theorem startAttempt (e : WakeEntry) (v : HeadView) (n : Nat) : Pulses d (d.startAttempt e v n) := by
  unfold Device.startAttempt
  extract_lets d1 d2 d3
  have h1 : Pulses d d1 := by
    unfold d1
    split <;> exact same rfl rfl
  have h3 : Pulses d d3 := (h1.trans (modSlot n _)).trans (same (d' := d3) rfl rfl)
  split
  · exact h3.trans (orderPulse _ _)
  · exact h3

theorem examineLoop : ∀ (k : Nat) (d : Device), Pulses d (d.examineLoop k)
  | 0, d => refl d
  | k + 1, d => by
    unfold Device.examineLoop
    split
    · exact refl _
    · split
      · exact refl _
      · split
        · exact (same (d' := d.dropEntry _) rfl rfl).trans (examineLoop k _)
        · split
          · exact refl _
          · split
            · exact refl _
            · split
              · unfold Device.judgeEviction
                split
                · exact refl _
                · split
                  · exact (post _ _ _).trans (same rfl rfl)
                  · exact refl _
              · split
                · exact refl _
                · split
                  · exact (same (d' := d.dropEntry _) rfl rfl).trans (examineLoop k _)
                  · rename_i h
                    exact (startTransition h).trans (startAttempt _ _ _)

/-- The examination of the wake queue head (R85). -/
theorem examineWake (d : Device) : Pulses d d.examineWake := examineLoop _ d

theorem requestEntry (d : Device) (i : Nat) (t : TermId) (p : Purpose) : Pulses d (d.requestEntry i t p) := by
  have h : Pulses d (d.joinEntry i t p) := by
    unfold Device.joinEntry
    split <;> exact same rfl rfl
  unfold Device.requestEntry Device.headCheck
  split
  · exact h
  · exact h.trans (examineWake _)

theorem walkEntry (d : Device) (x : AgendaEntry) : Pulses d (d.walkEntry x) := by
  unfold Device.walkEntry
  split
  · split
    · unfold Device.startTest
      split
      · exact refl _
      · rename_i d' h
        refine (transition h).trans (trans ?_ (post _ _ _))
        unfold Device.removeAgenda
        exact trans (same rfl rfl) (clearInHand _)
    · exact refl _
  · exact refl _

theorem testWake (d : Device) : Pulses d d.testWake := by
  unfold Device.testWake
  split
  · split
    · rename_i x _
      split
      · exact refl _
      · exact (same (d' := d.setInHand x.index x.id) rfl rfl).trans (requestEntry _ _ _ _)
    · exact refl _
  · exact refl _

/-- The examination of the agenda (R156). -/
theorem examineAgenda (d : Device) : Pulses d d.examineAgenda := by
  have hw : ∀ (xs : List AgendaEntry) (e : Device), Pulses e (xs.foldl Device.walkEntry e) := by
    intro xs
    induction xs with
    | nil => exact refl
    | cons x xs ih => exact fun e => (walkEntry e x).trans (ih _)
  unfold Device.examineAgenda
  split
  · exact refl _
  · exact (hw d.test.agenda d).trans (testWake _)

/-- The examination of the head that a frame start calls for (R58, R85, R102). -/
theorem frameExamine (d was : Device) : Pulses d (d.frameExamine was) := by
  have h : Pulses d (if d.evictionStale then d.setEviction none else d) := by split <;> exact same rfl rfl
  unfold Device.frameExamine
  dsimp only
  split
  · exact h.trans (examineWake _)
  · exact h

/-- The agenda examination of a frame start where it is next (R156). -/
theorem finish (d : Device) : Pulses d d.finish := by
  unfold Device.finish
  split
  · rename_i es he
    have h : Pulses d { d with due := es } :=
      ⟨fun _ _ h _ => h, fun e hm => Or.inl (he ▸ List.mem_cons_of_mem _ hm)⟩
    exact h.trans (examineAgenda _)
  · exact refl _

end Pulses

end Sys2Proof.Machine
end

