-- ==== Sys2Proof/Laws/Sound.lean ====
section
/-! SUPPORT. Every handling of the device keeps its ranges and capacities (`Device.ok`): one lemma per operation. -/

namespace Sys2Proof.Machine

open Device Kept

/-- The device after keeps its ranges and capacities. -/
def Sound (d d' : Device) : Prop := d.ok = true → d'.ok = true

namespace Sound

variable {d d' d'' : Device}

theorem refl (d : Device) : Sound d d := id

theorem trans (h : Sound d d') (h' : Sound d' d'') : Sound d d'' := h' ∘ h

theorem bind (h : Sound d d') (f : Device → Device) (hf : ∀ e, Sound e (f e)) : Sound d (f d') := h.trans (hf d')

theorem served (h : Served d d') : Sound d d' := h.2.1

theorem handled (h : Handled d d') : Sound d d' := h.2.1

theorem foldl {α : Type} {f : Device → α → Device} (h : ∀ d a, Sound d (f d a)) :
    ∀ (l : List α) (d : Device), Sound d (l.foldl f d)
  | [], _ => refl _
  | a :: l, d => (h d a).trans (foldl h l (f d a))

/-! ## Updates -/

theorem ofDevReasons (f : DevReasons → DevReasons) : Sound d (d.raiseDev f) := fun h => h

theorem ofDue (es : List Due) : Sound d { d with due := es } := fun h => h

theorem ofMode (m : ModeCtl) (h1 : d.mode.minutes ≤ 65535 → m.minutes ≤ 65535) (h2 : d.mode.tally ≤ maxTally → m.tally ≤ maxTally) :
    Sound d { d with mode := m } := by
  intro h
  rw [ok_iff] at h ⊢
  obtain ⟨a, b, c, e, f, g, i, j, k, l, m⟩ := h
  exact ⟨a, b, c, e, f, g, i, j, h1 k, h2 l, m⟩

theorem ofRec (i : Nat) (f : Record → Record) (hk : ∀ r : Record, r.ok = true → (f r).ok = true) : Sound d (d.modRec i f) := by
  intro h
  rw [ok_iff] at h ⊢
  obtain ⟨h1, h2, h3⟩ := h
  refine ⟨?_, all_modify _ _ (fun o => by cases o <;> simp_all) _ _ h2, h3⟩
  simpa [sizes, modRec] using h1

theorem ofLine (l : Nat) (f : Line → Line) (hc : ∀ x : Line, x.current ≤ 1500 → (f x).current ≤ 1500) :
    Sound d (d.modLine l f) := by
  intro h
  rw [ok_iff] at h ⊢
  obtain ⟨h1, h2, h3, h4, h5, h6, h7⟩ := h
  refine ⟨?_, h2, h3, h4, h5, all_modify _ _ (fun x => by simpa using hc x) _ _ h6, h7⟩
  simpa [sizes, modLine] using h1

/-- The riser's part less its slot map changed. -/
theorem ofRiser (r : Riser) (hs : r.slots = d.riser.slots) (hf : r.fifo.length ≤ 16 ∨ r.fifo.length ≤ d.riser.fifo.length) :
    Sound d { d with riser := r } := by
  intro h
  rw [ok_iff] at h ⊢
  obtain ⟨h1, h2, h3, h4, h5⟩ := h
  refine ⟨by simpa [sizes, hs] using h1, h2, by simpa [hs] using h3, ?_, h5⟩
  show r.fifo.length ≤ 16
  omega

theorem ofStrangers (l : List Stranger) (hl : l.length ≤ 4 ∨ l.length ≤ d.wake.strangers.length) : Sound d (d.setStrangers l) := by
  intro h
  rw [ok_iff] at h ⊢
  obtain ⟨h1, h2, h3, h4, h5, h6⟩ := h
  refine ⟨h1, h2, h3, h4, ?_, h6⟩
  show l.length ≤ 4
  omega

/-! ## Levels, rations, the outage -/

theorem changeLevel (d : Device) : Sound d d.changeLevel := by
  have h0 : ∀ l : Level, Sound d (({ d with mode := { d.mode with level := l, evidence := .none, confirm := 0, ceiling := d.settings.ceilingOf l } }
      : Device).raiseDev fun r => { r with level := true }) := fun l =>
    trans (ofMode { d.mode with level := l, evidence := .none, confirm := 0, ceiling := d.settings.ceilingOf l }
      (fun h => h) fun h => h) (ofDevReasons fun r => { r with level := true })
  unfold Device.changeLevel
  dsimp only
  split
  · exact ((h0 _).trans (served (Served.shed _))).trans (served (Served.examineWake _))
  · exact ((h0 _).trans (served (Served.serve _))).trans
      ((served (Served.examineWake _)).trans (served (Served.examineAgenda _)))
  · exact refl _

theorem judgeRation (d : Device) (i : Nat) : Sound d (d.judgeRation i) := by
  unfold Device.judgeRation
  split
  · split
    · rename_i r _ _
      have h1 : Sound d (d.modRec i fun r => { r with rationSpent := true }) :=
        ofRec i _ fun r h => by rw [Record.ok_iff] at *; exact h
      refine bind (h1.trans ((served (Served.raiseRec _ i r.id fun r => { r with rationSpent := true })).trans
        (served (Served.endLease _ i .ration)))) (fun d => match d.claimOf i with
          | some c => (d.deferClaim c .ration).serve
          | none => d) fun d => ?_
      split
      · exact served ((Served.deferClaim _ _ _).trans (Served.serve _))
      · exact refl _
    · exact refl _
  · exact refl _

theorem judgeRations (d : Device) : Sound d d.judgeRations := foldl judgeRation _ _

theorem mapRecords (f : Record → Record) (u : Nat) (hu : u ≤ maxCharge) (hk : ∀ r : Record, r.ok = true → (f r).ok = true) :
    Sound d { d with roster := ⟨d.roster.records.map (Option.map f), u⟩ } := by
  intro h
  rw [ok_iff] at h ⊢
  obtain ⟨h1, h2, h3, h4, h5, h6, h7, _, h9⟩ := h
  refine ⟨by simpa [sizes] using h1, ?_, h3, h4, h5, h6, h7, hu, h9⟩
  simp only [List.all_map, List.all_eq_true] at h2 ⊢
  intro o ho
  have := h2 o ho
  cases o with
  | none => rfl
  | some r => exact hk r this

theorem outageStart (d : Device) : Sound d d.outageStart := by
  have h1 : Sound d d.outageMode := by
    refine trans (trans (ofMode { d.mode with mode := .outage, lowCount := 0, tally := 0, minutes := 0, framesToMinute := 600 }
      (fun _ => Nat.zero_le _) fun _ => Nat.zero_le _) ?_) (ofDevReasons fun r => { r with mode := true })
    exact served (ofLease { d.lease with grantOrder := 1 })
  have h2 : ∀ d : Device, Sound d d.outageRecords := fun d => mapRecords _ _ (Nat.zero_le _) fun r hr => by
    rw [Record.ok_iff] at *
    unfold Record.outageStart
    dsimp only
    split <;> simp_all [Record.loadWake, Record.loadTest]
  have h3 : ∀ d : Device, Sound d d.outageEntries := fun d => foldl (fun d i => by
    split
    · split
      · exact served (Served.joinEntry _ _ _ _)
      · exact refl _
    · exact refl _) _ _
  exact ((h1.trans (h2 _)).trans (h3 _)).trans (served (Served.examineWake _))

theorem outageEndLeases (d : Device) : Sound d d.outageEndLeases := by
  have h : ∀ e : Device, Sound e (e.lease.claims.foldl (fun d c => d.deferClaim c .mains) e).examineWake := fun e =>
    (foldl (fun d c => served (Served.deferClaim d c .mains)) e.lease.claims e).trans (served (Served.examineWake _))
  have h' := foldl (fun d l => served (Served.endLeaseQuiet d l .mains)) d.lease.leases d
  exact h'.trans (h _)

theorem outageEndWakes (d : Device) : Sound d d.outageEndWakes := by
  have h : Sound d ({ d with wake := { d.wake with queue := d.wake.queue.filter fun e => e.isDiscovery } }) :=
    served (ofWake _ rfl rfl)
  unfold Device.outageEndWakes
  dsimp only
  split
  · split
    · exact h.trans (served ((Served.request _ _ _ _).trans (Served.abandonAttempt _)))
    · exact h.trans (served (Served.examineWake _))
  · exact h.trans (served (Served.examineWake _))

theorem outageEndTests (d : Device) : Sound d d.outageEndTests := by
  have h := foldl (fun d c => handled (Handled.endTestMains d c)) (List.range 4) d
  exact h.trans (served (ofTest _ rfl))

theorem outageEnd (d : Device) : Sound d d.outageEnd := by
  have h1 : Sound d (({ d with mode := { d.mode with mode := .mains, highCount := 0 } } : Device).raiseDev
      fun r => { r with mode := true }) := trans (ofMode { d.mode with mode := .mains, highCount := 0 } (fun h => h) fun h => h)
    (ofDevReasons fun r => { r with mode := true })
  exact ((h1.trans (outageEndLeases _)).trans (outageEndWakes _)).trans (outageEndTests _)

theorem outageMinute (d : Device) : Sound d d.outageMinute := by
  refine trans (trans (ofMode { d.mode with minutes := min (d.mode.minutes + 1) 65535, framesToMinute := 600 }
    (fun _ => Nat.min_le_right _ _) fun h => h) ?_) (ofDue _)
  intro h
  have hu := ((ok_iff _).1 h).2.2.2.2.2.2.2.1
  refine mapRecords Record.minute d.roster.unattributed hu (fun r hr => ?_) h
  rw [Record.ok_iff] at *
  unfold Record.minute
  split <;> dsimp only <;> split <;> simp_all

theorem wakeTimerExpired (d : Device) (i : Nat) : Sound d (d.wakeTimerExpired i) := by
  unfold Device.wakeTimerExpired
  split
  · split
    · exact (ofRec i _ fun r h => by rw [Record.ok_iff] at *; exact h).trans (served (Served.requestEntry _ _ _ _))
    · exact refl _
  · exact refl _

theorem testTimerExpired (d : Device) (i : Nat) : Sound d (d.testTimerExpired i) := by
  unfold Device.testTimerExpired
  split
  · split
    · have h1 : Sound d (d.modRec i Record.loadTest) := ofRec i _ fun r h => by rw [Record.ok_iff] at *; exact h
      dsimp only
      split
      · exact h1
      · exact (h1.trans (served (Served.joinAgenda _ _ _ _))).trans (ofDue _)
    · exact refl _
  · exact refl _

/-! ## Announces and discoveries -/

theorem offerStranger (d : Device) (t : TermId) (l : Option Nat) (f : Count16) : Sound d (d.offerStranger t l f) := by
  unfold Device.offerStranger
  split
  · split
    · exact (ofStrangers _ (Or.inr (by simp))).trans (ofDevReasons _)
    · exact refl _
  · split
    · exact (ofStrangers _ (Or.inl (by simp; omega))).trans (ofDevReasons _)
    · exact fun h => h

theorem handAssign (d : Device) (t : TermId) (n : Nat) : Sound d (d.handAssign t n) := fun h => h

theorem handBackoff (d : Device) (t : TermId) : Sound d (d.handBackoff t) := fun h => h

/-- The record after a transition is in the state that the table gives. -/
theorem transition_rec {d d' : Device} {i : Nat} {t : TermId} {c : Cause} (h : d.transition i t c = some d') :
    ∃ r st, d.rec? i = some r ∧ r.id = t ∧ c.target r.state = some st ∧ d' = d.putRec i (some (r.enter c st))
      ∧ d'.rec? i = some (r.enter c st) := by
  unfold Device.transition at h
  split at h
  · rename_i r hr
    split at h
    · rename_i hid
      split at h
      · rename_i st hst
        have hd := (Option.some.inj h).symm
        rw [modRec_eq hr] at hd
        refine ⟨r, st, hr, hid, hst, hd, ?_⟩
        rw [hd]
        rw [rec?_eq] at hr ⊢
        have : i < d.roster.records.length := by
          rcases Nat.lt_or_ge i d.roster.records.length with h | h
          · exact h
          · rw [List.getElem?_eq_none h] at hr; cases hr
        simp [putRec, this]
      · cases h
    · cases h
  · cases h

theorem ofPut {i : Nat} {r : Option Record} (hk : r.all Record.ok = true) : Sound d (d.putRec i r) := by
  intro h
  rw [ok_iff] at h ⊢
  obtain ⟨h1, h2, h3⟩ := h
  refine ⟨by simpa [sizes, putRec] using h1, ?_, h3⟩
  simp only [putRec, List.all_eq_true] at h2 ⊢
  intro o ho
  rcases List.mem_or_eq_of_mem_set ho with ho | rfl
  · exact h2 o ho
  · exact hk

/-- The slot field set on a record that has just gone ATTACHED. -/
theorem attachedSlot {i : Nat} {r : Record} (h : d.rec? i = some r) (hs : r.state.onSlot = true) (n : Nat) :
    Sound d (d.modRec i fun r => { r with slot := some n }) := by
  intro hk
  rw [modRec_eq h]
  refine ofPut ?_ hk
  have hr : r.ok = true := by
    have := ((ok_iff d).1 hk).2.1
    rw [rec?_eq] at h
    have hm := List.mem_of_getElem? h
    exact (List.all_eq_true.1 this) _ hm
  simp only [Option.all_some]
  rw [Record.ok_iff] at hr ⊢
  simp_all

theorem accept (d : Device) (i : Nat) (c : Cause) (n : Nat) (a : Announce)
    (hc : ∀ s st, c.target s = some st → st = .attached) : Sound d (d.accept i c n a) := by
  unfold Device.accept
  split
  · exact refl _
  · rename_i d1 h1
    obtain ⟨r, st, _, _, hst, _, h2⟩ := transition_rec h1
    have hs := hc _ _ hst
    subst hs
    have h3 : Sound d1 (d1.modRec i fun r => { r with slot := some n }) := attachedSlot h2 rfl n
    refine (served (Served.transition h1)).trans (h3.trans ?_)
    refine (served (Served.assignSlot _ n i a.id)).trans ((handAssign _ a.id n).trans ?_)
    refine bind (ofRec i _ fun r hr => ?_) (fun d => (if (d.clearInHand i).inAgenda i then (d.clearInHand i).examineAgenda
      else d.clearInHand i).completeEviction i a.id) fun d => ?_
    · rw [Record.ok_iff] at *; simp_all
    · refine trans ?_ (served (Served.completeEviction _ _ _))
      split
      · exact served ((Served.clearInHand _ _).trans (Served.examineAgenda _))
      · exact served (Served.clearInHand _ _)

theorem spontaneousTarget (s st : RecState) (h : Cause.spontaneousAnnounce.target s = some st) : st = .attached := by
  revert h; cases s <;> simp [Cause.target]; exact fun h => h.symm

theorem matchingTarget (s st : RecState) (h : Cause.matchingAnnounce.target s = some st) : st = .attached := by
  revert h; cases s <;> simp [Cause.target]; exact fun h => h.symm

theorem boundTarget (s st : RecState) (h : Cause.discoveryBound.target s = some st) : st = .attached := by
  revert h; cases s <;> simp [Cause.target]; exact fun h => h.symm

theorem headCheck (h : Sound d d') : Sound d (d.headCheck d') := by
  unfold Device.headCheck
  split
  · exact h
  · exact h.trans (served (Served.examineWake _))

theorem announceDormant (d : Device) (i : Nat) (a : Announce) : Sound d (d.announceDormant i a) := by
  unfold Device.announceDormant
  split
  · exact headCheck ((served (Served.dropWakeRecord _ _)).trans (accept _ _ _ _ _ spontaneousTarget))
  · exact handBackoff _ _

theorem announceMatch (d : Device) (i : Nat) (b : Attempt) (a : Announce) : Sound d (d.announceMatch i b a) :=
  ((served (Served.stopPulse d)).trans (accept _ _ _ _ _ matchingTarget)).trans
    (served ((Served.clearAttempt _).trans (Served.examineWake _)))

theorem announceAgain (d : Device) (i : Nat) (a : Announce) : Sound d (d.announceAgain i a) := by
  unfold Device.announceAgain
  split
  · split
    · exact announceMatch _ _ _ _
    · exact announceDormant _ _ _
  · exact announceDormant _ _ _

theorem announceSpontaneous (d : Device) (a : Announce) : Sound d (d.announceSpontaneous a) := by
  unfold Device.announceSpontaneous
  split
  · exact (handBackoff _ _).trans (offerStranger _ _ _ _)
  · split
    · exact announceDormant _ _ _
    · exact (handled (Handled.restartTeardown _ _ _)).trans (announceAgain _ _ _)
    · exact (handled (Handled.restartTeardown _ _ _)).trans (announceAgain _ _ _)
    · exact (handled (Handled.restartTeardown _ _ _)).trans (announceAgain _ _ _)
    · exact handBackoff _ _
    · exact (handBackoff _ _).trans (served (Served.raiseRec _ _ _ _))
    · exact refl _
    · exact refl _

theorem endDiscovery (d : Device) (l : Nat) (r : DiscoveryResult) : Sound d (d.endDiscovery l r) :=
  ((ofLine (d := d) l (fun x => { x with discovery := some r }) fun _ h => h).trans
    (ofDevReasons fun r => { r with discovery := true })).trans (served ((Served.clearAttempt _).trans (Served.examineWake _)))

theorem bindLine (d : Device) (i l : Nat) : Sound d (d.bindLine i l) :=
  (ofRec i _ fun r h => by rw [Record.ok_iff] at *; exact h).trans (ofLine l _ fun _ h => h)

theorem decideDiscovery (d : Device) (b : Attempt) (l : Nat) (a : Announce) : Sound d (d.decideDiscovery b l a) := by
  refine bind (served (Served.stopPulse d)) (fun d => match d.findId a.id with
    | none =>
      (((d.freeSlot b.slot).handBackoff a.id).offerStranger a.id (some l) a.frame).endDiscovery l .stranger
    | some i =>
      if d.inState i .pending then
        (((d.bindLine i l).accept i .discoveryBound b.slot a).raiseRec i a.id fun r => { r with bound := true }).endDiscovery l .bound
      else ((d.freeSlot b.slot).handBackoff a.id).endDiscovery l .conflict) fun d => ?_
  have h1 : Sound d ((d.freeSlot b.slot).handBackoff a.id) := (served (Served.freeSlot _ _)).trans (handBackoff _ _)
  split
  · exact (h1.trans (offerStranger _ _ _ _)).trans (endDiscovery _ _ _)
  · split
    · exact ((bindLine _ _ _).trans (accept _ _ _ _ _ boundTarget)).trans
        ((served (Served.raiseRec _ _ _ _)).trans (endDiscovery _ _ _))
    · exact h1.trans (endDiscovery _ _ _)

theorem judgeAnnounce (d : Device) (a : Announce) : Sound d (d.judgeAnnounce a) := by
  unfold Device.judgeAnnounce
  split
  · exact refl _
  · split
    · exact announceSpontaneous _ _
    · split
      · split
        · exact announceMatch _ _ _ _
        · unfold Device.announceForeign
          dsimp only
          split
          · exact (handBackoff _ _).trans (offerStranger _ _ _ _)
          · exact handBackoff _ _
      · exact decideDiscovery _ _ _ _
      · exact announceSpontaneous _ _

theorem discoveryExpired (d : Device) : Sound d d.discoveryExpired := by
  unfold Device.discoveryExpired
  split
  · split
    · split
      · exact ((served (Served.stopPulse _)).trans (served (Served.freeSlot _ _))).trans (endDiscovery _ _ _)
      · exact refl _
    · exact refl _
  · exact refl _

theorem tripUnbound (d : Device) (l : Nat) (s : Switch) : Sound d (d.tripUnbound l s) := by
  refine bind (ofLine (d := d) l (fun x => { x with switch := .off }) fun _ h => h) (fun d => match s, d.wake.attempt with
    | .pulse _ .discovery, some a => match a.target with
      | .discovery m => if m = l then ((d.reportPulseEnd l).freeSlot a.slot).endDiscovery l .short else d
      | .record _ _ _ => d
    | _, _ => d) fun d => ?_
  split
  · split
    · split
      · exact (served ((Served.reportPulseEnd _ _).trans (Served.freeSlot _ _))).trans (endDiscovery _ _ _)
      · exact refl _
    · exact refl _
  · exact refl _

theorem tripped (d : Device) (l : Nat) : Sound d (d.tripped l) := by
  unfold Device.tripped
  split
  · split
    · exact refl _
    · exact refl _
    all_goals
      split
      · exact served (Served.tripBound _ _ _ _)
      · exact tripUnbound _ _ _
  · exact refl _

theorem tripDue (d : Device) (l : Nat) : Sound d (d.tripDue l) := by
  unfold Device.tripDue
  split
  · split
    · exact tripped _ _
    · exact refl _
  · exact refl _

end Sound

end Sys2Proof.Machine
end

