-- ==== Sys2Proof/Laws/SoundTake.lean ====
section
/-! SUPPORT. The scan round, the overdraw notice and the uplink path keep the device's ranges and capacities. -/

namespace Sys2Proof.Machine.Sound

open Device Kept

variable {d d' : Device}

/-! ## Scan round -/

theorem addTally (d : Device) (m : Nat) : Sound d (d.addTally m) :=
  ofMode { d.mode with tally := min (d.mode.tally + m) maxTally } (fun h => h) fun _ => Nat.min_le_right _ _

theorem addUnattributed (d : Device) (m : Nat) : Sound d (d.addUnattributed m) := by
  intro h
  rw [ok_iff] at h ⊢
  obtain ⟨h1, h2, h3, h4, h5, h6, h7, _, h9⟩ := h
  exact ⟨h1, h2, h3, h4, h5, h6, h7, Nat.min_le_right _ _, h9⟩

theorem addCharge (d : Device) (i m : Nat) : Sound d (d.addCharge i m) := by
  refine trans (ofRec i _ fun r h => ?_) (addTally _ m)
  rw [Record.ok_iff] at *
  simp_all

theorem chargeLine (d : Device) (x : Line) (m : Nat) : Sound d (d.chargeLine x m) := by
  unfold Device.chargeLine
  split
  · split
    · exact addCharge _ _ _
    · exact refl _
  · split
    · exact addCharge _ _ _
    · exact refl _
  · split
    · exact addCharge _ _ _
    · exact refl _
  · exact (addUnattributed _ _).trans (addTally _ _)
  · exact refl _

theorem scanLine (d : Device) (l v : Nat) : Sound d (d.scanLine l v) := by
  have h : ∀ (x : Line) (f : Line → Line), (∀ y : Line, y.current ≤ 1500 → (f y).current ≤ 1500) →
      Sound d ((d.chargeLine x (min v 1500)).modLine l f) := fun x f hf => (chargeLine d x _).trans (ofLine l f hf)
  unfold Device.scanLine
  split
  · rename_i x _
    have h' := h x (fun y => { y with
      current := min v 1500, overdraw := d.captureOf y (min v 1500), switch := y.switch.round })
      fun _ _ => Nat.min_le_right v 1500
    have h'' := h x (fun y => { y with
      current := min v 1500, overdraw := (d.chargeLine x (min v 1500)).captureOf y (min v 1500), switch := y.switch.round })
      fun _ _ => Nat.min_le_right v 1500
    clear h
    generalize min v 1500 = m at h' h'' ⊢
    dsimp only
    split
    · exact h'.trans (ofDue _)
    · exact h'
  · exact refl _

theorem measure_le (m : ModeCtl) (s : Settings) (v : Nat) : (m.measure s v).minutes = m.minutes ∧ (m.measure s v).tally = m.tally := by
  unfold ModeCtl.measure
  split
  · exact ⟨rfl, rfl⟩
  · split <;> exact ⟨rfl, rfl⟩

theorem scanReserve (d : Device) (v : Nat) : Sound d (d.scanReserve v) := by
  have h : Sound d { d with reserve := min v 3000, mode := d.mode.measure d.settings (min v 3000) } := by
    intro h
    obtain ⟨hm, ht⟩ := measure_le d.mode d.settings (min v 3000)
    rw [ok_iff] at h ⊢
    obtain ⟨h1, h2, h3, h4, h5, h6, _, h8, h9, h10, h11⟩ := h
    exact ⟨h1, h2, h3, h4, h5, h6, Nat.min_le_right _ _, h8, hm ▸ h9, ht ▸ h10, h11⟩
  unfold Device.scanReserve
  generalize min v 3000 = w at h ⊢
  dsimp only
  split
  · exact h.trans (ofDue _)
  · exact h.trans (judgeRations _)

theorem scanLines (ps : List (Nat × Nat)) (d : Device) : Sound d (ps.foldl (fun d p => d.scanLine p.1 p.2) d) := by
  induction ps generalizing d with
  | nil => exact refl _
  | cons p ps ih => exact (scanLine d p.1 p.2).trans (ih _)

theorem scanRound (d : Device) (cs : List Nat) (v : Nat) : Sound d (d.scanRound cs v) := by
  have h0 : Sound d { d with scanned := true } := fun h => h
  have h := h0.trans (scanLines ((List.range 64).zip cs) { d with scanned := true })
  unfold Device.scanRound
  generalize List.foldl _ ({ d with scanned := true } : Device) _ = e at h ⊢
  exact h.trans (scanReserve e v)

theorem takeNotice (d : Device) (l : Nat) : Sound d (d.takeNotice l) := by
  unfold Device.takeNotice
  split
  · split
    · have h : Sound d (d.modLine l fun x => { x with overdraw := none }) := ofLine l _ fun _ h => h
      dsimp only
      split
      · split
        · exact h
        · split
          · exact h.trans ((served (ofLease _)).trans (served (Served.post _ _ _ _)))
          · exact h.trans (served (Served.quarantineD _ _ _ _))
      · exact h
    · exact refl _
  · exact refl _

/-! ## Uplink -/

theorem enterFifo (d : Device) (e : FifoEntry) : Sound d (d.enterFifo e) := by
  unfold Device.enterFifo
  split
  · refine ofRiser _ rfl (Or.inl ?_)
    simp only [List.length_append, List.length_cons, List.length_nil]
    omega
  · exact refl _

theorem attachUplink (d : Device) (w : List Byte) : Sound d (d.attachUplink w) := by
  have h : Sound d { d with riser := { d.riser with half := 3, drive := none } } := ofRiser _ rfl (Or.inr (Nat.le_refl _))
  unfold Device.attachUplink
  dsimp only
  split
  · exact h.trans (enterFifo _ _)
  · exact h

theorem terminalUplink (d : Device) (n : Nat) (w : List Byte) : Sound d (d.terminalUplink n w) := by
  have h : Sound d { d with riser := { d.riser with half := 2 * n + 1, drive := none } } := ofRiser _ rfl (Or.inr (Nat.le_refl _))
  unfold Device.terminalUplink
  dsimp only
  split
  · split
    · split
      · split
        · refine (h.trans (served (ofHolder _ _ fun x hx => ?_))).trans (enterFifo _ _)
          rw [Holder.ok_iff] at *
          simp_all
        · exact h
      · exact h
      · exact h
      · exact h
    · exact h
  · exact h

theorem holderOk {n : Nat} {s : Slot} {h : Holder} (hd : d.ok = true) (hs : d.slot? n = some s) (hu : s.use = .held h) :
    h.ok = true := by
  have h3 := ((ok_iff d).1 hd).2.2.1
  unfold Device.slot? at hs
  split at hs
  · cases hs
  · have := List.all_eq_true.1 h3 s (List.mem_of_getElem? hs)
    simpa [Slot.ok, hu] using this

theorem deliver (n : Nat) {h : Holder} (hh : h.ok = true) (a : Option Nat) : Sound d (d.deliver n h a).1 := by
  refine served (Served.deliver d n h (fun x hx hq => ?_) a)
  obtain ⟨e, es, he⟩ := List.exists_cons_of_ne_nil hq
  have ht := Holder.ok_tail hh he
  rw [Holder.ok_iff] at hx ht ⊢
  rw [he]
  exact ⟨ht.1, ht.2.1, hx.2.2.1, ht.2.2.2.1, hx.2.2.2.2⟩

theorem resetIdle (d : Device) (i : Nat) : Sound d (d.resetIdle i) := ofRec i _ fun r h => by
  rw [Record.ok_iff] at *; simp_all

theorem takeRestRequest (d : Device) (i : Nat) (t : TermId) : Sound d (d.takeRestRequest i t) := by
  unfold Device.takeRestRequest
  split
  · exact served (Served.post _ _ _ _)
  · exact refl _

theorem takeReport (d : Device) (i : Nat) (t : TermId) (b : BatteryReport) : Sound d (d.takeReport i t b) := by
  have h : Sound d (d.modRec i fun r => { r with report := some b }) := ofRec i _ fun r h => by
    rw [Record.ok_iff] at *; exact h
  exact (h.trans (handled (Handled.testReport _ _ _))).trans (served (Served.leaseReport _ _ _ _))

theorem dispatch (d : Device) (i : Nat) (t : TermId) (w : List Byte) : Sound d (d.dispatch i t w) := by
  unfold Device.dispatch
  split
  · exact (resetIdle _ _).trans (served (Served.takeClaim _ _ _ _))
  · exact (resetIdle _ _).trans (served (Served.takeRenew _ _ _))
  · exact (resetIdle _ _).trans (served (Served.takeRelease _ _ _))
  · exact takeReport _ _ _ _
  · exact (resetIdle _ _).trans (takeRestRequest _ _ _)
  all_goals exact refl _

theorem takeSequence (d : Device) (n : Nat) (h : Holder) (w : List Byte) : Sound d (d.takeSequence n h w) := by
  unfold Device.takeSequence
  split
  · exact refl _
  · refine trans (served (ofHolder _ _ fun x hx => ?_)) (dispatch _ _ _ _)
    rw [Holder.ok_iff] at *
    exact hx

theorem takeTerminal (d : Device) (n : Nat) (k : Count16) (w : List Byte) : Sound d (d.takeTerminal n k w) := by
  intro hd
  unfold Device.takeTerminal
  split
  · rename_i s hs
    split
    · rename_i h hu
      split
      · have h1 := deliver (d := d) n (holderOk hd hs hu) (upAck w) hd
        dsimp only
        split
        · exact takeSequence _ _ _ _ h1
        · exact h1
      · exact hd
    all_goals exact hd
  · exact hd

theorem takeWord (d : Device) : Sound d d.takeWord := by
  unfold Device.takeWord
  split
  · exact refl _
  · rename_i e es he
    have h : Sound d { d with riser := { d.riser with fifo := es } } := ofRiser _ rfl (Or.inr (by simp [he]))
    dsimp only
    split
    · split
      · exact h.trans (judgeAnnounce _ _)
      · exact h
    · exact h.trans (takeTerminal _ _ _ _)

theorem takeRow (d : Device) (k : UpKind) : Sound d (d.takeRow k) := by
  unfold Device.takeRow
  split
  · exact refl _
  · split
    · exact takeWord _
    · exact refl _

end Sys2Proof.Machine.Sound
end

