-- ==== Sys2Proof/Laws/SoundFrame.lean ====
section
/-! SUPPORT. The frame start, the downlink halves, the due events and the resets keep the device's ranges and capacities. -/

namespace Sys2Proof.Machine.Sound

open Device Kept

variable {d d' : Device}

/-! ## The frame start -/

theorem slotFrame (s : Slot) (h : s.ok = true) : s.frame.ok = true := by
  obtain ⟨hold, use⟩ := s
  cases use with
  | held x =>
    change x.ok = true at h
    rw [Holder.ok_iff] at h
    obtain ⟨h1, h2, h3, h4, h5⟩ := h
    unfold Slot.frame
    by_cases hx : x.isOpen = true
    · simp only [hx, if_true]
      exact (Holder.ok_iff _).2 ⟨h1, h2, h3, h4, Nat.min_le_right _ _⟩
    · simp only [hx]
      exact (Holder.ok_iff _).2 ⟨h1, h2, h3, h4, h5⟩
  | free => rfl
  | reserved c => rfl
  | releasing => rfl

theorem frameRiser (d : Device) : Sound d d.frameRiser := by
  intro h
  rw [ok_iff] at h ⊢
  obtain ⟨h1, h2, h3, h4, h5⟩ := h
  refine ⟨by simpa [sizes, Device.frameRiser] using h1, h2, ?_, h4, h5⟩
  simp only [Device.frameRiser, List.all_map, List.all_eq_true] at h3 ⊢
  exact fun s hs => slotFrame s (h3 s hs)

theorem idleEligible_state {i : Nat} {r : Record} (h : d.idleEligible i = true) (hr : d.rec? i = some r) :
    r.state = .attached := by
  simp only [Device.idleEligible, hr, Bool.and_eq_true, beq_iff_eq] at h
  exact h.1.1.1

theorem mem_rec? {i : Nat} {r : Record} (hd : d.ok = true) (hr : d.rec? i = some r) : r.ok = true := by
  rw [rec?_eq] at hr
  exact List.all_eq_true.1 ((ok_iff d).1 hd).2.1 _ (List.mem_of_getElem? hr)

theorem modRec_congr {i : Nat} {f g : Record → Record} (h : ∀ r, d.rec? i = some r → f r = g r) :
    d.modRec i f = d.modRec i g := by
  have e : d.roster.records.modify i (Option.map f) = d.roster.records.modify i (Option.map g) := by
    refine List.ext_getElem? fun j => ?_
    simp only [List.getElem?_modify]
    cases hj : d.roster.records[j]? with
    | none => rfl
    | some o =>
      by_cases hij : i = j
      · cases o with
        | none => simp
        | some r => simp [hij, h r (rec?_eq.2 (hij ▸ hj))]
      · simp [hij]
  unfold modRec
  rw [e]

/-- The raise of one record's idle frames (R73). -/
theorem raiseIdle {i : Nat} (h : ∀ r, d.rec? i = some r → r.state = .attached) :
    Sound d (d.modRec i fun r => { r with idle := min (r.idle + 1) 65535 }) := by
  rw [modRec_congr (g := fun r => if r.state = .attached then { r with idle := min (r.idle + 1) 65535 } else r)
    fun r hr => by simp [h r hr]]
  refine ofRec i _ fun r hr => ?_
  split
  · rename_i hs
    rw [Record.ok_iff] at *
    simp_all
  · exact hr

theorem raiseIdle_state {j : Nat} {r : Record} (i : Nat)
    (h : (d.modRec i fun r => { r with idle := min (r.idle + 1) 65535 }).rec? j = some r) :
    ∃ r', d.rec? j = some r' ∧ r'.state = r.state := by
  rw [rec?_eq] at h
  simp only [modRec, List.getElem?_modify] at h
  cases hj : d.roster.records[j]? with
  | none => simp [hj] at h
  | some o =>
    rw [hj] at h
    by_cases hij : i = j
    · cases o with
      | none => simp [hij] at h
      | some r' =>
        refine ⟨r', rec?_eq.2 hj, ?_⟩
        simp only [hij, if_true, Option.map_eq_map, Option.map_some, Option.some.injEq] at h
        rw [← h]
    · simp only [hij, if_false, Option.map_eq_map, Option.map_some, Option.some.injEq] at h
      exact ⟨r, rec?_eq.2 (h ▸ hj), rfl⟩

theorem frameIdle (d was : Device) (h : ∀ i r, was.idleEligible i = true → d.rec? i = some r → r.state = .attached) :
    Sound d (d.frameIdle was) := by
  unfold Device.frameIdle
  generalize List.range 80 = l
  induction l generalizing d with
  | nil => exact refl _
  | cons i l ih =>
    simp only [List.foldl_cons]
    split
    · rename_i hi
      refine (raiseIdle fun r => h i r hi).trans (ih _ fun j r hj hr => ?_)
      obtain ⟨r', hr', hs⟩ := raiseIdle_state i hr
      rw [← hs]; exact h j r' hj hr'
    · exact ih _ h

theorem frameCountdowns (d : Device) : Sound d d.frameCountdowns := by
  intro h
  rw [ok_iff] at h ⊢
  obtain ⟨h1, h2, h3, h4, h5, h6, h7⟩ := h
  refine ⟨by simpa [sizes, Device.frameCountdowns] using h1, h2, h3, h4, h5, ?_, h7⟩
  simp only [Device.frameCountdowns, List.all_map, List.all_eq_true] at h6 ⊢
  exact h6

theorem sample_kept (m : ModeCtl) (s : Settings) (b : Bool) :
    (m.sample s b).1.minutes = m.minutes ∧ (m.sample s b).1.tally = m.tally := by
  unfold ModeCtl.sample
  split <;> exact ⟨rfl, rfl⟩

theorem clock_kept (m : ModeCtl) (e : Option Due) : (m.clock e).1.minutes = m.minutes ∧ (m.clock e).1.tally = m.tally := by
  unfold ModeCtl.clock
  split <;> exact ⟨rfl, rfl⟩

theorem frameMode (d : Device) (b : Bool) : Sound d (d.frameMode b).1 := by
  have h1 := sample_kept d.mode d.settings b
  have h2 := clock_kept (d.mode.sample d.settings b).1 (d.mode.sample d.settings b).2
  have h : Sound d { d with mode := ((d.mode.sample d.settings b).1.clock (d.mode.sample d.settings b).2).1 } :=
    ofMode _ (fun h => by rw [h2.1, h1.1]; exact h) fun h => by rw [h2.2, h1.2]; exact h
  unfold Device.frameMode
  dsimp only
  split
  · exact h
  · exact h.trans (ofDevReasons _)

theorem frameExamine (d was : Device) : Sound d (d.frameExamine was) := by
  have h : Sound d (if d.evictionStale then d.setEviction none else d) := by
    split
    · exact served (Served.setEviction _ _)
    · exact refl _
  unfold Device.frameExamine
  dsimp only
  split
  · exact h.trans (served (Served.examineWake _))
  · exact h

theorem finish (d : Device) : Sound d d.finish := by
  unfold Device.finish
  split
  · exact (ofDue (d := d) _).trans (served (Served.examineAgenda _))
  · exact refl _

theorem frameStart (d : Device) (b : Bool) : Sound d (d.frameStart b) := by
  have h1 : Sound d ((d.frameRiser.frameIdle d).frameCountdowns) :=
    ((frameRiser d).trans (frameIdle d.frameRiser d fun i r hi hr => idleEligible_state (d := d) hi hr)).trans (frameCountdowns _)
  have h2 := h1.trans (frameMode _ b)
  unfold Device.frameStart
  dsimp only
  exact ((h2.trans (ofDue _)).trans (frameExamine _ _)).trans (finish _)

/-! ## Downlink halves -/

theorem drive (d : Device) (n : Nat) (w : Option (List Byte)) : Sound d (d.drive n w) := ofRiser _ rfl (Or.inr (Nat.le_refl _))

theorem beacon (d : Device) : Sound d d.beacon := drive _ _ _

theorem beaconFirst (d : Device) : Sound d d.beaconFirst := by
  unfold Device.beaconFirst
  split
  · exact beacon d
  · exact refl d

theorem attachWord (d : Device) : Sound d d.attachWord :=
  (drive d 1 (some d.attachChoice.bytes)).trans (ofRiser _ rfl (Or.inr (Nat.le_refl _)))

theorem terminalDownlink (d : Device) (n : Nat) : Sound d (d.terminalDownlink n) := by
  unfold Device.terminalDownlink
  split
  · rename_i h hu
    split
    · split
      · exact drive _ _ _
      · rename_i e es he
        split
        · exact (drive _ _ _).trans (handled (Handled.declareLost _ _ _))
        · intro hd
          obtain ⟨s, hs, hs'⟩ := Option.map_eq_some_iff.1 hu
          have hk := holderOk hd hs hs'
          refine (served (ofHolder n _ fun x hx => ?_)).trans (drive _ _ _) hd
          rw [Holder.ok_iff] at *
          rw [he] at hk
          obtain ⟨k1, k2, _, k4, _⟩ := hk
          refine ⟨by simpa using k1, ?_, hx.2.2.1, ?_, hx.2.2.2.2⟩
          · rw [kindsDistinct_cons] at *; exact k2
          · intro y hy
            rcases List.mem_cons.1 hy with rfl | hy
            · exact k4 e List.mem_cons_self
            · exact k4 y (List.mem_cons_of_mem _ hy)
    · exact drive _ _ _
  · exact drive _ _ _

theorem repeatLimitLost (d : Device) (n : Nat) : Sound d (d.repeatLimitLost n) := by
  unfold Device.repeatLimitLost
  split
  · split
    · split
      · exact (drive _ _ _).trans (handled (Handled.declareLost _ _ _))
      · exact refl _
    · exact refl _
  · exact refl _

/-! ## Due events -/

theorem handle (d : Device) (e : Due) : Sound d (d.handle e) := by
  cases e with
  | outageStart => exact outageStart d
  | outageEnd => exact outageEnd d
  | outageMinute => exact outageMinute d
  | wakeTimer i => exact wakeTimerExpired d i
  | testTimer i => exact testTimerExpired d i
  | silenceLost n => exact handled (Handled.silenceLost d n)
  | idleRest i => exact served (Served.idleRest d i)
  | pulseEnd l => exact served (Served.pulseEnded d l)
  | attachWindow => exact handled (Handled.attachExpired d)
  | discoveryWindow => exact discoveryExpired d
  | leaseExpiry i => exact served (Served.leaseExpired d i)
  | claimWait i => exact served (Served.claimWaitExpired d i)
  | testWindow c => exact handled (Handled.testExpired d c _)
  | testBegin c => exact handled (Handled.testExpired d c _)
  | softstart l => exact served (Served.softstartDone d l)
  | trip l => exact tripDue d l
  | levelChange => exact changeLevel d
  | rations => exact judgeRations d
  | agendaExam => exact served (Served.examineAgenda d)

theorem handleFirst (d : Device) : Sound d d.handleFirst := by
  unfold Device.handleFirst
  split
  · exact refl _
  · rename_i e es _
    exact ((ofDue (d := d) es).trans (handle _ e)).trans (finish _)

theorem settleLoop : ∀ (k : Nat) (d : Device), Sound d (settleLoop k d)
  | 0, d => refl _
  | k + 1, d => by
    unfold Device.settleLoop
    split
    · exact refl _
    · exact (handleFirst d).trans (settleLoop k _)

theorem settle (d : Device) : Sound d d.settle := settleLoop _ _

theorem hastenLoop (e : Due) : ∀ (k : Nat) (d : Device), Sound d (Device.hastenLoop e k d)
  | 0, d => refl _
  | k + 1, d => by
    unfold Device.hastenLoop
    split
    · split
      · exact (handleFirst d).trans (hastenLoop e k _)
      · exact refl _
    · exact refl _

theorem takeDue (d : Device) (e : Due) : Sound d (d.takeDue e) := by
  unfold Device.takeDue
  split
  · exact (((hastenLoop e _ d).trans (ofDue _)).trans (handle _ e)).trans (finish _)
  · exact refl _

theorem tick (d : Device) : Sound d d.tick := by
  unfold Device.tick
  split
  · exact refl _
  · split
    · exact handleFirst d
    · split
      · exact takeWord d
      · split
        · exact takeNotice d _
        · exact refl _

/-! ## Resets -/

theorem warm (r : Record) (h : r.ok = true) : r.warm.ok = true := by
  rw [Record.ok_iff] at *
  unfold Record.warm Record.loadTest Record.loadWake
  dsimp only
  cases hs : r.state <;> simp_all [RecState.onSlot]

theorem resetTo (d : Device) (k : ResetKind) : Sound d (d.resetTo k) := by
  intro h
  rw [ok_iff] at h ⊢
  obtain ⟨h1, h2, h3, h4, h5, h6, h7, h8, h9, h10, h11⟩ := h
  refine ⟨?_, ?_, by rfl, Nat.zero_le _, Nat.zero_le _, ?_, Nat.zero_le _, Nat.zero_le _, Nat.zero_le _, Nat.zero_le _, ?_⟩
  · simp only [sizes, Bool.and_eq_true, beq_iff_eq] at h1 ⊢
    obtain ⟨⟨⟨⟨a, b⟩, _⟩, _⟩, _⟩ := h1
    refine ⟨⟨⟨⟨?_, ?_⟩, rfl⟩, rfl⟩, by simp [Device.resetTo, HostPort.initial]⟩
    · cases k <;> simp [Device.resetTo, a]
    · simpa [Device.resetTo] using b
  · cases k
    · simp only [Device.resetTo, List.all_map, List.all_eq_true] at h2 ⊢
      intro o ho
      have := h2 o ho
      cases o with
      | none => rfl
      | some r => exact warm r this
    · simp [Device.resetTo]
  · simp only [Device.resetTo, List.all_map, List.all_eq_true]
    intro x _
    cases k <;> simp [Line.after, Line.initial]
  · cases k
    · exact h11
    · rfl

theorem startUp (d : Device) (k : ResetKind) : Sound d (d.startUp k) := fun h => h

theorem ofSupply (u : Supply) : Sound d { d with supply := u } := fun h => h

theorem ofFree (n : Nat) : Sound d { d with freeCount := n } := fun h => h

theorem resetAndStart (d : Device) (k : ResetKind) : Sound d (d.resetAndStart k) := by
  unfold Device.resetAndStart
  split
  · exact (resetTo d k).trans (startUp _ k)
  · exact (resetTo d k).trans (ofSupply _)

theorem vinFalls (d : Device) : Sound d d.vinFalls := fun h => h

theorem vinReturns (d : Device) (b : Bool) : Sound d (d.vinReturns b) := by
  unfold Device.vinReturns
  split
  · exact refl _
  · exact (ofSupply _).trans (resetAndStart _ _)

theorem keepFalls (d : Device) : Sound d d.keepFalls := by
  unfold Device.keepFalls
  dsimp only
  split
  · exact (ofSupply (d := d) _).trans (resetAndStart _ _)
  · exact ofSupply _

theorem resetNFalls (d : Device) : Sound d d.resetNFalls := by
  unfold Device.resetNFalls
  dsimp only
  split
  · exact (ofSupply (d := d) _).trans (resetAndStart _ _)
  · exact ofSupply _

theorem resetNLow (d : Device) (n : Nat) : Sound d (d.resetNLow n) := by
  unfold Device.resetNLow
  split
  · exact refl _
  · split
    · dsimp only
      split
      · exact (ofFree (d := d) _).trans (resetNFalls _)
      · exact ofFree _
    · exact resetNFalls _

theorem resetNRises (d : Device) : Sound d d.resetNRises := by
  unfold Device.resetNRises
  dsimp only
  split
  · exact (ofSupply (d := d) _).trans (startUp _ _)
  · exact ofSupply _

end Sys2Proof.Machine.Sound
end

