-- ==== Sys2Proof/Laws/SoundPort.lean ====
section
/-! SUPPORT. The requests and transactions at the host port, and the TRIP_N pins, keep the device's ranges and capacities. -/

namespace Sys2Proof.Machine.Sound

open Device Kept

variable {d d' : Device}

/-- A port that keeps its table of record reasons in size. -/
theorem ofPort (q : HostPort) (h : q.records.length = d.port.records.length) : Sound d { d with port := q } := by
  intro hd
  rw [ok_iff] at hd ⊢
  obtain ⟨h1, h2⟩ := hd
  exact ⟨by simpa [sizes, h] using h1, h2⟩

/-! ## Settings -/

theorem restartLevel (d : Device) (old : Settings) : Sound d (d.restartLevel old) := by
  unfold Device.restartLevel
  dsimp only
  split
  · exact refl _
  · exact ofMode _ (fun h => h) fun h => h

theorem followCeiling (d : Device) : Sound d d.followCeiling := by
  have h : Sound d { d with mode := { d.mode with ceiling := d.settings.ceilingOf d.mode.level } } :=
    ofMode _ (fun h => h) fun h => h
  unfold Device.followCeiling
  generalize d.settings.ceilingOf d.mode.level = c at h ⊢
  dsimp only
  split
  · exact h.trans (served ((Served.shed _).trans (Served.examineWake _)))
  · split
    · exact h.trans (served ((Served.serve _).trans (Served.examineWake _)))
    · exact refl _

theorem ofSettings (s : Settings) (h : s.ordered = true) : Sound d { d with settings := s } := by
  intro hd
  rw [ok_iff] at hd ⊢
  obtain ⟨h1, h2, h3, h4, h5, h6, h7, h8, h9, h10, _⟩ := hd
  exact ⟨h1, h2, h3, h4, h5, h6, h7, h8, h9, h10, h⟩

theorem carryConfigure (p : List Byte) (d : Device) : Sound d (Device.carryConfigure p d).1 := by
  unfold Device.carryConfigure
  split
  · exact refl _
  · dsimp only
    split
    · rename_i h
      exact ((ofSettings _ h.2.2.2.2).trans (restartLevel _ _)).trans (followCeiling _)
    · exact refl _

/-! ## The roster -/

theorem enrolled (t : TermId) (c : Class) (es : List (Nat × Nat)) : (Record.enrolled t c es).ok = true := by
  rw [Record.ok_iff]
  unfold Record.enrolled Record.loadTest Record.loadWake
  dsimp only
  simp [maxCharge]

theorem ofBind (l : Nat) (o : Option Nat) : Sound d (d.modLine l fun x => { x with binding := o }) := ofLine l _ fun _ h => h

theorem enrol (d : Device) (t : TermId) (c : Class) (es : List (Nat × Nat)) : Sound d (d.enrol t c es).1 := by
  unfold Device.enrol
  split
  · exact refl _
  · split
    · exact refl _
    · split
      · exact refl _
      · have h : ∀ i : Nat, Sound d (d.putRec i (some (Record.enrolled t c es))) := fun i => ofPut (by simp [enrolled])
        dsimp only
        split
        · exact (h _).trans (ofBind _ _)
        · exact h _

theorem carryEnrol (p : List Byte) (d : Device) : Sound d (Device.carryEnrol p d).1 := by
  unfold Device.carryEnrol
  dsimp only
  split
  · split
    · exact enrol _ _ _ _
    · exact refl _
  · exact refl _

theorem withKey (d : Device) (p : List Byte) (go : Nat → Record → Device × Answer) (h : ∀ i r, Sound d (go i r).1) :
    Sound d (d.withKey p go).1 := by
  unfold Device.withKey
  split
  · exact refl _
  · exact refl _
  · split
    · exact h _ _
    · exact refl _

theorem inOutageMode (d : Device) (p : List Byte) (go : Nat → Record → Device × Answer) (h : ∀ i r, Sound d (go i r).1) :
    Sound d (d.inOutageMode p go).1 := by
  unfold Device.inOutageMode
  split
  · exact refl _
  · exact refl _
  · split
    · exact withKey _ _ _ h
    · exact refl _

theorem bare (d : Device) (p : List Byte) (go : Device × Answer) (h : Sound d go.1) : Sound d (d.bare p go).1 := by
  unfold Device.bare
  split
  · exact h
  · exact refl _

theorem unlatch (d : Device) (i : Nat) : Sound d (d.onLineOf i Device.orderUnlatch) :=
  served (Served.onLineOf _ _ _ Served.orderUnlatch)

theorem leaveLine (d : Device) (r : Record) : Sound d (d.leaveLine r) := by
  unfold Device.leaveLine
  split
  · exact (ofBind _ _).trans (served (Served.orderUnlatch _ _))
  · exact refl _

theorem amendLine (d : Device) (i : Nat) (r : Record) (l : Option Nat) : Sound d (d.amendLine i r l) := by
  unfold Device.amendLine
  split
  · exact refl _
  · split
    · have h : ∀ l : Nat, Sound d ((d.leaveLine r).bindLine i l) := fun l => (leaveLine d r).trans (bindLine _ _ _)
      dsimp only
      split
      · exact (h _).trans (served (Served.request _ _ _ _))
      · exact h _
    · have h : Sound d (((((d.leaveLine r).request i r.id .amendRemovedLine).modRec i fun r => { r with line := none }).dropWakeRecord
          i).removeAgenda i) := by
        refine trans (trans ((leaveLine d r).trans (served (Served.request _ i r.id .amendRemovedLine)))
          (ofRec i (fun r => { r with line := none }) fun r hr => ?_))
          (served ((Served.dropWakeRecord _ i).trans (Served.removeAgenda _ i)))
        rw [Record.ok_iff] at *
        exact hr
      dsimp only
      split
      · exact h.trans (served (Served.examineAgenda _))
      · exact h

theorem amend (r : Record) (es : List (Nat × Nat)) (h : r.ok = true) : (r.amend es).ok = true := by
  rw [Record.ok_iff] at *
  unfold Record.amend Record.loadWake Record.loadTest
  dsimp only
  split <;> split <;> split <;> exact h

theorem amendRecord (d : Device) (i : Nat) (r : Record) (es : List (Nat × Nat)) : Sound d (d.amendRecord i r es) := by
  have h : Sound d (d.modRec i fun r => r.amend es) := ofRec i _ fun r => amend r es
  unfold Device.amendRecord
  dsimp only
  refine headCheck ?_
  split
  · exact h.trans (amendLine _ _ _ _)
  · exact h

theorem carryAmend (p : List Byte) (d : Device) : Sound d (Device.carryAmend p d).1 := by
  unfold Device.carryAmend
  split
  · exact refl _
  · split
    · exact refl _
    · refine withKey _ _ _ fun i r => ?_
      split
      · exact refl _
      · split
        · exact refl _
        · exact amendRecord _ _ _ _

theorem dropReasons (d : Device) (i : Nat) : Sound d (d.dropReasons i) := ofPort _ (by simp)

theorem retireRecord (d : Device) (i : Nat) : Sound d (d.retireRecord i) := by
  unfold Device.retireRecord
  split
  · rename_i r _
    have h1 : Sound d (d.modRec i fun r => { r with state := .quarantined, slot := none, lease := false, idle := 0 }) :=
      ofRec i _ fun r hr => by rw [Record.ok_iff] at *; simp_all
    have h2 := (((h1.trans (served (Served.teardown _ i r.id .retire))).trans (unlatch _ i)).trans (addUnattributed _ r.charge))
    dsimp only
    refine trans ?_ ((dropReasons _ i).trans (ofPut (by rfl)))
    split
    · exact h2.trans (ofBind _ _)
    · exact h2
  · exact refl _

theorem carryRetire (p : List Byte) (d : Device) : Sound d (Device.carryRetire p d).1 :=
  withKey _ _ _ fun i _ => retireRecord d i

theorem carryPurge (p : List Byte) (d : Device) : Sound d (Device.carryPurge p d).1 :=
  bare _ _ _ (foldl retireRecord _ _)

theorem reinstateRecord (d : Device) (i : Nat) (r : Record) : Sound d (d.reinstateRecord i r) :=
  ((served (Served.request d i r.id .reinstate)).trans
    (ofRec i (fun r => { r with failedWakes := 0, lost := 0 }) fun r hr => by rw [Record.ok_iff] at *; simp_all)).trans (unlatch _ i)

theorem carryReinstate (p : List Byte) (d : Device) : Sound d (Device.carryReinstate p d).1 :=
  withKey _ _ _ fun i r => by
    split
    · exact reinstateRecord _ _ _
    · exact refl _

/-! ## Wakes, tests, discoveries -/

theorem carryWake (p : List Byte) (d : Device) : Sound d (Device.carryWake p d).1 :=
  inOutageMode _ _ _ fun i r => by
    split
    · exact refl _
    · split
      · exact refl _
      · exact served (Served.requestEntry _ _ _ _)

theorem carryTest (p : List Byte) (d : Device) : Sound d (Device.carryTest p d).1 :=
  inOutageMode _ _ _ fun i r => by
    split
    · exact refl _
    · split
      · exact refl _
      · exact served ((Served.joinAgenda _ _ _ _).trans (Served.examineAgenda _))

theorem carryDiscover (p : List Byte) (d : Device) : Sound d (Device.carryDiscover p d).1 := by
  unfold Device.carryDiscover
  dsimp only
  split
  · exact refl _
  · split
    · exact refl _
    · split
      · exact refl _
      · split
        · exact refl _
        · exact headCheck (served (Served.joinWake _ _ _))

/-! ## Requests that read -/

theorem carryIdentify (p : List Byte) (d : Device) : Sound d (Device.carryIdentify p d).1 := bare _ _ _ (refl _)

theorem carryReadConfig (p : List Byte) (d : Device) : Sound d (Device.carryReadConfig p d).1 := by
  unfold Device.carryReadConfig
  split <;> exact refl _

theorem carryLookup (p : List Byte) (d : Device) : Sound d (Device.carryLookup p d).1 := by
  unfold Device.carryLookup
  dsimp only
  split
  · exact refl _
  · split
    · exact refl _
    · exact refl _
    · split <;> exact refl _

theorem carryScanNext (p : List Byte) (d : Device) : Sound d (Device.carryScanNext p d).1 := by
  unfold Device.carryScanNext
  dsimp only
  split
  · exact refl _
  · split <;> exact refl _

theorem carryReserveStatus (p : List Byte) (d : Device) : Sound d (Device.carryReserveStatus p d).1 := bare _ _ _ (refl _)

theorem carryAttentionRead (p : List Byte) (d : Device) : Sound d (Device.carryAttentionRead p d).1 := by
  unfold Device.carryAttentionRead
  split <;> exact refl _

theorem carryStrangersRead (p : List Byte) (d : Device) : Sound d (Device.carryStrangersRead p d).1 := bare _ _ _ (refl _)

/-! ## Attention and reset -/

theorem clearStrangers (d : Device) : Sound d d.clearStrangers := by
  intro h
  rw [ok_iff] at h ⊢
  obtain ⟨h1, h2, h3, h4, _, h6⟩ := h
  exact ⟨h1, h2, h3, h4, Nat.zero_le _, h6⟩

theorem clearDevice (d : Device) (b : Byte) : Sound d (d.clearDevice b) := by
  have h : Sound d (d.raiseDev fun r => r.clear b) := ofDevReasons _
  unfold Device.clearDevice
  dsimp only
  split
  · exact h.trans (clearStrangers _)
  · exact h

theorem clearRecord (d : Device) (i : Nat) (b : Byte) : Sound d (d.clearRecord i b) := ofPort _ (by simp)

theorem carryAttentionClear (p : List Byte) (d : Device) : Sound d (Device.carryAttentionClear p d).1 := by
  unfold Device.carryAttentionClear
  dsimp only
  split
  · exact refl _
  · split
    · split
      · exact refl _
      · exact clearDevice _ _
    · split
      · exact refl _
      · split
        · exact refl _
        · exact clearRecord _ _ _

theorem carryReset (p : List Byte) (d : Device) : Sound d (Device.carryReset p d).1 := by
  unfold Device.carryReset
  split
  · exact (resetTo d .warm).trans (startUp _ _)
  · exact (resetTo d .cold).trans (startUp _ _)
  · exact refl _

theorem carryCode (c : Byte) (p : List Byte) (d : Device) : Sound d (d.carryCode c p).1 := by
  unfold Device.carryCode
  split
  · exact carryIdentify p d
  · exact carryConfigure p d
  · exact carryReadConfig p d
  · exact carryEnrol p d
  · exact carryAmend p d
  · exact carryRetire p d
  · exact carryPurge p d
  · exact carryReinstate p d
  · exact carryLookup p d
  · exact carryScanNext p d
  · exact carryWake p d
  · exact carryTest p d
  · exact carryDiscover p d
  · exact carryReserveStatus p d
  · exact carryAttentionRead p d
  · exact carryAttentionClear p d
  · exact carryStrangersRead p d
  · exact carryReset p d
  · exact refl _

/-! ## Transactions -/

theorem shiftOut (d : Device) (bs : List (Option Byte)) (n : Nat) : Sound d (d.shiftOut bs n) := fun h => h

theorem place (d : Device) (a : Answer) : Sound d (d.place a) := fun h => h

theorem requestTransaction (d : Device) (bs : List Byte) (carry : Device → Device × Option Answer)
    (h : ∀ d, Sound d (carry d).1) : Sound d (d.requestTransaction bs carry) := by
  have h1 := shiftOut d (d.idleBytes (bs.length - 1)) (bs.length - 1)
  unfold Device.requestTransaction
  dsimp only
  split
  · refine h1.trans ?_
    generalize d.shiftOut _ _ = e
    have h2 : Sound e (carry { e with port := { e.port with status := .working, request := bs } }).1 :=
      fun hk => h _ hk
    unfold Device.receive
    dsimp only
    split
    · exact h2.trans (place _ _)
    · exact h2
  · exact h1
  · exact h1

theorem hostRequest (d : Device) (c : Byte) (p : List Byte) (carry : Device → Device × Option Answer)
    (h : ∀ d, Sound d (carry d).1) : Sound d (d.hostRequest c p carry) := by
  refine requestTransaction _ _ _ fun d => ?_
  split
  · exact refl _
  · exact h d

theorem rawRequest (d : Device) (bs : List Byte) : Sound d (d.rawRequest bs) := by
  refine requestTransaction _ _ _ fun d => ?_
  split
  · exact carryCode _ _ _
  · exact refl _

theorem fetchTransaction (d : Device) (n : Nat) : Sound d (d.fetchTransaction n) := by
  unfold Device.fetchTransaction
  split
  · exact refl _
  · split
    · dsimp only
      split
      · exact fun h => h
      · exact fun h => h
    · exact fun h => h

theorem transaction (d : Device) (bs : List Byte) : Sound d (d.transaction bs) := by
  unfold Device.transaction
  split
  · exact refl _
  · split
    · exact rawRequest _ _
    · split
      · exact fetchTransaction _ _
      · exact shiftOut _ _ _

/-! ## TRIP_N -/

theorem tripPin (d : Device) (l : Nat) (pin : TripPin) : Sound d (d.tripPin l pin) := by
  unfold Device.tripPin
  split
  · exact ofLine l _ fun _ h => h
  · split
    · exact refl _
    · exact trans (ofLine l (fun x => { x with tripLow := true }) fun _ h => h) (tripped _ l)

theorem tripLevel (d : Device) (l : Nat) (pin : TripPin) : Sound d (d.tripLevel l pin) := by
  unfold Device.tripLevel
  split
  · exact ofLine l _ fun _ h => h
  · split
    · exact refl _
    · exact ofLine l _ fun _ h => h

theorem tripCommand (d : Device) (l : Nat) (pin : TripPin) : Sound d (d.tripCommand l pin) := by
  unfold Device.tripCommand
  split
  · refine trans ?_ (tripPin _ l pin)
    split
    · exact takeDue _ _
    · exact settle _
  · exact tripLevel _ _ _

end Sys2Proof.Machine.Sound
end

