-- ==== Sys2Proof/WellFormed.lean ====
section
/-! DEFINITION. Which commands are well formed: operands inside the ranges the spec gives them. -/

namespace Sys2Proof

/-- A frame of parameters that fits the request buffer (R173: 0 to 32 bytes). -/
def wfParams (p : List Byte) : Bool := p.length ≤ 32

/-- A command whose operands lie in the spec's ranges. -/
def Instr.wf : Instr → Bool
  | .terminalDownlink n | .repeatLimitLost n | .silenceLost n => 2 ≤ n && n ≤ 17
  | .terminalUplink n _ => 2 ≤ n && n ≤ 17
  | .wakeTimerExpiry i | .testTimerExpiry i | .idleRest i | .leaseExpiry i | .claimWaitExpiry i => i < 80
  | .pulseEnd l | .softstartComplete l | .overdrawNotice l => l < 64
  | .trip l _ => l < 64
  | .scanRound cs _ => cs.length == 64
  | .testWindowEnd c | .testBeginTimeout c => c < 4
  | .unknownTransaction bs => match bs with
    | [] => true
    | b :: _ => b != 0xA1#8 && b != 0xB2#8
  | .unknownRequest c p => wfParams p && !([0x01#8, 0x02#8, 0x03#8, 0x10#8, 0x11#8, 0x12#8, 0x13#8, 0x14#8, 0x15#8,
      0x16#8, 0x20#8, 0x21#8, 0x22#8, 0x30#8, 0x31#8, 0x32#8, 0x33#8, 0x3F#8].contains c)
  | .identify p | .configure p | .readConfig p | .enrol p | .amend p | .retire p | .purge p | .reinstate p
  | .lookup p | .scanNext p | .wake p | .test p | .discover p | .reserveStatus p | .attentionRead p
  | .attentionClear p | .strangersRead p | .reset p => wfParams p
  | .vinLoss | .vinReturn _ | .keepLoss | .resetNLow _ | .resetNRise | .frameStart _ | .outageStart | .outageEnd
  | .outageMinute | .beacon | .attachWord | .attachUplink _ | .announce | .claim | .renew | .release | .report
  | .restRequest | .nop | .unknownUplinkKind | .attachWindowExpiry | .discoveryWindowExpiry | .levelChange
  | .fetch _ | .requestBadFrame _ => true

end Sys2Proof
end

