-- ==== Sys2Proof/Tests/Slice0.lean ====
section
/-! SUPPORT. Tests: ill-formed commands that the check refuses, small steps on one device in an outage, and for every obligation
a state and operands that meet its hypotheses, clause by clause. -/

namespace Sys2Proof.Tests

open Sys2Proof.Machine

set_option Elab.async false

/-! ## A device in an outage -/

/-- A record with nothing to report. -/
def terminal (t : Nat) (c : Machine.Class) (st : RecState) (line slot : Option Nat) : Record :=
  { id := BitVec.ofNat 32 t, line := line, cls := c, state := st, reason := none, slot := slot, lease := st == .fed
    method := .auto, wakeInterval := 0, wakeTimer := none, wakeOnOutage := false, testInterval := 0, testTimer := none
    cap := 40, ration := 0, charge := 0, rationSpent := false, capabilities := none, report := none, verdict := none
    suspect := false, lastOutcome := none, tests := 0, failedWakes := 0, lost := 0, idle := 0 }

/-- An open slot held by a record, under hold number 7, with a downlink queue. -/
def heldBy (i : Nat) (q : List QEntry) : Slot :=
  ⟨7, .held { index := i, id := BitVec.ofNat 32 (i + 1), isOpen := true, queue := q, nextSeq := 1, lastUp := none, silence := 0 }⟩

/-- A line with a record bound to it. -/
def wired (i : Nat) (sw : Switch) : Line := { Line.initial false with binding := some i, switch := sw }

/-- In an outage: index 0 FED on slot 2 with a LIVE lease of 10 steps, 1 ATTACHED on slot 3, 2 TESTING on slot 4, 3 DORMANT, 4
PENDING, 5 QUARANTINED; each but 4 on the line of its own number; the ID is the index and one. Frame 0 has begun. -/
def town : Device :=
  { Device.reset with
    mode := { Device.reset.mode with mode := .outage }
    roster := ⟨[some (terminal 1 .standard .fed (some 0) (some 2)), some (terminal 2 .standard .attached (some 1) (some 3)),
      some (terminal 3 .deferrable .testing (some 2) (some 4)), some (terminal 4 .standard .dormant (some 3) none),
      some (terminal 5 .standard .pending none none),
      some { (terminal 6 .standard .quarantined (some 5) none) with reason := some .short }] ++ List.replicate 74 none, 0⟩
    lines := [wired 0 .on, wired 1 .off, wired 2 .off, wired 3 .off, Line.initial false, wired 5 .tripped]
      ++ List.replicate 58 (.initial false)
    riser := { Device.reset.riser with
      frameZero := false, slots := [heldBy 0 [], heldBy 1 [], heldBy 2 []] ++ List.replicate 13 ⟨0, .free⟩ }
    lease := { Device.reset.lease with leases := [⟨0, 1, 10, .standard, 1, .live, 600, 0⟩], grantOrder := 2, committed := 10 }
    test := { Device.reset.test with channels := [some ⟨2, 3, .running, 100, false, none, none⟩, none, none, none] } }

/-- The device with an empty queue of commands. -/
def at_ (d : Device) : State := ⟨d, []⟩

/-- The device with one event due. -/
def owing (e : Due) (d : Device) : State := ⟨{ d with due := [e] }, []⟩

/-- The device with one word in the uplink FIFO, received in a terminal slot. -/
def hearing (n : Nat) (w : List Byte) (d : Device) : Device :=
  { d with riser := { d.riser with fifo := [⟨.terminal n 7, w⟩] } }

/-- An uplink word: kind, sequence number 5, no acknowledgement, six bytes. -/
def word (kind a b c d e f : Nat) : List Byte :=
  withCheck [BitVec.ofNat 8 (16 * kind + 5), 0, BitVec.ofNat 8 a, BitVec.ofNat 8 b, BitVec.ofNat 8 c, BitVec.ofNat 8 d,
    BitVec.ofNat 8 e, BitVec.ofNat 8 f]

/-- An ANNOUNCE in the attach slot, of a terminal with mark-wake. -/
def announceWord (t : Nat) (self : Bool) : List Byte :=
  withCheck ([0x70, 0] ++ bytesBE 4 t ++ [if self then 0xC4 else 0x84, 0])

/-- The device with an ANNOUNCE in the uplink FIFO. -/
def announced (w : List Byte) (d : Device) : Device := { d with riser := { d.riser with fifo := [⟨.attach 0, w⟩] } }

/-- The device after the take of a word whose sequence number is kept. -/
def taken (n : Nat) (w : List Byte) (d : Device) : Device := d.modHolder n fun h => { h with lastUp := some (upSeq w) }

/-- Record 3 WAKING, called by a pulse on its line 3, slot 5 reserved for it. -/
def calling : Device :=
  { ((town.modRec 3 fun r => { r with state := .waking, slot := some 5 }).modSlot 5 fun x => { x with use := .reserved (.record 3 4) }).modLine
      3 fun x => { x with switch := .pulse 5 (.record 3 4) } with
    wake := { town.wake with attempt := some ⟨.record 3 4 .host, .pulse, 5, 20, true, true⟩ }
    lease := { town.lease with permit := some 6, committed := 16 } }

/-- A discovery on line 6, slot 5 reserved for it, its pulse over. -/
def discovering : Device :=
  { (town.modSlot 5 fun x => { x with use := .reserved .discovery }) with
    wake := { town.wake with attempt := some ⟨.discovery 6, .pulse, 5, 20, false, false⟩ } }

/-- Record 0 TESTING on channel 1 beside its lease, in this phase of each. -/
def leasedTest (p : TestPhase) (q : Phase) : Device :=
  ((town.modRec 0 fun r => { r with state := .testing }).putChannel 1 (some ⟨0, 1, p, 100, true, none, none⟩)).modLease 0
    fun l => { l with phase := q }

/-- The device while VIN is absent. -/
def dark : Device := { town with supply := ⟨false, true, false, none⟩ }

theorem settled_self {d : Device} (h : d.running = true) (hd : d.due = []) : (at_ d).settled d :=
  ⟨h, Device.settle_none hd⟩

theorem dueNow_self {d : Device} {e : Due} (h : d.running = true) (hd : d.due = []) : (owing e d).dueNow e d := by
  refine ⟨h, by simp [owing], ?_⟩
  have hk : (owing e d).dev.hasten e = (owing e d).dev :=
    Device.hasten_none fun x hx => .inr (by simpa [owing] using hx.symm)
  rw [hk]
  cases d
  simp_all [owing]

theorem takes_self {d : Device} {p : List Byte} (h : d.running = true) (hd : d.due = []) (hi : d.port.status = .idle)
    (hp : p.length ≤ 32) : (at_ d).takes p d := ⟨settled_self h hd, hi, hp⟩

theorem newWord_self {d : Device} {n : Nat} {h : Holder} {r : Record} {w : List Byte} (hr : d.running = true) (hd : d.due = [])
    (hf : d.riser.fifo = []) (hs : d.slot? n = some ⟨7, .held h⟩) (hrec : d.rec? h.index = some r) (hid : r.id = h.id)
    (hq : h.queue = []) (hl : h.lastUp = none) : (at_ (hearing n w d)).newWord n h r w (taken n w d) := by
  refine ⟨_, 7, [], settled_self hr hd, rfl, ⟨hs, hrec, hid⟩, ?_, ?_, ?_⟩
  · rw [hq]
    exact nofun
  · rw [hl]
    exact nofun
  · rw [← hf]
    rfl

theorem heard_self {d : Device} {w : List Byte} (hr : d.running = true) (hd : d.due = []) (hf : d.riser.fifo = [])
    (hk : upKind w = .announce) (hv : validId (announceOf w 0).id = true) : (at_ (announced w d)).heard (announceOf w 0) d := by
  refine ⟨_, w, 0, [], settled_self hr hd, rfl, hk, rfl, hv, ?_⟩
  rw [← hf]
  rfl

theorem every_record {d : Device} (p : Record → Bool) (h : d.roster.records.all (fun o => o.all p) = true) (i : Nat) (r : Record)
    (hr : d.rec? i = some r) : p r = true := by
  unfold Device.rec? at hr
  have hm : some r ∈ d.roster.records := by
    cases hx : d.roster.records[i]? with
    | none => rw [hx] at hr; exact nomatch hr
    | some o => rw [hx] at hr; subst hr; exact List.mem_of_getElem? hx
  simpa using (List.all_eq_true.1 h) _ hm

theorem every_slot {d : Device} (p : Slot → Bool) (h : d.riser.slots.all p = true) (n : Nat) (x : Slot)
    (hx : d.slot? n = some x) : p x = true := by
  unfold Device.slot? at hx
  split at hx
  · exact nomatch hx
  · exact (List.all_eq_true.1 h) _ (List.mem_of_getElem? hx)

/-! ## Ill-formed commands are refused -/

theorem test_wf_slots : (Instr.terminalDownlink 18).wf = false ∧ (Instr.repeatLimitLost 1).wf = false
    ∧ (Instr.silenceLost 0).wf = false ∧ (Instr.terminalUplink 18 []).wf = false ∧ (Instr.terminalDownlink 17).wf = true := by decide

theorem test_wf_indexes : (Instr.wakeTimerExpiry 80).wf = false ∧ (Instr.testTimerExpiry 80).wf = false
    ∧ (Instr.idleRest 80).wf = false ∧ (Instr.leaseExpiry 80).wf = false ∧ (Instr.claimWaitExpiry 80).wf = false
    ∧ (Instr.idleRest 79).wf = true := by decide

theorem test_wf_lines : (Instr.pulseEnd 64).wf = false ∧ (Instr.softstartComplete 64).wf = false ∧ (Instr.overdrawNotice 64).wf = false
    ∧ (Instr.trip 64 .release).wf = false ∧ (Instr.trip 63 (.low 0)).wf = true := by decide

theorem test_wf_rounds_and_channels : (Instr.scanRound [] 0).wf = false ∧ (Instr.scanRound (List.replicate 64 0) 0).wf = true
    ∧ (Instr.testWindowEnd 4).wf = false ∧ (Instr.testBeginTimeout 4).wf = false := by decide +kernel

theorem test_wf_transactions : (Instr.unknownTransaction [0xA1]).wf = false ∧ (Instr.unknownTransaction [0xB2]).wf = false
    ∧ (Instr.unknownTransaction []).wf = true ∧ (Instr.unknownRequest 0x3F []).wf = false ∧ (Instr.unknownRequest 0x00 []).wf = true
    ∧ (Instr.unknownRequest 0x00 (List.replicate 33 0)).wf = false := by decide +kernel

theorem test_wf_requests : ∀ c : List Byte → Instr, c ∈ [Instr.identify, .configure, .readConfig, .enrol, .amend, .retire, .purge,
    .reinstate, .lookup, .scanNext, .wake, .test, .discover, .reserveStatus, .attentionRead, .attentionClear, .strangersRead, .reset] →
    (c (List.replicate 33 0)).wf = false ∧ (c (List.replicate 32 0)).wf = true := by
  intro c hc
  simp only [List.mem_cons, List.not_mem_nil, or_false] at hc
  rcases hc with rfl | rfl | rfl | rfl | rfl | rfl | rfl | rfl | rfl | rfl | rfl | rfl | rfl | rfl | rfl | rfl | rfl | rfl <;>
    exact ⟨rfl, rfl⟩

/-! ## Single steps -/

/-- The device after a command. -/
def after (c : Instr) (d : Device) : Device := match exec c (at_ d) with
  | .next s => s.dev
  | .fault _ => d
  | .refused _ => d

/-- The response that a request leaves in the buffer: its result code and fields. -/
def answer (c : Instr) (d : Device) : Option (Byte × List Byte) := (after c d).port.response.map fun r => (r.code, r.fields)

theorem test_decode_spells_nothing : decodeTableWord 8 1 = none := by decide

theorem test_vinLoss : (after .vinLoss town).running = false := by decide +kernel

theorem test_vinReturn : ((after (.vinReturn false) dark).rec? 0).map Record.state = some .dormant
    ∧ (after (.vinReturn true) dark).rec? 0 = none := by decide +kernel

theorem test_resetN : (after (.resetNLow 10000) town).running = false
    ∧ (after .resetNRise (after (.resetNLow 10000) town)).port.device.restarted = some .warm := by decide +kernel

theorem test_frameStart : (after (.frameStart false) Device.reset).riser.frame = 0
    ∧ (after (.frameStart false) town).riser.frame = 1 := by decide +kernel

theorem test_frameStart_outage :
    (after (.frameStart false) { town with mode := { ModeCtl.initial 160 with mode := .outagePending, lowCount := 9 } }).due
      = [.outageStart, .agendaExam] := by decide +kernel

theorem test_beacon : (after .beacon town).riser.drive = some [0x00, 0x00, 0x02, 0xFE] := by decide +kernel

theorem test_attachWord : (after .attachWord town).riser.drive = some [0x01, 0, 0, 0, 0, 0, 0xFF]
    ∧ (after .attachWord calling).riser.drive = some [0x03, 0, 0, 0, 4, 0, 0xF9] := by decide +kernel

theorem test_terminalDownlink : (after (.terminalDownlink 2) town).riser.drive = some [0, 0, 0, 0, 0]
    ∧ (after (.terminalDownlink 2) (town.modHolder 2 fun h => { h with queue := [⟨.grant 10, 15, 0⟩], lastUp := some 3 })).riser.drive
      = some [0x1F, 0x83, 0x00, 0x0A, 0x54] := by decide +kernel

theorem test_claim :
    (let d := after .claim (hearing 3 (word 1 4 0 0 0 0 0) town);
      (d.rec? 1).map Record.state = some .fed ∧ (d.leaseOf 1).map Lease.steps = some 4 ∧ d.lease.committed = 14
        ∧ (d.line? 1).map Line.switch = some (.softstart 2)) := by decide +kernel

theorem test_claim_deferred :
    (((after .claim (hearing 3 (word 1 41 0 0 0 0 0) town)).slot? 3).map Slot.use
      = some (.held ⟨1, 2, true, [⟨.defer .overCap, 1, 0⟩], 2, some 5, 0⟩)) := by decide +kernel

theorem test_announce :
    (let d := after .announce (announced (announceWord 4 true) town);
      (d.rec? 3).map Record.state = some .attached ∧ (d.rec? 3).bind Record.slot = some 5 ∧ d.riser.assignNext = some (4, 5)) := by
  decide +kernel

theorem test_trip :
    (let d := after (.trip 0 (.low 50000)) town;
      (d.rec? 0).map Record.state = some .quarantined ∧ (d.rec? 0).bind Record.reason = some .short ∧ d.lease.leases = []
        ∧ (d.line? 0).map Line.switch = some .tripped ∧ (d.slot? 2).map Slot.use = some .releasing) := by decide +kernel

theorem test_scanRound :
    (let d := after (.scanRound (List.replicate 64 301) 2400) town;
      (d.rec? 0).map Record.charge = some 301 ∧ (d.line? 0).bind Line.overdraw = some 301 ∧ d.mode.tally = 301 ∧ d.reserve = 2400) := by
  decide +kernel

/-- The level that a round changes is in the beacon of the next frame: the round sends its own frame's beacon first. -/
theorem test_scanRound_after_beacon :
    (let d : Device := { town with mode := { town.mode with evidence := .down, confirm := 2 } };
      let e := after (.scanRound (List.replicate 64 0) 2299) d;
      (e.riser.half = 1 ∧ e.riser.drive = some [0x00, 0x00, 0x02, 0xFE] ∧ e.due = [.rations, .levelChange])
      ∧ (let f := after .beacon e;
        f.mode.level = .low ∧ f.riser.drive = some [0x00, 0x00, 0x02, 0xFE]
          ∧ (after .beacon (after (.frameStart false) f)).riser.drive = some [0x00, 0x01, 0x06, 0xF9])) := by decide +kernel

/-- A SOFTSTART order onto an asserted TRIP_N: the trip is due, and comes before the ration judgement that a level change leaves
due. -/
theorem test_levelChange_trips_at_once :
    (let d : Device := { town.modLine 1 (fun x => { x with tripLow := true }) with
      mode := { town.mode with level := .low, ceiling := 80, evidence := .up, confirm := 3 }
      lease := { town.lease with claims := [⟨1, 2, 9, .standard, false, 0, 300⟩], claimArrival := 1 }
      due := [.rations, .levelChange] };
      let e := after .levelChange d;
      e.due = [.trip 1, .rations] ∧ (e.rec? 1).map Record.state = some .fed
        ∧ ((after .beacon e).rec? 1).bind Record.reason = some .short) := by decide +kernel

theorem test_overdrawNotice : (((after (.overdrawNotice 0) (town.modLine 0 fun x => { x with overdraw := some 301 })).leaseOf 0).map
    Lease.strikes) = some 1 := by decide +kernel

theorem test_identify : answer (.identify []) town = some (0x00, [0xA5, 0x64, 0x20, 0x01, 80, 64, 16, 4]) := by decide +kernel

theorem test_readConfig : answer (.readConfig [1, 19]) town = some (0x00, [1, 0, 160, 19, 0x02, 0x58]) := by decide +kernel

theorem test_enrol : answer (.enrol [0, 0, 0, 9, 1, 2, 0, 63]) town = some (0x00, [6]) := by decide +kernel

theorem test_wake : answer (.wake [2, 0, 0, 0, 4]) town = some (0x00, [])
    ∧ ((after (.wake [2, 0, 0, 0, 4]) town).rec? 3).map Record.state = some .waking := by decide +kernel

theorem test_scanNext : answer (.scanNext [0, 0x40]) town = some (0x00, [5]) ∧ answer (.scanNext [6, 0x7F]) town = some (0x01, []) := by
  decide +kernel

theorem test_requestBadFrame : answer (.requestBadFrame [1, 0]) town = some (0x80, []) := by decide +kernel

theorem test_unknownRequest : answer (.unknownRequest 0x7F []) town = some (0x81, []) := by decide +kernel

/-! ## Hypotheses met: steps, supplies, resets -/

theorem test_meets_StepOnEmptyQueue :
    dark.running = false ∧ (owing .outageEnd town).dev.running = true ∧ (owing .outageEnd town).dev.due = [.outageEnd]
    ∧ ((hearing 3 (word 6 0 0 0 0 0 0) town).running = true ∧ (hearing 3 (word 6 0 0 0 0 0 0) town).due = []
      ∧ (hearing 3 (word 6 0 0 0 0 0 0) town).riser.fifo ≠ [])
    ∧ (let d := town.modLine 63 fun x => { x with overdraw := some 301 };
      d.running = true ∧ d.due = [] ∧ d.riser.fifo = [] ∧ d.lines.findIdx? (fun x => x.overdraw.isSome) = some 63)
    ∧ town.due = [] ∧ town.riser.fifo = [] ∧ ∀ x ∈ town.lines, x.overdraw = none := by decide +kernel

theorem test_meets_StepOnEmptyQueue_finish :
    town.running = true ∧ town.due.head? ≠ some .agendaExam ∧ (owing .agendaExam town).dev.due = [.agendaExam] := by decide +kernel

theorem test_meets_AbsentOrHeldTakesNoEvent :
    (at_ dark).dev.running = false ∧ (at_ { town with supply := ⟨true, false, false, some .warm⟩ }).dev.running = false := by
  decide +kernel

theorem test_meets_OutputsAndStatusByte :
    dark.running = false ∧ town.running = true ∧ town.line? 0 = some (wired 0 .on) ∧ (town.line? 63).isSome = true
    ∧ town.port.sdo.length ≤ 0 ∧ ∃ b, ({ town with port := { town.port with sdo := [some 0x58, none] } } : Device).port.sdo[1]? = some b :=
  ⟨rfl, rfl, rfl, rfl, by decide, none, rfl⟩

/-- A raise that names its record, one whose record has another ID, one of an index without a record; the last place, and past it. -/
theorem test_meets_OutputsAndStatusByte_attention :
    town.attention = true ∧ ({ town with port := { town.port with device := ⟨none, false, false, false, false⟩ } } : Device).attention = false
    ∧ (∃ r, town.rec? 3 = some r ∧ r.id = 4 ∧ r.id ≠ 9) ∧ town.rec? 79 = none
    ∧ (∃ x, town.port.records[79]? = some x) ∧ town.port.records[80]? = none :=
  ⟨by decide +kernel, by decide +kernel, ⟨_, rfl, rfl, by decide⟩, rfl, ⟨_, rfl⟩, rfl⟩

theorem test_meets_SupplyCommands : (at_ town).dev.supply.vin = true ∧ (at_ dark).dev.supply.vin = false := by decide +kernel

theorem test_meets_ResetPinCommands :
    (at_ { town with supply := ⟨true, false, false, some .warm⟩ }).dev.supply.resetN = false ∧ 999 < 1000
    ∧ ((at_ town).dev.supply.resetN = true ∧ 10000 ≤ 10000) ∧ ((at_ town).dev.supply.resetN = true ∧ 1000 ≤ 1000 ∧ 9999 < 10000) := by
  decide +kernel

theorem test_meets_ResetLeaves :
    (town.line? 63).isSome = true ∧ town.rec? 79 = none ∧ (town.rec? 5).isSome = true := by decide +kernel

theorem test_meets_ResetRequest :
    (at_ town).takes [] town ∧ ((1 : Byte) = 1 ∧ ResetKind.warm = .warm) ∧ ((2 : Byte) = 2 ∧ ResetKind.cold = .cold)
    ∧ (List.replicate 32 (1 : Byte)).length ≤ 32 ∧ List.replicate 32 (1 : Byte) ≠ [1] ∧ ([3] : List Byte) ≠ [2] :=
  ⟨takes_self rfl rfl rfl (by decide), by decide +kernel⟩

/-! ## Hypotheses met: frames, mode, outages -/

theorem test_meets_SampleTable :
    (ModeCtl.initial 160).mode = .mains ∧ ({ ModeCtl.initial 160 with mode := .outagePending } : ModeCtl).mode = .outagePending
    ∧ town.mode.mode = .outage ∧ ({ town.mode with mode := .returnPending } : ModeCtl).mode = .returnPending := by decide +kernel

theorem test_meets_FrameStartEffect :
    (at_ town).settled town ∧ town.wake.queue = [] ∧ town.test.agenda = [] ∧ town.rec? 79 = none ∧ (town.rec? 0).isSome = true
    ∧ (let d : Device := { town with
        wake := { town.wake with eviction := some (1, 2) }, lease := { town.lease with claims := [⟨1, 2, 4, .standard, false, 0, 2⟩] } };
      (at_ d).settled d ∧ d.wake.queue = [] ∧ d.test.agenda = []) :=
  ⟨settled_self rfl rfl, rfl, rfl, rfl, rfl, settled_self rfl rfl, rfl, rfl⟩

theorem test_meets_FrameStartDue :
    (at_ town).settled town
    ∧ (let d := town.modLease 0 fun l => { l with countdown := 1 };
      ∃ l ∈ d.lease.leases, l.phase = .live ∧ l.countdown ≤ 1)
    ∧ (let d : Device := { town with lease := { town.lease with claims := [⟨1, 2, 4, .standard, false, 0, 1⟩] } };
      ∃ c ∈ d.lease.claims, c.wait ≤ 1)
    ∧ ((town.modLine 6 fun x => { x with switch := .pulse 1 .discovery }).line? 6).map Line.switch = some (.pulse 1 .discovery)
    ∧ (∃ x h, (town.modHolder 2 fun h => { h with silence := 29 }).slot? 2 = some x ∧ x.use = .held h ∧ h.isOpen = true
      ∧ town.settings.silenceLimit ≤ min (h.silence + 1) 255)
    ∧ (let d := town.modRec 1 fun r => { r with idle := 599 };
      ∃ r, d.idleEligible 1 = true ∧ d.rec? 1 = some r ∧ d.settings.idleLimit ≤ min (r.idle + 1) 65535)
    ∧ (let d : Device := { calling with wake := { calling.wake with attempt := some ⟨.record 3 4 .host, .mark, 5, 1, false, false⟩ } };
      ∃ a, d.wake.attempt = some a ∧ a.target = .record 3 4 .host ∧ a.window ≤ 1)
    ∧ (let d : Device := { discovering with wake := { town.wake with attempt := some ⟨.discovery 6, .pulse, 5, 1, false, false⟩ } };
      ∃ a, d.wake.attempt = some a ∧ a.target = .discovery 6 ∧ a.window ≤ 1)
    ∧ (∃ t, (town.putChannel 3 (some ⟨2, 3, .beginning, 1, false, none, none⟩)).test? 3 = some t ∧ t.countdown ≤ 1)
    ∧ (({ ModeCtl.initial 160 with mode := .outagePending, lowCount := 9 } : ModeCtl).sample town.settings false).2 = some .outageStart
    ∧ (let j := ({ town.mode with framesToMinute := 1 } : ModeCtl).sample town.settings false;
      j.1.mode.inOutage = true ∧ j.2 ≠ some .outageEnd ∧ j.1.framesToMinute ≤ 1) :=
  ⟨settled_self rfl rfl, ⟨_, List.mem_singleton.2 rfl, rfl, by decide⟩, ⟨_, List.mem_singleton.2 rfl, by decide⟩, rfl,
    ⟨_, _, rfl, rfl, rfl, by decide⟩, ⟨_, rfl, rfl, by decide⟩, ⟨_, rfl, rfl, by decide⟩, ⟨_, rfl, rfl, by decide⟩,
    ⟨_, rfl, by decide⟩, rfl, rfl, nofun, by decide⟩

theorem test_meets_FrameStartEffect_idle :
    ∃ x h r, town.rec? 1 = some r ∧ town.heldSlot 1 r.id = some 3 ∧ town.slot? 3 = some x ∧ x.use = .held h ∧ r.state = .attached
      ∧ town.claimOf 1 = none ∧ town.inAgenda 1 = false ∧ h.queue = [] :=
  ⟨_, _, _, rfl, rfl, rfl, rfl, rfl, rfl, rfl, rfl⟩

theorem test_meets_OutageStartEffect :
    (owing .outageStart town).dueNow .outageStart town ∧ town.wake.queue = []
    ∧ (∀ i r, town.rec? i = some r → r.wakeOnOutage = false)
    ∧ (let d := calling.putRec 79 (some { (terminal 80 .lifeline .dormant none none) with wakeOnOutage := true });
      (owing .outageStart d).dueNow .outageStart d
        ∧ ∃ r, d.rec? 79 = some r ∧ r.state = .dormant ∧ r.wakeOnOutage = true) :=
  ⟨dueNow_self rfl rfl, rfl, fun i r h => by simpa using every_record (fun r => !r.wakeOnOutage) (by decide +kernel) i r h,
    dueNow_self rfl rfl, _, rfl, rfl, rfl⟩

/-- The OUTAGE entries join in rising index order, and then the first of the highest class is called. -/
theorem test_outageStart_entries :
    (let d := ((town.modRec 3 fun r => { r with wakeOnOutage := true }).putRec 78
        (some { (terminal 79 .lifeline .dormant none none) with wakeOnOutage := true, method := .mark })).putRec 79
        (some (terminal 80 .lifeline .dormant none none));
      let e := (match exec .outageStart (owing .outageStart d) with
        | .next s => s.dev
        | _ => d);
      e.wake.queue = [⟨.record 3 4 .outage, 0, false⟩] ∧ e.wake.arrival = 2
        ∧ e.wake.attempt.map Attempt.target = some (.record 78 79 .outage)) := by decide +kernel

theorem test_meets_OutageEndEffect :
    (owing .outageEnd town).dueNow .outageEnd town
    ∧ (let d : Device := { calling with lease := { calling.lease with claims := [⟨1, 2, 4, .standard, false, 0, 2⟩] } };
      (owing .outageEnd d).dueNow .outageEnd d ∧ d.test.channels.length = 4
      ∧ (∃ l ∈ d.lease.leases, d.heldSlot l.index l.id = some 2 ∧ l.index = 0
        ∧ ∃ r, d.rec? 0 = some r ∧ l.id = r.id ∧ r.state = .fed)
      ∧ (∃ c ∈ d.lease.claims, (∀ t, d.test? 0 = some t → t.index ≠ c.index) ∧ d.heldSlot c.index c.id = some 3)
      ∧ (∃ t r, d.test? 0 = some t ∧ d.heldSlot t.index t.id = some 4 ∧ d.rec? t.index = some r ∧ t.id = r.id ∧ r.state = .testing)
      ∧ (∃ a r, d.wake.attempt = some a ∧ d.rec? 3 = some r ∧ a.target = .record 3 r.id .host ∧ r.state = .waking)
      ∧ ∃ r, d.rec? 5 = some r ∧ r.state = .quarantined) :=
  ⟨dueNow_self rfl rfl, dueNow_self rfl rfl, rfl, ⟨_, List.mem_singleton.2 rfl, rfl, rfl, _, rfl, rfl, rfl⟩,
    ⟨_, List.mem_singleton.2 rfl, by rintro t ⟨⟩; decide, rfl⟩, ⟨_, _, rfl, rfl, rfl, rfl, rfl⟩, ⟨_, _, rfl, rfl, rfl, rfl⟩, _, rfl, rfl⟩

theorem test_meets_OutageMinuteAndTimers :
    (let d := (town.modRec 3 fun r => { r with wakeInterval := 1, wakeTimer := some 1 }).modRec 0 fun r => { r with testTimer := some 1 };
      (owing .outageMinute d).dueNow .outageMinute d ∧ (∃ r, d.rec? 3 = some r ∧ r.state = .dormant ∧ r.wakeTimer = some 1)
      ∧ ∃ r, d.rec? 0 = some r ∧ r.state ≠ .pending ∧ r.state ≠ .quarantined ∧ r.testTimer = some 1)
    ∧ (let d := calling.putRec 79 (some { (terminal 80 .lifeline .dormant none none) with wakeTimer := some 0 });
      (owing (.wakeTimer 79) d).dueNow (.wakeTimer 79) d ∧ (∃ r, d.rec? 79 = some r ∧ r.wakeTimer = some 0)
        ∧ d.wake.attempt.isSome = true)
    ∧ (∀ i, i = 0 ∨ i = 5 → let d := town.modRec i fun r => { r with testInterval := 10080, testTimer := some 0 };
      (owing (.testTimer i) d).dueNow (.testTimer i) d ∧ ∃ r, d.rec? i = some r ∧ r.testTimer = some 0) := by
  refine ⟨⟨dueNow_self rfl rfl, ⟨_, rfl, rfl, rfl⟩, _, rfl, by decide, by decide, rfl⟩,
    ⟨dueNow_self rfl rfl, ⟨_, rfl, rfl⟩, rfl⟩, ?_⟩
  rintro i (rfl | rfl) <;> exact ⟨dueNow_self rfl rfl, _, rfl, rfl⟩

/-- A device on which the agenda holds record 0, and test timers of these records and then a lease expiry are due. -/
def timing (timers : List Nat) : Device :=
  { timers.foldl (fun d i => d.modRec i fun r => { r with testInterval := 9, testTimer := some 0 }) town with
    test := { town.test with agenda := [⟨0, 1, .host, 0⟩], arrival := 1 }
    due := timers.map Due.testTimer ++ [.leaseExpiry 0] }

/-- The reload alone calls for no examination; an entry placed calls for one, which waits for the last timer of the minute, also where
that one places none. -/
theorem test_testTimers :
    (let d := after (.testTimerExpiry 2) (timing [2]);
      (d.rec? 0).map Record.state = some .fed ∧ (d.rec? 2).map Record.testTimer = some (some 9) ∧ d.due = [.leaseExpiry 0])
    ∧ (let d := after (.testTimerExpiry 1) (timing [1, 2]);
      (d.rec? 0).map Record.state = some .fed ∧ d.due = [.testTimer 2, .agendaExam, .leaseExpiry 0]
      ∧ (let e := after (.testTimerExpiry 2) d;
        (e.rec? 0).map Record.state = some .testing ∧ (e.rec? 1).map Record.state = some .testing ∧ e.due = [.leaseExpiry 0])) := by
  decide +kernel

/-- A timer with others due after it, and the last one, with nothing and with a record to place. -/
theorem test_meets_OutageMinuteAndTimers_tests :
    (∀ k, k ≤ 1 → let d : Device := { timing [1] with due := (List.range k).map (fun _ => Due.testTimer 2) ++ [.leaseExpiry 0] };
      (⟨{ d with due := .testTimer 1 :: d.due }, []⟩ : State).dev.hasten (.testTimer 1) = { d with due := .testTimer 1 :: d.due }
      ∧ (∃ r, d.rec? 1 = some r ∧ r.testTimer = some 0 ∧ r.state = .attached) ∧ d.inAgenda 1 = false)
    ∧ ([Due.leaseExpiry 0].takeWhile (fun x => x == .testTimer 1) = [] ∧ [Due.leaseExpiry 0].head? ≠ some .agendaExam) := by
  refine ⟨?_, by decide⟩
  intro k _
  exact ⟨Device.hasten_none fun x hx => .inr (by simpa using hx.symm), ⟨_, rfl, rfl, rfl⟩, rfl⟩

theorem test_meets_OutageMinuteAndTimers_order :
    (let d := town.putRec 79 (some { (terminal 80 .lifeline .dormant none none) with wakeTimer := some 0 });
      (owing (.wakeTimer 79) d).dueNow (.wakeTimer 79) d ∧ (∃ r, d.rec? 79 = some r ∧ r.wakeTimer = some 0 ∧ r.state = .dormant)
        ∧ d.wake.attempt = none ∧ d.wakeEntryOf 79 = none ∧ d.mode.mode.inOutage = true)
    ∧ insertAgenda ⟨2, 3, .timer, 4⟩ ([⟨5, 6, .host, 9⟩, ⟨1, 2, .timer, 4⟩] ++ [⟨3, 4, .timer, 4⟩])
      = [⟨5, 6, .host, 9⟩, ⟨1, 2, .timer, 4⟩] ++ ⟨2, 3, .timer, 4⟩ :: [⟨3, 4, .timer, 4⟩] :=
  ⟨⟨dueNow_self rfl rfl, ⟨_, rfl, rfl, rfl⟩, rfl, rfl, rfl⟩, by decide⟩

/-! ## Hypotheses met: the riser -/

/-- A downlink queue with its head sent a number of times. -/
def sentTimes (k : Nat) : List QEntry := [⟨.grant 10, 15, k⟩, ⟨.limit 10, 1, 0⟩]

/-- The device with this half of the frame the last taken. -/
def halfway (p : Nat) (d : Device) : Device := { d with riser := { d.riser with half := p } }

theorem test_meets_halves_out_of_turn :
    Device.reset.riser.frameZero = true ∧ (at_ Device.reset).settled Device.reset
    ∧ ((at_ (halfway 35 town)).settled (halfway 35 town) ∧ 2 * 17 ≤ (halfway 35 town).riser.half
      ∧ 2 * 17 + 1 ≤ (halfway 35 town).riser.half ∧ 3 ≤ (halfway 35 town).riser.half ∧ 1 ≤ (halfway 35 town).riser.half) :=
  ⟨rfl, settled_self rfl rfl, settled_self rfl rfl, by decide⟩

theorem test_meets_DownlinkWords :
    (town.riser.frameZero = false ∧ town.riser.half < 1 ∧ (halfway 33 town).riser.half < 2 * 17)
    ∧ (at_ town).settled town ∧ (2 ≤ 17 ∧ 17 ≤ 17) ∧ (∀ x h, town.slot? 17 = some x → x.use = .held h → h.isOpen = false)
    ∧ (∃ x h, town.slot? 2 = some x ∧ x.use = .held h ∧ h.isOpen = true ∧ h.queue = [])
    ∧ (∃ x h e es, (town.modHolder 2 fun h => { h with queue := sentTimes 7 }).slot? 2 = some x ∧ x.use = .held h
      ∧ h.isOpen = true ∧ h.queue = e :: es ∧ e.sends < town.settings.repeatLimit)
    ∧ ∃ x h e es, (town.modHolder 2 fun h => { h with queue := sentTimes 8 }).slot? 2 = some x ∧ x.use = .held h
      ∧ h.isOpen = true ∧ h.queue = e :: es ∧ town.settings.repeatLimit ≤ e.sends := by
  refine ⟨by decide, settled_self rfl rfl, by decide, ?_, ⟨_, _, rfl, rfl, rfl, rfl⟩, ⟨_, _, _, _, rfl, rfl, rfl, rfl, by decide⟩,
    _, _, _, _, rfl, rfl, rfl, rfl, by decide⟩
  rintro x h hx hu
  have : x = ⟨0, .free⟩ := Option.some.inj (hx.symm.trans (rfl : town.slot? 17 = some ⟨0, .free⟩))
  subst this
  exact nomatch hu

/-- Most significant byte first, laid out and read; the greatest number of two bytes, and the sum past a byte. -/
theorem test_bytes :
    bytesBE 2 258 = [1, 2] ∧ natBE [1, 2] = 258 ∧ 65535 < 256 ^ 2 ∧ natBE (bytesBE 2 65535) = 65535
    ∧ byteSum [0xFF, 3] = 2 ∧ byteAt [7] 0 = 7 ∧ byteAt [7] 1 = 0 := by decide

theorem test_meets_LossesAndIdleRest :
    (let d := town.modHolder 2 fun h => { h with queue := sentTimes 8 };
      (at_ d).settled d ∧ ∃ x h e es, d.slot? 2 = some x ∧ x.use = .held h ∧ h.isOpen = true ∧ h.queue = e :: es
        ∧ d.settings.repeatLimit ≤ e.sends ∧ d.riser.frameZero = false ∧ d.riser.half < 2 * 2)
    ∧ ((owing (.silenceLost 4) town).dueNow (.silenceLost 4) town ∧ ∃ x h, town.slot? 4 = some x ∧ x.use = .held h)
    ∧ (owing (.idleRest 1) town).dueNow (.idleRest 1) town ∧ ∃ r, town.rec? 1 = some r ∧ r.state = .attached :=
  ⟨⟨settled_self rfl rfl, _, _, _, _, rfl, rfl, rfl, rfl, by decide, rfl, by decide⟩, ⟨dueNow_self rfl rfl, _, _, rfl, rfl⟩,
    dueNow_self rfl rfl, _, rfl, rfl⟩

theorem test_meets_LostTaken :
    (let d := town.modRec 0 fun r => { r with lost := 2 };
      ∃ h r, d.ok = true ∧ d.quiet ∧ d.heldSlot h.index h.id = some 2 ∧ h.index = 0 ∧ d.holds 2 7 h r ∧ r.state = .fed
        ∧ min (r.lost + 1) 15 < d.settings.lostLimit ∧ r.cls ≠ .lifeline)
    ∧ (∃ r, town.rec? 3 = some r ∧ r.state = .dormant)
    ∧ (let d := town.modRec 2 fun r => { r with lost := 3 };
      ∃ r, d.rec? 2 = some r ∧ d.quiet ∧ r.state = .testing ∧ d.settings.lostLimit ≤ min (r.lost + 1) 15)
    ∧ (let d := calling.modRec 0 fun r => { r with cls := .lifeline };
      ∃ r, d.rec? 0 = some r ∧ d.quiet ∧ r.state = .fed ∧ min (r.lost + 1) 15 < d.settings.lostLimit ∧ r.cls = .lifeline
        ∧ d.mode.mode = .outage ∧ d.wake.attempt.isSome = true) :=
  ⟨⟨_, _, by decide +kernel, ⟨rfl, rfl, rfl⟩, rfl, rfl, ⟨rfl, rfl, rfl⟩, rfl, by decide, by decide⟩, ⟨_, rfl, rfl⟩,
    ⟨_, rfl, ⟨rfl, rfl, rfl⟩, rfl, by decide⟩, _, rfl, ⟨rfl, rfl, rfl⟩, rfl, by decide, rfl, rfl, rfl⟩

/-- The record lost has a test in each of the three: below the limit, at it, and with a re-wake. -/
theorem test_meets_LostTaken_channel :
    (∃ h r, town.ok = true ∧ town.quiet ∧ town.heldSlot h.index h.id = some 4 ∧ h.index = 2 ∧ town.holds 4 7 h r ∧ r.state = .testing
      ∧ min (r.lost + 1) 15 < town.settings.lostLimit ∧ r.cls ≠ .lifeline ∧ town.channelOf 2 = some 0)
    ∧ (let d := town.modRec 2 fun r => { r with lost := 3 };
      d.quiet ∧ d.channelOf 2 = some 0 ∧ ∃ r, d.rec? 2 = some r ∧ r.state = .testing ∧ d.settings.lostLimit ≤ min (r.lost + 1) 15)
    ∧ (let d := calling.modRec 2 fun r => { r with cls := .lifeline };
      d.quiet ∧ d.channelOf 2 = some 0 ∧ d.mode.mode = .outage ∧ d.wake.attempt.isSome = true
        ∧ ∃ r, d.rec? 2 = some r ∧ r.state = .testing ∧ r.cls = .lifeline ∧ min (r.lost + 1) 15 < d.settings.lostLimit) :=
  ⟨⟨_, _, by decide +kernel, ⟨rfl, rfl, rfl⟩, rfl, rfl, ⟨rfl, rfl, rfl⟩, rfl, by decide, by decide, rfl⟩,
    ⟨⟨rfl, rfl, rfl⟩, rfl, _, rfl, rfl, by decide⟩, ⟨rfl, rfl, rfl⟩, rfl, rfl, rfl, _, rfl, rfl, rfl, by decide⟩

theorem test_meets_UplinkReception :
    (at_ town).settled town ∧ (2 ≤ 2 ∧ 2 ≤ 17) ∧ ¬ (9 ≤ (List.replicate 8 (0 : Byte)).length ∧ byteSum [] = 0)
    ∧ (∀ x h, town.slot? 17 = some x → x.use = .held h → h.isOpen = false)
    ∧ ∃ h, 9 ≤ (word 6 0 0 0 0 0 0).length ∧ byteSum ((word 6 0 0 0 0 0 0).take 9) = 0 ∧ town.slot? 2 = some ⟨7, .held h⟩
      ∧ h.isOpen = true :=
  ⟨settled_self rfl rfl, by decide, by decide, test_meets_DownlinkWords.2.2.2.1, _, by decide, rfl, rfl, rfl⟩

theorem test_meets_DownlinkPosts :
    (let h : Holder := ⟨0, 1, true, sentTimes 0, 15, none, 0⟩;
      h.ok = true ∧ (∃ e ∈ h.queue, e.cmd.kind = (Cmd.limit 3).kind) ∧ (∀ e ∈ h.queue, e.cmd.kind ≠ Cmd.rest.kind) ∧ h.queue.length < 4)
    ∧ (let h : Holder := ⟨0, 1, true, [⟨.cut .shed, 1, 0⟩, ⟨.rest, 2, 0⟩, ⟨.grant 1, 3, 0⟩, ⟨.queued, 4, 0⟩], 5, none, 0⟩;
      h.ok = true ∧ (∀ e ∈ h.queue, e.cmd.kind ≠ (Cmd.limit 3).kind) ∧ h.queue.length = 4)
    ∧ (∀ n x h, town.slot? n = some x → x.use = .held h → ¬(h.index = 3 ∧ h.id = 4))
    ∧ (∃ x h, town.slot? 2 = some x ∧ x.use = .held h ∧ h.index = 0 ∧ h.id = 1)
    ∧ ∀ m y k, town.slot? m = some y → y.use = .held k → k.index = 0 → k.id = 1 → m = 2 := by
  refine ⟨by decide +kernel, by decide +kernel, ?_, ⟨_, _, rfl, rfl, rfl, rfl⟩, ?_⟩
  · intro n x h hx hu ⟨hi, ht⟩
    have := every_slot (fun s => !s.heldBy 3 4) (by decide +kernel) n x hx
    simp [Slot.heldBy, hu, hi, ht] at this
  · intro m y k hy hu hi ht
    have hm : m < 18 := by
      unfold Device.slot? at hy
      split at hy
      · omega
      · have := (List.getElem?_eq_some_iff.1 hy).1
        have hl : town.riser.slots.length = 16 := rfl
        omega
    have key : ∀ m, m < 18 → m ≠ 2 → ((town.slot? m).all fun s => !s.heldBy 0 1) = true := by decide +kernel
    by_contra hne
    have := key m hm hne
    simp [hy, Slot.heldBy, hu, hi, ht] at this

/-! ## Hypotheses met: takes of the uplink FIFO -/

/-- A NOP that acknowledges sequence number 15. -/
def ackWord : List Byte := withCheck [0x65, 0x8F, 0, 0, 0, 0, 0, 0]

/-- A slot's holder with one command queued under sequence number 15. -/
def queueing (n : Nat) (c : Cmd) : Device := town.modHolder n fun h => { h with queue := [⟨c, 15, 1⟩] }

theorem test_meets_TakeDiscards :
    (let d : Device := { town with riser := { town.riser with fifo := [⟨.terminal 2 6, word 1 4 0 0 0 0 0⟩] } };
      (at_ d).settled d ∧ d.riser.fifo = [⟨.terminal 2 6, word 1 4 0 0 0 0 0⟩]
        ∧ ∀ x h, d.slot? 2 = some x → x.use = .held h → x.hold ≠ 6)
    ∧ (let d := announced ackWord town;
      (at_ d).settled d ∧ d.riser.fifo = [⟨.attach 0, ackWord⟩] ∧ upKind ackWord ≠ .announce)
    ∧ (let d := hearing 2 (word 6 0 0 0 0 0 0) (town.modHolder 2 fun h => { h with lastUp := some 5 });
      (at_ d).settled d ∧ ∃ h, d.slot? 2 = some ⟨7, .held h⟩ ∧ (∀ e, h.queue.head? = some e → upAck (word 6 0 0 0 0 0 0) ≠ some e.seq)
        ∧ h.lastUp = some (upSeq (word 6 0 0 0 0 0 0))) := by
  refine ⟨⟨settled_self rfl rfl, rfl, ?_⟩, ⟨settled_self rfl rfl, rfl, by decide⟩, settled_self rfl rfl, _, rfl, nofun, rfl⟩
  intro x h hx _
  have : x.hold = 7 := congrArg Slot.hold (Option.some.inj hx).symm
  rw [this]
  decide

theorem test_meets_TakeDelivers_release :
    town.heldSlot 3 4 = none ∧ town.heldSlot 1 2 = some 3 ∧ town.claimOf 1 = none
    ∧ ({ town with lease := { town.lease with claims := [⟨1, 2, 4, .standard, false, 0, 2⟩] } } : Device).claimOf 1 ≠ none := by
  decide +kernel

/-- The word of another kind, its sequence number new or that of a duplicate. -/
theorem test_meets_TakeDelivers_kinds : ∀ k, k ≤ 6 → ∀ l, l = none ∨ l = some 5 →
    let w := withCheck [BitVec.ofNat 8 (16 * k + 5), 0x8F, 4, 0, 0, 0, 0, 0]
    let d := hearing 2 w ((queueing 2 (.grant 10)).modHolder 2 fun h => { h with lastUp := l })
    (at_ d).settled d ∧ d.due = [] ∧ ∃ h e, d.slot? 2 = some ⟨7, .held h⟩ ∧ h.queue = [e] ∧ upAck w = some e.seq ∧ upSeq w = 5
      ∧ e.cmd ≠ .rest ∧ ∀ n, e.cmd ≠ .testBegin n := by
  intro k hk l _
  have hw : let w := withCheck [BitVec.ofNat 8 (16 * k + 5), 0x8F, 4, 0, 0, 0, 0, 0]; upAck w = some 15 ∧ upSeq w = 5 := by
    have : k = 0 ∨ k = 1 ∨ k = 2 ∨ k = 3 ∨ k = 4 ∨ k = 5 ∨ k = 6 := by omega
    rcases this with rfl | rfl | rfl | rfl | rfl | rfl | rfl <;> exact ⟨rfl, rfl⟩
  exact ⟨settled_self rfl rfl, rfl, _, _, rfl, rfl, hw.1, hw.2, nofun, nofun⟩

/-- A CLAIM that also acknowledges the head: the head is delivered, and the claim granted. -/
theorem test_claim_delivers :
    (let w := withCheck [0x15, 0x8F, 4, 0, 0, 0, 0, 0];
      let d := after .claim (hearing 3 w (queueing 3 .queued));
      (d.rec? 1).map Record.state = some .fed ∧ (d.slot? 3).map Slot.use
        = some (.held ⟨1, 2, true, [⟨.grant 4, 1, 0⟩], 2, some 5, 0⟩)) := by decide +kernel

theorem test_meets_TakeDelivers :
    (let d := hearing 2 ackWord (queueing 2 (.grant 10));
      (at_ d).settled d ∧ d.due = [] ∧ ∃ h e, d.slot? 2 = some ⟨7, .held h⟩ ∧ h.queue = [e] ∧ upAck ackWord = some e.seq ∧ upKind ackWord = .nop
        ∧ h.lastUp ≠ some (upSeq ackWord) ∧ e.cmd ≠ .rest ∧ ∀ k, e.cmd ≠ .testBegin k)
    ∧ (let d := hearing 4 ackWord (queueing 4 (.testBegin 600));
      (at_ d).settled d ∧ d.due = [] ∧ ∃ h e, d.slot? 4 = some ⟨7, .held h⟩ ∧ h.queue = [e] ∧ upAck ackWord = some e.seq
        ∧ h.lastUp ≠ some (upSeq ackWord) ∧ e.cmd = .testBegin 600)
    ∧ (let d := hearing 2 ackWord (queueing 2 .rest);
      (at_ d).settled d ∧ d.due = [] ∧ ∃ h e, d.slot? 2 = some ⟨7, .held h⟩ ∧ h.queue = [e] ∧ upAck ackWord = some e.seq
        ∧ h.lastUp ≠ some (upSeq ackWord) ∧ e.cmd = .rest ∧ ∀ r, d.rec? h.index = some r → r.id = h.id → r.state ≠ .attached)
    ∧ (let d := hearing 3 ackWord (queueing 3 .rest);
      (at_ d).settled d ∧ d.due = [] ∧ ∃ h e r, d.slot? 3 = some ⟨7, .held h⟩ ∧ h.queue = [e] ∧ upAck ackWord = some e.seq
        ∧ h.lastUp ≠ some (upSeq ackWord) ∧ e.cmd = .rest ∧ d.rec? h.index = some r ∧ r.id = h.id ∧ r.state = .attached) := by
  refine ⟨⟨settled_self rfl rfl, rfl, _, _, rfl, rfl, rfl, rfl, nofun, nofun, nofun⟩,
    ⟨settled_self rfl rfl, rfl, _, _, rfl, rfl, rfl, nofun, rfl⟩, ⟨settled_self rfl rfl, rfl, _, _, rfl, rfl, rfl, nofun, rfl, ?_⟩,
    settled_self rfl rfl, rfl, _, _, _, rfl, rfl, rfl, nofun, rfl, rfl, rfl, rfl⟩
  intro r hr _
  have : r.state = .fed := congrArg Record.state (Option.some.inj hr).symm
  rw [this]
  decide

theorem test_meets_TakeNopAndRestRequest :
    (∃ h r d, (at_ (hearing 3 (word 6 0 0 0 0 0 0) town)).newWord 3 h r (word 6 0 0 0 0 0 0) d ∧ upKind (word 6 0 0 0 0 0 0) = .nop)
    ∧ (∃ h r d, (at_ (hearing 3 (word 7 0 0 0 0 0 0) town)).newWord 3 h r (word 7 0 0 0 0 0 0) d
      ∧ upKind (word 7 0 0 0 0 0 0) = .announce)
    ∧ (∃ h r d, (at_ (hearing 3 (word 0 0 0 0 0 0 0) town)).newWord 3 h r (word 0 0 0 0 0 0 0) d
      ∧ upKind (word 0 0 0 0 0 0 0) = .unknown)
    ∧ ∃ h r d, (at_ (hearing 3 (word 5 0 0 0 0 0 0) town)).newWord 3 h r (word 5 0 0 0 0 0 0) d
      ∧ upKind (word 5 0 0 0 0 0 0) = .restRequest :=
  ⟨⟨_, _, _, newWord_self rfl rfl rfl rfl rfl rfl rfl rfl, rfl⟩, ⟨_, _, _, newWord_self rfl rfl rfl rfl rfl rfl rfl rfl, rfl⟩,
    ⟨_, _, _, newWord_self rfl rfl rfl rfl rfl rfl rfl rfl, rfl⟩, _, _, _, newWord_self rfl rfl rfl rfl rfl rfl rfl rfl, rfl⟩

theorem test_meets_TakeRenewAndRelease :
    (let w := word 2 0 0 0 0 0 0;
      upKind w = .renew ∧ (∃ h r d, (at_ (hearing 2 w town)).newWord 2 h r w d ∧ r.state = .fed)
        ∧ (∃ h r d, (at_ (hearing 4 w town)).newWord 4 h r w d ∧ r.state = .testing)
        ∧ ∃ h r d, (at_ (hearing 3 w town)).newWord 3 h r w d ∧ r.state = .attached)
    ∧ (let w := word 3 0 0 0 0 0 0;
      upKind w = .release ∧ (∃ h r d, (at_ (hearing 2 w town)).newWord 2 h r w d ∧ r.state = .fed)
        ∧ (∃ h r d, (at_ (hearing 4 w town)).newWord 4 h r w d ∧ r.state = .testing)
        ∧ ∃ h r d, (at_ (hearing 3 w town)).newWord 3 h r w d ∧ r.state = .attached) :=
  ⟨⟨rfl, ⟨_, _, _, newWord_self rfl rfl rfl rfl rfl rfl rfl rfl, rfl⟩, ⟨_, _, _, newWord_self rfl rfl rfl rfl rfl rfl rfl rfl, rfl⟩,
      _, _, _, newWord_self rfl rfl rfl rfl rfl rfl rfl rfl, rfl⟩,
    rfl, ⟨_, _, _, newWord_self rfl rfl rfl rfl rfl rfl rfl rfl, rfl⟩, ⟨_, _, _, newWord_self rfl rfl rfl rfl rfl rfl rfl rfl, rfl⟩,
      _, _, _, newWord_self rfl rfl rfl rfl rfl rfl rfl rfl, rfl⟩

/-- RELEASE of a TESTING record that has no lease: nothing but its idle frames. -/
theorem test_release_testing :
    (let d := hearing 4 (word 3 0 0 0 0 0 0) town;
      town.leaseOf 2 = none ∧ (after .release d).lease = d.lease ∧ (after .release d).lines = d.lines
        ∧ (after .release d).test = d.test) := by decide +kernel

theorem test_meets_TakeReport_claim :
    (∃ r, town.rec? 1 = some r ∧ r.state = .attached) ∧ town.mode.mode.inOutage = true ∧ town.claimOf 1 = none :=
  ⟨⟨_, rfl, rfl⟩, rfl, rfl⟩

theorem test_meets_TakeReport :
    (∃ h r, (at_ (hearing 3 (word 4 7 208 100 7 208 0) town)).newWord 3 h r (word 4 7 208 100 7 208 0)
        (taken 3 (word 4 7 208 100 7 208 0) town)
      ∧ upKind (word 4 7 208 100 7 208 0) = .report ∧ (taken 3 (word 4 7 208 100 7 208 0) town).channelOf h.index = none
      ∧ (byteAt (word 4 7 208 100 7 208 0) 7 % 2 == 1) = false)
    ∧ (∃ h r, (at_ (hearing 3 (word 4 4 176 101 0 0 1) town)).newWord 3 h r (word 4 4 176 101 0 0 1)
        (taken 3 (word 4 4 176 101 0 0 1) town)
      ∧ (taken 3 (word 4 4 176 101 0 0 1) town).channelOf h.index = none ∧ (byteAt (word 4 4 176 101 0 0 1) 7 % 2 == 1) = true
      ∧ (taken 3 (word 4 4 176 101 0 0 1) town).mode.mode.inOutage = true ∧ r.state = .attached
      ∧ (taken 3 (word 4 4 176 101 0 0 1) town).claimOf h.index = none)
    ∧ (∃ h r x, (at_ (hearing 4 (word 4 4 156 50 0 0 0) town)).newWord 4 h r (word 4 4 156 50 0 0 0)
        (taken 4 (word 4 4 156 50 0 0 0) town)
      ∧ (taken 4 (word 4 4 156 50 0 0 0) town).channelOf h.index = some 0
      ∧ (taken 4 (word 4 4 156 50 0 0 0) town).test? 0 = some x ∧ r.state = .testing ∧ x.phase = .running ∧ x.startV = none
      ∧ town.settings.testFloor ≤ min (256 * byteAt (word 4 4 156 50 0 0 0) 2 + byteAt (word 4 4 156 50 0 0 0) 3) 2000)
    ∧ (∃ h r x, (at_ (hearing 4 (word 4 4 155 50 0 0 1) town)).newWord 4 h r (word 4 4 155 50 0 0 1)
        (taken 4 (word 4 4 155 50 0 0 1) town)
      ∧ (taken 4 (word 4 4 155 50 0 0 1) town).test? 0 = some x ∧ r.state = .testing ∧ x.phase = .running ∧ x.startV = none
      ∧ min (256 * byteAt (word 4 4 155 50 0 0 1) 2 + byteAt (word 4 4 155 50 0 0 1) 3) 2000 < town.settings.testFloor)
    ∧ (let e := town.putChannel 0 (some ⟨2, 3, .running, 100, false, some 1200, some 1190⟩);
      ∃ h r x v, (at_ (hearing 4 (word 4 4 156 50 0 0 0) e)).newWord 4 h r (word 4 4 156 50 0 0 0)
        (taken 4 (word 4 4 156 50 0 0 0) e) ∧ (taken 4 (word 4 4 156 50 0 0 0) e).test? 0 = some x ∧ r.state = .testing
        ∧ x.phase = .running ∧ x.startV = some v)
    ∧ (let e := town.putChannel 0 (some ⟨2, 3, .beginning, 100, false, none, none⟩);
      ∃ h r x, (at_ (hearing 4 (word 4 4 156 50 0 0 1) e)).newWord 4 h r (word 4 4 156 50 0 0 1)
        (taken 4 (word 4 4 156 50 0 0 1) e) ∧ (taken 4 (word 4 4 156 50 0 0 1) e).test? 0 = some x ∧ r.state = .testing
        ∧ x.phase = .beginning) :=
  ⟨⟨_, _, newWord_self rfl rfl rfl rfl rfl rfl rfl rfl, rfl, rfl, rfl⟩,
    ⟨_, _, newWord_self rfl rfl rfl rfl rfl rfl rfl rfl, rfl, rfl, rfl, rfl, rfl⟩,
    ⟨_, _, _, newWord_self rfl rfl rfl rfl rfl rfl rfl rfl, rfl, rfl, rfl, rfl, rfl, by decide⟩,
    ⟨_, _, _, newWord_self rfl rfl rfl rfl rfl rfl rfl rfl, rfl, rfl, rfl, rfl, by decide⟩,
    ⟨_, _, _, _, newWord_self rfl rfl rfl rfl rfl rfl rfl rfl, rfl, rfl, rfl, rfl⟩,
    _, _, _, newWord_self rfl rfl rfl rfl rfl rfl rfl rfl, rfl, rfl, rfl⟩

theorem test_meets_TransitionTable :
    town.rec? 79 = none ∧ (∃ r, town.rec? 0 = some r ∧ r.id ≠ 2) ∧ ∃ r, town.rec? 3 = some r ∧ r.id = 4 ∧ r.state = .dormant := by
  exact ⟨rfl, ⟨_, rfl, by decide⟩, _, rfl, rfl, rfl⟩

/-! ## Hypotheses met: announces, attempts, discoveries, the wake queue -/

theorem test_meets_SpontaneousAnnounce :
    ((at_ (announced (announceWord 9 true) town)).heard (announceOf (announceWord 9 true) 0) town ∧ town.wake.attempt = none
      ∧ town.findId (announceOf (announceWord 9 true) 0).id = none)
    ∧ ((at_ (announced (announceWord 9 true) discovering)).heard (announceOf (announceWord 9 true) 0) discovering
      ∧ (announceOf (announceWord 9 true) 0).cause = .self
      ∧ ∃ x, discovering.wake.attempt = some x ∧ x.target = .discovery 6)
    ∧ (town.findId 6 = some 5 ∧ ∃ r, town.rec? 5 = some r ∧ r.state = .quarantined)
    ∧ (town.findId 5 = some 4 ∧ ∃ r, town.rec? 4 = some r ∧ r.state = .pending)
    ∧ (let d : Device := { town with riser := { town.riser with slots := List.replicate 16 (heldBy 0 []) } };
      d.findId 4 = some 3 ∧ (∃ r, d.rec? 3 = some r ∧ r.state = .dormant) ∧ ∀ x ∈ d.riser.slots, x.use ≠ .free)
    ∧ (at_ (announced (announceWord 4 false) town)).heard (announceOf (announceWord 4 false) 0) town ∧ town.quiet
    ∧ town.wake.eviction = none ∧ town.findId (announceOf (announceWord 4 false) 0).id = some 3 ∧ town.lowestFree = some 5
    ∧ (at_ (announced (announceWord 3 true) town)).heard (announceOf (announceWord 3 true) 0) town ∧ town.ok = true
    ∧ (∃ r, town.findId 3 = some 2 ∧ town.rec? 2 = some r ∧ r.state = .testing ∧ town.heldSlot 2 3 = some 4 ∧ town.channelOf 2 = some 0)
    ∧ (let d : Device := { town with riser := { town.riser with slots := [heldBy 0 []] ++ List.replicate 15 (heldBy 2 []) } };
      d.ok = true ∧ (at_ (announced (announceWord 1 true) d)).heard (announceOf (announceWord 1 true) 0) d ∧ d.lowestFree = none
        ∧ d.heldSlot 0 1 = some 2) :=
  ⟨⟨heard_self rfl rfl rfl rfl rfl, rfl, rfl⟩, ⟨heard_self rfl rfl rfl rfl rfl, rfl, _, rfl, rfl⟩, ⟨rfl, _, rfl, rfl⟩,
    ⟨rfl, _, rfl, rfl⟩, ⟨rfl, ⟨_, rfl, rfl⟩, by decide +kernel⟩, heard_self rfl rfl rfl rfl rfl, ⟨rfl, rfl, rfl⟩, rfl, rfl, rfl,
    heard_self rfl rfl rfl rfl rfl, by decide +kernel, ⟨_, rfl, rfl, rfl, rfl, rfl⟩, by decide +kernel, heard_self rfl rfl rfl rfl rfl, rfl,
    rfl⟩

/-- The lowest FREE slot is the first, the last, or none. -/
theorem test_lowestFree : ∀ k, k ≤ 16 →
    ({ town with riser := { town.riser with
      slots := List.replicate k (heldBy 0 []) ++ List.replicate (16 - k) ⟨0, .free⟩ } } : Device).lowestFree
      = if k = 16 then none else some (k + 2) := by decide +kernel

theorem test_meets_StrangerOffer :
    (let d : Device := { town with wake := { town.wake with strangers := [⟨9, none, 0⟩] } };
      ∃ x, d.wake.strangers.find? (fun x => x.id == 9) = some x ∧ x.line = none)
    ∧ town.wake.strangers.find? (fun x => x.id == 9) = none ∧ town.wake.strangers.length < 4 := ⟨⟨_, rfl, rfl⟩, rfl, by decide⟩

theorem test_meets_AnnounceInAttempt :
    ((at_ (announced (announceWord 4 false) calling)).heard (announceOf (announceWord 4 false) 0) calling
      ∧ (announceOf (announceWord 4 false) 0).id = 4 ∧ ∃ x, calling.wake.attempt = some x ∧ x.target = .record 3 4 .host)
    ∧ ((at_ (announced (announceWord 9 false) calling)).heard (announceOf (announceWord 9 false) 0) calling
      ∧ (announceOf (announceWord 9 false) 0).id ≠ 4)
    ∧ ((at_ (announced (announceWord 9 false) discovering)).heard (announceOf (announceWord 9 false) 0) discovering
      ∧ (announceOf (announceWord 9 false) 0).cause = .woken ∧ discovering.stopPulse.findId 9 = none
      ∧ ∃ x, discovering.wake.attempt = some x ∧ x.target = .discovery 6)
    ∧ ((at_ (announced (announceWord 1 false) discovering)).heard (announceOf (announceWord 1 false) 0) discovering
      ∧ discovering.stopPulse.findId 1 = some 0 ∧ ∃ r, discovering.stopPulse.rec? 0 = some r ∧ r.state ≠ .pending)
    ∧ (at_ (announced (announceWord 5 false) discovering)).heard (announceOf (announceWord 5 false) 0) discovering
    ∧ discovering.stopPulse.findId 5 = some 4 ∧ ∃ r, discovering.stopPulse.rec? 4 = some r ∧ r.state = .pending :=
  ⟨⟨heard_self rfl rfl rfl rfl rfl, rfl, _, rfl, rfl⟩, ⟨heard_self rfl rfl rfl rfl rfl, by decide⟩,
    ⟨heard_self rfl rfl rfl rfl rfl, rfl, rfl, _, rfl, rfl⟩, ⟨heard_self rfl rfl rfl rfl rfl, rfl, _, rfl, by decide⟩,
    heard_self rfl rfl rfl rfl rfl, rfl, _, rfl, rfl⟩

theorem test_meets_AnnounceInAttempt_parts :
    town.wake.attempt = none ∧ (∃ x, calling.wake.attempt = some x ∧ x.pulsing = true)
    ∧ (∃ x, discovering.wake.attempt = some x ∧ x.pulsing = false ∧ x.target = .discovery 6)
    ∧ (let a := announceOf (announceWord 4 false) 0;
      (∃ r, calling.rec? 3 = some r ∧ r.id = a.id ∧ r.state = .waking) ∧ ∃ r, town.rec? 3 = some r ∧ r.id = a.id ∧ r.state = .dormant)
    ∧ ∃ r, town.rec? 4 = some r ∧ r.id = (announceOf (announceWord 5 false) 0).id ∧ r.state = .pending :=
  ⟨rfl, ⟨_, rfl, rfl⟩, ⟨_, rfl, rfl, rfl⟩, ⟨⟨_, rfl, rfl, rfl⟩, _, rfl, rfl, rfl⟩, _, rfl, rfl, rfl⟩

/-- A pulse still running stopped: its line OFF, its permit out of the committed sum. -/
theorem test_stopPulse :
    (calling.stopPulse.line? 3).map Line.switch = some .off ∧ calling.stopPulse.lease.permit = none
    ∧ calling.stopPulse.lease.committed + calling.lease.permit.getD 0 = calling.lease.committed := by decide +kernel

/-- The attempt with its window run out and this many failed wakes. -/
def timedOut (k : Nat) : Device :=
  { (calling.modRec 3 fun r => { r with failedWakes := k }) with
    wake := { calling.wake with attempt := some ⟨.record 3 4 .host, .pulse, 5, 0, true, true⟩ } }

theorem test_meets_WindowExpiries :
    ((owing .attachWindow (timedOut 1)).dueNow .attachWindow (timedOut 1)
      ∧ (∃ x, (timedOut 1).wake.attempt = some x ∧ x.target = .record 3 4 .host ∧ x.window = 0)
      ∧ ∃ r, (timedOut 1).stopPulse.rec? 3 = some r ∧ r.id = 4 ∧ r.state = .waking
        ∧ min (r.failedWakes + 1) 7 < (timedOut 1).stopPulse.settings.wakeAttempts)
    ∧ ((owing .attachWindow (timedOut 2)).dueNow .attachWindow (timedOut 2)
      ∧ ∃ r, (timedOut 2).stopPulse.rec? 3 = some r ∧ r.id = 4 ∧ r.state = .waking
        ∧ (timedOut 2).stopPulse.settings.wakeAttempts ≤ min (r.failedWakes + 1) 7)
    ∧ (let d : Device := { discovering with wake := { town.wake with attempt := some ⟨.discovery 6, .pulse, 5, 0, false, false⟩ } };
      (owing .discoveryWindow d).dueNow .discoveryWindow d
        ∧ ∃ x, d.wake.attempt = some x ∧ x.target = .discovery 6 ∧ x.window = 0) :=
  ⟨⟨dueNow_self rfl rfl, ⟨_, rfl, rfl, rfl⟩, _, by rfl, rfl, rfl, by decide +kernel⟩,
    ⟨dueNow_self rfl rfl, _, by rfl, rfl, rfl, by decide +kernel⟩, dueNow_self rfl rfl, _, rfl, rfl, rfl⟩

/-- The device with one entry in the wake queue, for record 3. -/
def waiting : Device := { town with wake := { town.wake with queue := [⟨.record 3 4 .host, 0, false⟩], arrival := 1 } }

theorem test_meets_SpontaneousAnnounce_waiting :
    (at_ (announced (announceWord 4 true) waiting)).heard (announceOf (announceWord 4 true) 0) waiting
    ∧ waiting.wake.attempt = none ∧ waiting.findId 4 = some 3 ∧ (∃ r, waiting.rec? 3 = some r ∧ r.state = .dormant)
    ∧ waiting.lowestFree = some 5 :=
  ⟨heard_self rfl rfl rfl rfl rfl, rfl, rfl, ⟨_, rfl, rfl⟩, rfl⟩

/-- The one trip that a frame start makes due: that of the line it has just pulsed. -/
theorem test_frameStart_trip :
    (let d := (waiting.modSlot 9 fun x => { x with use := .releasing }).modLine 3 fun x => { x with tripLow := true };
      (after (.frameStart false) d).due.contains (.trip 3) ∧ (d.line? 3).map Line.switch = some .off) := by decide +kernel

/-- The device with one entry in the wake queue, for a discovery on line 6. -/
def seeking : Device := { town with wake := { town.wake with queue := [⟨.discovery 6, 0, false⟩], arrival := 1 } }

/-- The device with no slot FREE and this entry waiting: slots 5 to 17 are reserved. -/
def crowded (e : WakeEntry) : Device :=
  { town with
    riser := { town.riser with slots := town.riser.slots.take 3 ++ List.replicate 13 ⟨0, .reserved .discovery⟩ }
    wake := { town.wake with queue := [e] } }

theorem test_meets_WakeQueueHead_discovery :
    (seeking.wake.attempt = none ∧ seeking.wakeHead = some ⟨.discovery 6, 0, false⟩ ∧ seeking.mode.level ≠ .exhausted
      ∧ seeking.lowestFree = some 5 ∧ seeking.lease.permit = none
      ∧ seeking.settings.pulseAllowance ≤ seeking.mode.ceiling - seeking.lease.committed
      ∧ (∃ x, seeking.line? 6 = some x ∧ x.switch = .off ∧ x.tripLow = false)
      ∧ ∃ x, (seeking.modLine 6 fun x => { x with tripLow := true }).line? 6 = some x ∧ x.switch = .off ∧ x.tripLow = true)
    ∧ (let d : Device := { seeking with mode := { seeking.mode with level := .exhausted } };
      d.wakeHead = some ⟨.discovery 6, 0, false⟩ ∧ d.mode.level = .exhausted)
    ∧ (let d : Device := { seeking with mode := { seeking.mode with ceiling := 15 } };
      d.wakeHead = some ⟨.discovery 6, 0, false⟩ ∧ d.lowestFree = some 5
        ∧ d.mode.ceiling - d.lease.committed < d.settings.pulseAllowance) :=
  ⟨⟨rfl, rfl, by decide, rfl, rfl, by decide, ⟨_, rfl, rfl, rfl⟩, _, rfl, rfl, rfl⟩, ⟨rfl, rfl⟩, rfl, rfl, by decide⟩

/-- The order of R84: a returned entry, a discovery, a record of the band below; and a call onto a line whose TRIP_N is
asserted. -/
theorem test_wakeHead_order :
    (let d (q : List WakeEntry) : Device := { town with wake := { town.wake with queue := q } };
      (d [⟨.record 3 4 .host, 2, false⟩, ⟨.discovery 6, 1, false⟩]).wakeHead = some ⟨.discovery 6, 1, false⟩
      ∧ (d [⟨.discovery 6, 1, false⟩, ⟨.record 3 4 .host, 2, true⟩]).wakeHead = some ⟨.record 3 4 .host, 2, true⟩
      ∧ (d [⟨.discovery 6, 1, true⟩, ⟨.record 3 4 .host, 2, true⟩]).wakeHead = some ⟨.record 3 4 .host, 2, true⟩
      ∧ (d [⟨.discovery 6, 1, false⟩, ⟨.record 3 4 .host, 1, false⟩]).wakeHead = some ⟨.record 3 4 .host, 1, false⟩)
    ∧ ((waiting.modLine 3 fun x => { x with tripLow := true }).examineWake.due = [.trip 3]) := by decide +kernel

theorem test_meets_WakeQueueHead_eviction :
    (∀ e, e = ⟨.discovery 6, 0, false⟩ ∨ e = ⟨.record 3 4 .host, 0, false⟩ → (crowded e).wake.attempt = none
      ∧ (crowded e).wakeHead = some e ∧ (crowded e).lowestFree = none ∧ (crowded e).wake.eviction = none
      ∧ (∀ x ∈ (crowded e).riser.slots, x.use ≠ .releasing) ∧ (crowded e).mode.level ≠ .exhausted
      ∧ (crowded e).mode.mode.inOutage = true)
    ∧ (let d := crowded ⟨.discovery 6, 0, false⟩;
      (∃ r, 1 < 80 ∧ d.rec? 1 = some r ∧ d.idleEligible 1 = true ∧ Machine.Class.rank .standard ≤ r.cls.rank)
      ∧ (∀ k, k < 80 → d.idleEligible k = true → k = 1)
      ∧ ∃ x ∈ (d.releaseSlot 0 1).riser.slots, x.use = .releasing)
    ∧ ({ town with wake := { town.wake with eviction := some (1, 2) } } : Device).wake.eviction = some (1, 2) := by
  refine ⟨?_, ⟨⟨_, by decide, rfl, rfl, by decide⟩, by decide +kernel, ⟨_, List.mem_cons_self, rfl⟩⟩, rfl⟩
  rintro e (rfl | rfl) <;> decide +kernel

theorem test_meets_WakeQueueHead :
    (waiting.wake.attempt = none ∧ waiting.wakeHead = some ⟨.record 3 4 .host, 0, false⟩
      ∧ (∃ r, waiting.rec? 3 = some r ∧ r.id = 4 ∧ r.state = .dormant ∧ waiting.callMethod r = .pulse ∧ r.line = some 3)
      ∧ waiting.mode.mode.inOutage = true ∧ waiting.lowestFree = some 5 ∧ waiting.mode.level ≠ .exhausted
      ∧ waiting.lease.permit = none ∧ waiting.settings.pulseAllowance ≤ waiting.mode.ceiling - waiting.lease.committed
      ∧ (∃ x, waiting.line? 3 = some x ∧ x.switch = .off ∧ x.tripLow = false)
      ∧ ∃ x, (waiting.modLine 3 fun x => { x with tripLow := true }).line? 3 = some x ∧ x.switch = .off ∧ x.tripLow = true)
    ∧ (let d := waiting.modRec 3 fun r => { r with method := .mark };
      d.wakeHead = some ⟨.record 3 4 .host, 0, false⟩ ∧ ∃ r, d.rec? 3 = some r ∧ d.callMethod r = .mark)
    ∧ ({ waiting with mode := town.mode } : Device).mode.mode.inOutage = true
    ∧ ({ waiting with mode := { waiting.mode with mode := .mains } } : Device).mode.mode.inOutage = false
    ∧ ({ waiting with mode := { waiting.mode with level := .exhausted } } : Device).mode.level = .exhausted
    ∧ (let d : Device := { waiting with mode := { waiting.mode with ceiling := 15 } };
      d.mode.ceiling - d.lease.committed < d.settings.pulseAllowance) :=
  ⟨⟨rfl, rfl, ⟨_, rfl, rfl, rfl, rfl, rfl⟩, rfl, rfl, by decide, rfl, by decide, ⟨_, rfl, rfl, rfl⟩, _, rfl, rfl, rfl⟩, ⟨rfl, _, rfl, rfl⟩,
    rfl, rfl, rfl, by decide⟩

/-! ## Hypotheses met: lines and sensing -/

theorem test_meets_WakeQueueHead_none : calling.wake.attempt.isSome = true ∧ town.wake.queue = [] := ⟨rfl, rfl⟩

theorem test_meets_LineSwitchEvents :
    (let d := town.modLine 6 fun x => { x with switch := .pulse 0 .discovery };
      (owing (.pulseEnd 6) d).dueNow (.pulseEnd 6) d ∧ (∃ x, d.line? 6 = some x ∧ x.switch = .pulse 0 .discovery)
        ∧ d.wake.attempt = none)
    ∧ (let d := calling.modLine 3 fun x => { x with switch := .pulse 0 (.record 3 4) };
      (owing (.pulseEnd 3) d).dueNow (.pulseEnd 3) d ∧ (∃ x, d.line? 3 = some x ∧ x.switch = .pulse 0 (.record 3 4))
        ∧ ∃ a, d.wake.attempt = some a ∧ a.pulsing = true ∧ a.target = .record 3 4 .host ∧ (d.rec? 3).bind Record.line = some 3)
    ∧ (let d := town.modLine 0 fun x => { x with switch := .softstart 0 };
      (owing (.softstart 0) d).dueNow (.softstart 0) d ∧ ∃ x, d.line? 0 = some x ∧ x.switch = .softstart 0)
    ∧ ((at_ town).settled town ∧ Due.trip 63 ∉ (at_ town).dev.due ∧ 49999 < 50000 ∧ 50000 ≤ 50000
      ∧ (∃ x, town.line? 63 = some x ∧ x.tripLow = false)
      ∧ ∃ x, (town.modLine 63 fun x => { x with tripLow := true }).line? 63 = some x ∧ x.tripLow = true) :=
  ⟨⟨dueNow_self rfl rfl, ⟨_, rfl, rfl⟩, rfl⟩, ⟨dueNow_self rfl rfl, ⟨_, rfl, rfl⟩, _, rfl, rfl, rfl, rfl⟩,
    ⟨dueNow_self rfl rfl, _, rfl, rfl⟩, settled_self rfl rfl, nofun, by decide, by decide, ⟨_, rfl, rfl⟩, _, rfl, rfl⟩

/-- A line with this switch and its TRIP_N asserted. -/
def tripping (l : Nat) (sw : Switch) (d : Device) : Device := d.modLine l fun x => { x with switch := sw, tripLow := true }

/-- The handling of a trip: released, OFF, TRIPPED; unbound out of a discovery's pulse and in it, its pulse running or over; bound to a
record out of service and in service, with and without a pulse. -/
theorem test_meets_LineSwitchEvents_trip :
    (∃ x, town.line? 0 = some x ∧ x.tripLow = false)
    ∧ (∀ sw, sw = .off ∨ sw = .tripped → ∃ x, (tripping 0 sw town).line? 0 = some x ∧ x.switch = sw)
    ∧ (∀ sw, sw = .softstart 2 ∨ sw = .pulse 5 .discovery → ∃ x, (tripping 63 sw town).line? 63 = some x ∧ x.tripLow = true
      ∧ x.switch = sw ∧ x.binding = none ∧ town.wake.attempt = none)
    ∧ (∀ p : Bool, let d : Device := { tripping 6 (.pulse 5 .discovery) discovering with
        wake := { town.wake with attempt := some ⟨.discovery 6, .pulse, 5, 20, p, p⟩ }
        lease := { town.lease with permit := if p then some 6 else none } };
      ∃ x a, d.line? 6 = some x ∧ x.tripLow = true ∧ x.switch = .pulse 5 .discovery ∧ x.binding = none ∧ d.wake.attempt = some a
        ∧ a.target = .discovery 6 ∧ a.pulsing = p)
    ∧ (∀ sw, sw = .on ∨ sw = .pulse 5 (.record 3 4) → ∃ x r, (tripping 3 sw town).line? 3 = some x ∧ x.tripLow = true ∧ x.switch = sw
      ∧ x.binding = some 3 ∧ town.rec? 3 = some r ∧ r.state = .dormant)
    ∧ (∃ x r, (tripping 0 .on town).line? 0 = some x ∧ x.binding = some 0 ∧ town.rec? 0 = some r ∧ r.state = .fed)
    ∧ ∃ x r, (tripping 3 (.pulse 5 (.record 3 4)) calling).line? 3 = some x ∧ x.switch = .pulse 5 (.record 3 4) ∧ x.binding = some 3
      ∧ calling.rec? 3 = some r ∧ r.state = .waking := by
  refine ⟨⟨_, rfl, rfl⟩, ?_, ?_, fun _ => ⟨_, _, rfl, rfl, rfl, rfl, rfl, rfl, rfl⟩, ?_, ⟨_, _, rfl, rfl, rfl, rfl⟩, _, _, rfl, rfl, rfl,
    rfl, rfl⟩
  · rintro sw (rfl | rfl) <;> exact ⟨_, rfl, rfl⟩
  · rintro sw (rfl | rfl) <;> exact ⟨_, rfl, rfl, rfl, rfl, rfl⟩
  · rintro sw (rfl | rfl) <;> exact ⟨_, _, rfl, rfl, rfl, rfl, rfl, rfl⟩

/-- TRIP while a trip of its line is due: the handling comes first, and leaves the line's level asserted or, where the pin was let go,
released. -/
theorem test_meets_LineSwitchEvents_due :
    (let d := tripping 0 .on town;
      (owing (.trip 0) d).dueNow (.trip 0) d ∧ ∃ x, ((d.handle (.trip 0)).finish).line? 0 = some x ∧ x.tripLow = true
        ∧ x.switch = .tripped)
    ∧ (owing (.trip 0) town).dueNow (.trip 0) town ∧ ∃ x, ((town.handle (.trip 0)).finish).line? 0 = some x ∧ x.tripLow = false :=
  ⟨⟨dueNow_self rfl rfl, { wired 0 .tripped with tripLow := true }, by decide +kernel⟩, dueNow_self rfl rfl, wired 0 .on,
    by decide +kernel⟩

theorem test_meets_QuarantineTaken :
    ((at_ town).settled town ∧ Due.trip 0 ∉ (at_ town).dev.due ∧ town.ok = true ∧ town.lease.claims = [] ∧ town.wake.queue = []
      ∧ (∀ y ∈ town.test.agenda, y.index = 0) ∧ town.heldSlot 0 1 = some 2
      ∧ ∃ x r, town.line? 0 = some x ∧ x.binding = some 0 ∧ town.rec? 0 = some r ∧ r.line = some 0 ∧ 50000 ≤ 50000
        ∧ x.tripLow = false ∧ x.switch = .on ∧ r.state = .fed)
    ∧ (∃ r, town.rec? 1 = some r ∧ town.transition 1 r.id .secondStrike = none)
    ∧ (∃ r, town.rec? 2 = some r ∧ Cause.reason .secondStrike = some .overdraw
      ∧ Cause.target .secondStrike r.state = some .quarantined)
    ∧ ((at_ calling).settled calling ∧ calling.ok = true ∧ calling.quiet
      ∧ ∃ x r a, calling.line? 3 = some x ∧ x.binding = some 3 ∧ calling.rec? 3 = some r ∧ r.line = some 3 ∧ x.tripLow = false
        ∧ x.switch = .pulse 5 (.record 3 r.id) ∧ r.state = .waking ∧ calling.leaseOf 3 = none ∧ calling.wake.attempt = some a
        ∧ a.target = .record 3 r.id .host ∧ a.pulsing = true ∧ calling.lease.permit = some 6
        ∧ calling.slot? a.slot = some ⟨0, .reserved (.record 3 4)⟩) :=
  ⟨⟨settled_self rfl rfl, nofun, by decide +kernel, rfl, rfl, nofun, rfl, _, _, rfl, rfl, rfl, rfl, by decide, rfl, rfl, rfl⟩,
    ⟨_, rfl, rfl⟩, ⟨_, rfl, rfl, rfl⟩, settled_self rfl rfl, by decide +kernel, ⟨rfl, rfl, rfl⟩, _, _, _, rfl, rfl, rfl, rfl, rfl, rfl,
    rfl, rfl, rfl, rfl, rfl, rfl, rfl⟩

/-- The same with an agenda entry of the record, and with a channel of it. -/
theorem test_meets_QuarantineTaken_tests :
    (let d : Device := { town with test := { town.test with agenda := [⟨0, 1, .host, 0⟩] } };
      (at_ d).settled d ∧ d.ok = true ∧ (∀ y ∈ d.test.agenda, y.index = 0) ∧ d.inAgenda 0 = true)
    ∧ (let d := leasedTest .beginning .live;
      (at_ d).settled d ∧ d.ok = true ∧ d.channelOf 0 = some 1 ∧ ∃ x r, d.line? 0 = some x ∧ x.switch = .on ∧ d.rec? 0 = some r
        ∧ r.state = .testing) :=
  ⟨⟨settled_self rfl rfl, by decide +kernel, by decide, rfl⟩, settled_self rfl rfl, by decide +kernel, rfl, _, _, rfl, rfl, rfl, rfl⟩

theorem test_meets_ScanRoundEffect :
    (at_ town).settled town ∧ (List.replicate 64 1501).length = 64 ∧ (town.line? 63).isSome = true
    ∧ (List.replicate 64 1501)[63]? = some 1501
    ∧ (∃ x, town.line? 3 = some x ∧ x.switch = .off) ∧ (∃ x, town.line? 5 = some x ∧ x.switch = .tripped)
    ∧ (∃ x r, town.line? 0 = some x ∧ x.switch = .on ∧ x.binding = some 0 ∧ town.rec? 0 = some r)
    ∧ (∃ x r, calling.line? 3 = some x ∧ x.switch = .pulse 5 (.record 3 4) ∧ calling.rec? 3 = some r ∧ r.id = 4)
    ∧ (∃ x, (town.modLine 6 fun x => { x with switch := .pulse 0 .discovery }).line? 6 = some x ∧ x.switch = .pulse 0 .discovery)
    ∧ (town.riser.frameZero = false ∧ town.scanned = false)
    ∧ (at_ { town with scanned := true }).settled { town with scanned := true } ∧ Device.reset.riser.frameZero = true :=
  ⟨settled_self rfl rfl, rfl, rfl, rfl, ⟨_, rfl, rfl⟩, ⟨_, rfl, rfl⟩, ⟨_, _, rfl, rfl, rfl, rfl⟩, ⟨_, _, rfl, rfl, rfl, rfl⟩, ⟨_, rfl, rfl⟩,
    ⟨rfl, rfl⟩, settled_self rfl rfl, rfl⟩

/-- The device with a ration of 1 mAh that the record at an index has used up. -/
def rationed (i : Nat) : Device := town.modRec i fun r => { r with ration := 1, charge := 36000 }

theorem test_meets_ReserveLevel_rations :
    town.rec? 79 = none ∧ (∃ r, town.rec? 0 = some r ∧ r.ration = 0)
    ∧ (∃ r, ((rationed 0).modRec 0 fun r => { r with charge := 35999 }).rec? 0 = some r ∧ r.charge < r.ration * 36000)
    ∧ ∀ i, i < 3 → ∃ r, (rationed i).rec? i = some r ∧ r.ration ≠ 0 ∧ r.rationSpent = false ∧ r.ration * 36000 ≤ r.charge := by
  refine ⟨rfl, ⟨_, rfl, rfl⟩, ⟨_, rfl, by decide⟩, ?_⟩
  intro i hi
  have : i = 0 ∨ i = 1 ∨ i = 2 := by omega
  rcases this with rfl | rfl | rfl <;> exact ⟨_, rfl, by decide, rfl, by decide⟩

theorem test_meets_ReserveLevel :
    (¬ (min 2300 3000 < town.settings.lowEnter) ∧ min 2299 3000 < town.settings.lowEnter ∧ min 3001 3000 = 3000
      ∧ town.settings.levelConfirm ≤ 3 ∧ 2 < town.settings.levelConfirm)
    ∧ (let d : Device := { town with mode := { town.mode with evidence := .down, confirm := 3 } };
      (owing .levelChange d).dueNow .levelChange d ∧ d.mode.evidence = .down)
    ∧ (let d : Device := { town with mode := { town.mode with level := .exhausted, ceiling := 0, evidence := .up, confirm := 3 } };
      (owing .levelChange d).dueNow .levelChange d ∧ d.mode.evidence = .up) :=
  ⟨by decide, ⟨dueNow_self rfl rfl, rfl⟩, dueNow_self rfl rfl, rfl⟩

/-! ## Hypotheses met: leases and claims -/

/-- The device with an overdraw notice pending on line 0, at a lease with this many strikes. -/
def noticed (m strikes : Nat) : Device :=
  (town.modLine 0 fun x => { x with overdraw := some m }).modLease 0 fun l => { l with strikes := strikes }

theorem test_meets_LeaseEvents :
    (let d := town.modLease 0 fun l => { l with countdown := 0 };
      (owing (.leaseExpiry 0) d).dueNow (.leaseExpiry 0) d ∧ ∃ y, d.leaseOf 0 = some y ∧ y.phase = .live ∧ y.countdown = 0)
    ∧ (let d : Device := { town with lease := { town.lease with claims := [⟨1, 2, 4, .standard, false, 0, 0⟩] } };
      (owing (.claimWait 1) d).dueNow (.claimWait 1) d ∧ ∃ c, d.claimOf 1 = some c ∧ c.wait = 0)
    ∧ (let d := town.modLine 63 fun x => { x with overdraw := some 301 };
      (at_ d).settled d ∧ ∃ x, d.line? 63 = some x ∧ x.overdraw = some 301 ∧ x.binding = none)
    ∧ ((at_ (noticed 300 0)).settled (noticed 300 0) ∧ ∃ x y, (noticed 300 0).line? 0 = some x ∧ x.overdraw = some 300
      ∧ x.binding = some 0 ∧ (noticed 300 0).leaseOf 0 = some y ∧ y.phase = .live
      ∧ 300 ≤ (y.steps + (noticed 300 0).settings.overdrawMargin) * 25)
    ∧ ((at_ (noticed 301 0)).settled (noticed 301 0) ∧ ∃ x y, (noticed 301 0).line? 0 = some x ∧ x.overdraw = some 301
      ∧ (noticed 301 0).leaseOf 0 = some y ∧ (y.steps + (noticed 301 0).settings.overdrawMargin) * 25 < 301 ∧ y.strikes = 0)
    ∧ ((at_ (noticed 301 1)).settled (noticed 301 1) ∧ ∃ y, (noticed 301 1).leaseOf 0 = some y ∧ y.strikes ≠ 0) :=
  ⟨⟨dueNow_self rfl rfl, _, rfl, rfl, rfl⟩, ⟨dueNow_self rfl rfl, _, rfl, rfl⟩, ⟨settled_self rfl rfl, _, rfl, rfl, rfl⟩,
    ⟨settled_self rfl rfl, _, _, rfl, rfl, rfl, rfl, rfl, by decide⟩, ⟨settled_self rfl rfl, _, _, rfl, rfl, rfl, by decide, rfl⟩,
    settled_self rfl rfl, _, rfl, by decide⟩

theorem test_meets_LeaseEnds :
    ∃ y r, town.leaseOf 0 = some y ∧ y.index = 0 ∧ town.rec? y.index = some r ∧ r.id = y.id := ⟨_, _, rfl, rfl, rfl, rfl⟩

theorem test_meets_ServiceAndShedding :
    (let d : Device := { town with
        mode := { town.mode with ceiling := 32 }, lease := { town.lease with claims := [⟨1, 2, 23, .standard, false, 0, 300⟩] } };
      ∃ c, d.serve.lease.claims.head? = some c)
    ∧ town.lease.claims = [] ∧ ∃ y, y ∈ town.shed.lease.leases := by
  refine ⟨⟨⟨1, 2, 23, .standard, false, 0, 300⟩, by decide +kernel⟩, rfl, ⟨0, 1, 10, .standard, 1, .live, 600, 0⟩, by decide +kernel⟩

/-- A service with the headroom at the head's steps, which grants it and examines the agenda for it; and with one step less. -/
theorem test_serve : ∀ k, k = 14 ∨ k = 13 →
    let d : Device := { town with
      mode := { town.mode with ceiling := k }
      lease := { town.lease with claims := [⟨1, 2, 4, .standard, false, 0, 300⟩] }
      test := { town.test with agenda := [⟨1, 2, .host, 0⟩] } }
    (d.serve.rec? 1).map Record.state = some (if k = 14 then .testing else .attached) ∧ d.serve.hasClaim 1 = decide (k = 13)
      ∧ (d.serve.leaseOf 1).isSome = decide (k = 14) := by
  rintro k (rfl | rfl) <;> decide +kernel

theorem test_meets_ServiceAndShedding_steps :
    town.lease.permit = none
    ∧ (∃ a r, calling.lease.permit = some 6 ∧ calling.wake.attempt = some a ∧ a.permit = true ∧ a.target = .record 3 4 .host
      ∧ calling.rec? 3 = some r ∧ r.id = 4 ∧ r.state = .waking)
    ∧ (let d : Device := { discovering with
        wake := { town.wake with attempt := some ⟨.discovery 6, .pulse, 5, 20, true, true⟩ }
        lease := { town.lease with permit := some 6 } };
      ∃ a, d.lease.permit = some 6 ∧ d.wake.attempt = some a ∧ a.permit = true ∧ a.target = .discovery 6)
    ∧ (let d : Device := { town with
        mode := { town.mode with level := .critical, ceiling := 5 }
        lease := { town.lease with claims := [⟨1, 2, 4, .standard, false, 0, 300⟩] } };
      (d.lease.leases.map Lease.index).Nodup ∧ (d.lease.claims.map ClaimEntry.index).Nodup
      ∧ (∃ y ∈ d.lease.leases, y.cls = .standard ∧ d.heldSlot y.index y.id = some 2)
      ∧ (∃ c ∈ d.lease.claims, c.cls = .standard ∧ d.heldSlot c.index c.id = some 3)
      ∧ d.mode.ceiling < d.lease.committed ∧ d.lease.leases ≠ [] ∧ ∃ y, d.nextCut = some y ∧ d.leaseOf y.index = some y)
    ∧ town.lease.committed ≤ town.mode.ceiling :=
  ⟨rfl, ⟨_, _, rfl, rfl, rfl, rfl, rfl, rfl, rfl⟩, ⟨_, rfl, rfl, rfl, rfl⟩,
    ⟨by decide +kernel, by decide +kernel, ⟨_, List.mem_singleton.2 rfl, rfl, rfl⟩, ⟨_, List.mem_singleton.2 rfl, rfl, rfl⟩, by decide,
      nofun, _, rfl, rfl⟩, by decide⟩

/-- A CLAIM of this many steps. -/
def claimWord (steps : Nat) : List Byte := word 1 steps 0 0 0 0 0

theorem test_meets_ClaimDecided :
    (let d : Device := { town with mode := { town.mode with mode := .outagePending } };
      ∃ h r, (at_ (hearing 3 (claimWord 4) d)).newWord 3 h r (claimWord 4) (taken 3 (claimWord 4) d) ∧ upKind (claimWord 4) = .claim
        ∧ r.state = .attached ∧ (taken 3 (claimWord 4) d).claimOf h.index = none
        ∧ (taken 3 (claimWord 4) d).mode.mode = .outagePending)
    ∧ (let d : Device := { town with mode := { town.mode with level := .critical } };
      ∃ h r, (at_ (hearing 3 (claimWord 4) d)).newWord 3 h r (claimWord 4) (taken 3 (claimWord 4) d) ∧ r.state = .attached
        ∧ r.cls = .standard)
    ∧ (let d := town.modRec 1 fun r => { r with rationSpent := true };
      ∃ h r, (at_ (hearing 3 (claimWord 4) d)).newWord 3 h r (claimWord 4) (taken 3 (claimWord 4) d) ∧ r.state = .attached
        ∧ r.rationSpent = true)
    ∧ (∃ h r, (at_ (hearing 3 (claimWord 41) town)).newWord 3 h r (claimWord 41) (taken 3 (claimWord 41) town) ∧ r.state = .attached
      ∧ r.cap < byteAt (claimWord 41) 2 % 64)
    ∧ (∃ h r, (at_ (hearing 3 (claimWord 0) town)).newWord 3 h r (claimWord 0) (taken 3 (claimWord 0) town) ∧ r.state = .attached
      ∧ byteAt (claimWord 0) 2 % 64 = 0)
    ∧ (let d : Device := { town with mode := { town.mode with ceiling := 50 } };
      ∃ h r, (at_ (hearing 3 (claimWord 40) d)).newWord 3 h r (claimWord 40) (taken 3 (claimWord 40) d) ∧ r.state = .attached
        ∧ r.rationSpent = false ∧ 40 ≤ r.cap ∧ (taken 3 (claimWord 40) d).mode.mode = .outage
        ∧ (taken 3 (claimWord 40) d).mode.level = .normal ∧ (taken 3 (claimWord 40) d).inAgenda h.index = false
        ∧ (taken 3 (claimWord 40) d).lease.claims = []
        ∧ 40 ≤ (taken 3 (claimWord 40) d).mode.ceiling - (taken 3 (claimWord 40) d).lease.committed)
    ∧ (let d : Device := { town with mode := { town.mode with ceiling := 49 } };
      ∃ h r, (at_ (hearing 3 (claimWord 40) d)).newWord 3 h r (claimWord 40) (taken 3 (claimWord 40) d) ∧ r.state = .attached
        ∧ (taken 3 (claimWord 40) d).lease.claims = [] ∧ (taken 3 (claimWord 40) d).wake.queue = []
        ∧ (taken 3 (claimWord 40) d).mode.ceiling - (taken 3 (claimWord 40) d).lease.committed < 40) :=
  ⟨⟨_, _, newWord_self rfl rfl rfl rfl rfl rfl rfl rfl, rfl, rfl, rfl, rfl⟩, ⟨_, _, newWord_self rfl rfl rfl rfl rfl rfl rfl rfl, rfl, rfl⟩,
    ⟨_, _, newWord_self rfl rfl rfl rfl rfl rfl rfl rfl, rfl, rfl⟩, ⟨_, _, newWord_self rfl rfl rfl rfl rfl rfl rfl rfl, rfl, by decide⟩,
    ⟨_, _, newWord_self rfl rfl rfl rfl rfl rfl rfl rfl, rfl, rfl⟩,
    ⟨_, _, newWord_self rfl rfl rfl rfl rfl rfl rfl rfl, rfl, rfl, by decide, rfl, rfl, rfl, rfl, by decide⟩, _, _,
    newWord_self rfl rfl rfl rfl rfl rfl rfl rfl, rfl, rfl, rfl, by decide⟩

/-- A claim from record 1 that joins behind a suspect entry and ahead of one of a lower class. -/
theorem test_meets_ClaimDecided_join :
    let x : ClaimEntry := ⟨0, 1, 9, .standard, true, 0, 300⟩
    let y : ClaimEntry := ⟨2, 3, 9, .deferrable, true, 1, 300⟩
    let d : Device := { town with lease := { town.lease with claims := [x, y], claimArrival := 2 } }
    (∃ h r, (at_ (hearing 3 (claimWord 4) d)).newWord 3 h r (claimWord 4) (taken 3 (claimWord 4) d) ∧ r.state = .attached
      ∧ r.cls = .standard ∧ r.suspect = false ∧ (taken 3 (claimWord 4) d).claimOf h.index = none
      ∧ (taken 3 (claimWord 4) d).lease.claims = [x] ++ [y])
    ∧ insertClaim ⟨1, 2, 4, .standard, false, 2, 300⟩ [x, y] = [x, ⟨1, 2, 4, .standard, false, 2, 300⟩, y] :=
  ⟨⟨_, _, newWord_self rfl rfl rfl rfl rfl rfl rfl rfl, rfl, rfl, rfl, rfl, rfl⟩, rfl⟩

theorem test_meets_ClaimDecided_update : ∀ n, n = 4 ∨ n = 41 →
    let d : Device := { town with lease := { town.lease with claims := [⟨1, 2, 9, .standard, false, 0, 300⟩] } }
    ∃ h r c, (at_ (hearing 3 (claimWord n) d)).newWord 3 h r (claimWord n) (taken 3 (claimWord n) d) ∧ upKind (claimWord n) = .claim
      ∧ r.state = .attached ∧ (taken 3 (claimWord n) d).claimOf h.index = some c
      ∧ (r.cap < byteAt (claimWord n) 2 % 64 ↔ n = 41) := by
  rintro n (rfl | rfl) <;> exact ⟨_, _, _, newWord_self rfl rfl rfl rfl rfl rfl rfl rfl, rfl, rfl, rfl, by decide⟩

/-- A claim for a record out of service, for another ID, and for an index without a record. -/
theorem test_meets_ClaimDecided_discarded :
    (∃ r, town.rec? 3 = some r ∧ r.id = 4 ∧ r.state ≠ .attached ∧ r.state ≠ .fed ∧ r.state ≠ .testing)
    ∧ (∃ r, town.rec? 1 = some r ∧ r.id ≠ 9) ∧ town.rec? 79 = none := ⟨⟨_, rfl, rfl, by decide⟩, ⟨_, rfl, by decide⟩, rfl⟩

theorem test_meets_GrantMakesLease_order :
    (∃ x, town.line? 0 = some x ∧ x.switch ≠ .off) ∧ (∃ x, town.line? 1 = some x ∧ x.switch = .off ∧ x.tripLow = false)
    ∧ ∃ x, (town.modLine 1 fun x => { x with tripLow := true }).line? 1 = some x ∧ x.switch = .off ∧ x.tripLow = true :=
  ⟨⟨_, rfl, by decide⟩, ⟨_, rfl, rfl, rfl⟩, _, rfl, rfl, rfl⟩

theorem test_meets_GrantMakesLease :
    (∀ r, town.rec? 2 = some r → r.id = 3 → r.state ≠ .attached) ∧ ∃ r, town.rec? 1 = some r ∧ r.id = 2 ∧ r.state = .attached := by
  refine ⟨?_, _, rfl, rfl, rfl⟩
  intro r hr _
  have : r.state = .testing := congrArg Record.state (Option.some.inj hr).symm
  rw [this]
  decide

/-- A resize of record 0's lease of 10 steps is asked for, in a device with a headroom of one step. -/
def resizing : Device := { town with mode := { town.mode with ceiling := 11 } }

theorem test_meets_ClaimResizes :
    (∀ n, n = 0 ∨ n = 9 ∨ n = 10 ∨ n = 11 ∨ n = 12 ∨ n = 41 → ∃ h r y, (at_ (hearing 2 (claimWord n) resizing)).newWord 2 h r
        (claimWord n) (taken 2 (claimWord n) resizing) ∧ upKind (claimWord n) = .claim ∧ r.state = .fed
      ∧ (taken 2 (claimWord n) resizing).leaseOf h.index = some y ∧ y.steps = 10 ∧ r.cap = 40
      ∧ byteAt (claimWord n) 2 % 64 = n
      ∧ (taken 2 (claimWord n) resizing).mode.ceiling - (taken 2 (claimWord n) resizing).lease.committed = 1
      ∧ ∀ c ∈ (taken 2 (claimWord n) resizing).lease.claims, y.cls.rank ≤ c.cls.rank) := by
  rintro n (rfl | rfl | rfl | rfl | rfl | rfl) <;> exact ⟨_, _, _, newWord_self rfl rfl rfl rfl rfl rfl rfl rfl, rfl, rfl, rfl, rfl, rfl, rfl, rfl, nofun⟩

theorem test_meets_ClaimFromTesting :
    ∃ h r, (at_ (hearing 4 (claimWord 4) town)).newWord 4 h r (claimWord 4) (taken 4 (claimWord 4) town)
      ∧ upKind (claimWord 4) = .claim ∧ r.state = .testing := ⟨_, _, newWord_self rfl rfl rfl rfl rfl rfl rfl rfl, rfl, rfl⟩

/-! ## Hypotheses met: tests -/

theorem test_meets_TestCountdowns :
    (let d := town.putChannel 0 (some ⟨2, 3, .running, 0, false, none, none⟩);
      (owing (.testWindow 0) d).dueNow (.testWindow 0) d ∧ ∃ x, d.test? 0 = some x ∧ x.phase = .running ∧ x.countdown = 0 ∧ x.startV = none)
    ∧ (let d := town.putChannel 0 (some ⟨2, 3, .running, 0, false, some 1200, some 1170⟩);
      (owing (.testWindow 0) d).dueNow (.testWindow 0) d ∧ ∃ x, d.test? 0 = some x ∧ x.phase = .running ∧ x.countdown = 0
        ∧ x.startV = some 1200 ∧ x.lastV = some 1170)
    ∧ (let d := town.putChannel 3 (some ⟨2, 3, .beginning, 0, false, none, none⟩);
      (owing (.testBegin 3) d).dueNow (.testBegin 3) d ∧ ∃ x, d.test? 3 = some x ∧ x.phase = .beginning ∧ x.countdown = 0) :=
  ⟨⟨dueNow_self rfl rfl, _, rfl, rfl, rfl, rfl⟩, ⟨dueNow_self rfl rfl, _, rfl, rfl, rfl, rfl, rfl⟩, dueNow_self rfl rfl, _, rfl, rfl, rfl⟩

theorem test_meets_TestBeginsAndEnds :
    (∃ x r, town.channelOf 2 = some 0 ∧ town.test? 0 = some x ∧ town.rec? 2 = some r ∧ x.phase = .running)
    ∧ (let d := town.putChannel 0 (some ⟨2, 3, .beginning, 100, false, none, none⟩);
      d.channelOf 2 = some 0 ∧ (∃ x r, d.test? 0 = some x ∧ d.rec? 2 = some r ∧ x.phase = .beginning)
        ∧ ∀ y, d.leaseOf 2 = some y → y.phase = .suspended)
    ∧ (let d := leasedTest .beginning .live;
      d.channelOf 0 = some 1 ∧ ∃ x r y, d.test? 1 = some x ∧ d.rec? 0 = some r ∧ x.phase = .beginning ∧ d.leaseOf 0 = some y
        ∧ y.phase = .live)
    ∧ (let d := leasedTest .running .suspended;
      ∃ x r, d.test? 1 = some x ∧ d.rec? x.index = some r ∧ r.id = x.id ∧ r.state = .testing
        ∧ (d.leaseOf x.index).isSome = true)
    ∧ (let d := town.modRec 2 fun r => { r with report := some ⟨1100, none, 0, true⟩ };
      ∃ x r, d.test? 0 = some x ∧ d.rec? x.index = some r ∧ r.id = x.id ∧ r.state = .testing
        ∧ d.leaseOf x.index = none ∧ r.report.any BatteryReport.cutoffNear = true)
    ∧ ∃ x r, town.test? 0 = some x ∧ town.rec? x.index = some r ∧ r.id = x.id ∧ r.state = .testing
      ∧ town.leaseOf x.index = none ∧ r.report = none :=
  ⟨⟨_, _, rfl, rfl, rfl, rfl⟩, ⟨rfl, ⟨_, _, rfl, rfl, rfl⟩, nofun⟩, ⟨rfl, _, _, _, rfl, rfl, rfl, rfl, rfl⟩,
    ⟨_, _, rfl, rfl, rfl, rfl, rfl⟩, ⟨_, _, rfl, rfl, rfl, rfl, rfl, rfl⟩, _, _, rfl, rfl, rfl, rfl, rfl, rfl⟩

/-- The automatic claim at the end of a test without a lease: granted, the class's demand at the most. -/
theorem test_testEnd_claims :
    (let d := town.endTest 0 ⟨2, 3, .running, 100, false, none, none⟩ (.verdict .fail) 0 true;
      (d.rec? 2).map Record.state = some .fed ∧ (d.leaseOf 2).map Lease.steps = some 8 ∧ d.test? 0 = none) := by decide +kernel

/-- The end of a test starts the next one of the agenda, in the channel it has freed. -/
theorem test_testEnd_examines :
    (let t : Test := ⟨2, 3, .running, 100, false, none, none⟩;
      let d : Device := { town with test := { town.test with agenda := [⟨1, 2, .host, 0⟩], channels := List.replicate 4 (some t) } };
      ((d.endTest 0 t (.verdict .pass) 0 false).test? 0).map Test.index = some 1) := by decide +kernel

/-! ## Hypotheses met: the host port -/

/-- A key by index, followed by entries. -/
def byIndex (i : Nat) (entries : List Byte) : List Byte := [1, 0, 0, 0, BitVec.ofNat 8 i] ++ entries

/-- The device with a response of no fields waiting. -/
def answered : Device := { town with port := { town.port with status := .ready, response := some ⟨0, [], 0⟩ } }

theorem test_meets_PortTransactions :
    (at_ town).settled town ∧ (0 = 0 ∧ 1 ≤ 1) ∧ town.port.status ≠ .ready ∧ (at_ answered).settled answered
    ∧ (∃ r, answered.port.status = .ready ∧ answered.port.response = some r
      ∧ 3 - 1 < ([r.code, BitVec.ofNat 8 r.fields.length] ++ r.fields ++ [r.check]).length
      ∧ ([r.code, BitVec.ofNat 8 r.fields.length] ++ r.fields ++ [r.check]).length ≤ 4 - 1)
    ∧ (0x00 : Byte) ≠ 0xA1 ∧ (0x00 : Byte) ≠ 0xB2 :=
  ⟨settled_self rfl rfl, by decide, by decide +kernel, settled_self rfl rfl, ⟨_, rfl, rfl, by decide, by decide⟩, by decide, by decide⟩

theorem test_meets_BusyPortDiscards : (at_ answered).settled answered ∧ answered.port.status ≠ .idle :=
  ⟨settled_self rfl rfl, by decide +kernel⟩

set_option maxRecDepth 4000 in
theorem test_meets_RefusedRequests :
    ((at_ town).settled town ∧ town.port.status = .idle ∧ ([1, 0] : List Byte).length < 3 + byteAt [1, 0] 1 ∧ 32 < byteAt [1, 33] 1
      ∧ byteSum (0xA1 :: ([1, 0, 0] : List Byte).take (3 + byteAt [1, 0, 0] 1)) ≠ 0 ∧ 32 < (List.replicate 33 (0 : Byte)).length)
    ∧ ((at_ town).takes [] town ∧ (0x00 : Byte) ∉ ([0x01, 0x02, 0x03, 0x10, 0x11, 0x12, 0x13, 0x14, 0x15, 0x16, 0x20, 0x21, 0x22,
      0x30, 0x31, 0x32, 0x33, 0x3F] : List Byte))
    ∧ ((at_ town).takes [0] town ∧ parseKey [0] = none ∧ (at_ town).takes [3, 0, 0, 0, 63] town ∧ parseKey [3, 0, 0, 0, 63] = some (.line 63))
    ∧ ((at_ town).takes [80, 1] town ∧ 79 < byteAt [80, 1] 0 ∧ byteAt [79, 0] 1 = 0 ∧ 127 < byteAt [79, 128] 1 ∧ 63 < byteAt [64] 0)
    ∧ ((at_ town).takes (byIndex 80 [1]) town ∧ parseKey (byIndex 80 [1]) = none ∧ byteAt (byIndex 79 [0]) 5 = 0
      ∧ 3 < byteAt (byIndex 79 [4]) 5)
    ∧ ((at_ town).takes [0, 0, 0, 9, 4] town ∧ Machine.Class.ofCode (byteAt [0, 0, 0, 9, 4] 4) = none
      ∧ validId (BitVec.ofNat 32 (natBE [0, 0, 0, 0])) = false ∧ fieldNumbersOk [(9, 0)] = false ∧ [(7, 41)].all fieldValueOk = false)
    ∧ ((at_ town).takes (byIndex 3 [2, 0, 64]) town ∧ parseEntries ((byIndex 3 [2, 0, 64]).drop 5) = some [(2, 64)]
      ∧ entryValue [(2, 64)] 2 = some 64 ∧ lineValueOk 64 = false)
    ∧ (5 ≤ (byIndex 3 []).length ∧ parseKey ((byIndex 3 []).take 5) = some (.index 3) ∧ (∃ r, town.keyed (.index 3) = some (3, r))
      ∧ parseEntries ((byIndex 3 []).drop 5) = some []) :=
  ⟨⟨settled_self rfl rfl, rfl, by decide +kernel⟩, ⟨takes_self rfl rfl rfl (by decide), by decide +kernel⟩, ⟨takes_self rfl rfl rfl (by decide), rfl, takes_self rfl rfl rfl (by decide), rfl⟩, ⟨takes_self rfl rfl rfl (by decide), by decide +kernel⟩,
    ⟨takes_self rfl rfl rfl (by decide), by decide +kernel⟩, ⟨takes_self rfl rfl rfl (by decide), by decide +kernel⟩, ⟨takes_self rfl rfl rfl (by decide), by decide +kernel⟩, by decide, rfl, ⟨_, rfl⟩, rfl⟩

/-- Keys and entries that are and are not in their layout. -/
theorem test_layouts :
    parseKey [1, 0, 0, 0, 79] = some (.index 79) ∧ parseKey [1, 0, 0, 0, 80] = none ∧ parseKey [2, 0, 0, 0, 0] = none
    ∧ parseKey [2, 255, 255, 255, 254] = some (.id 0xFFFFFFFE#32) ∧ parseKey [3, 0, 0, 0, 63] = some (.line 63)
    ∧ parseKey [3, 0, 0, 1, 0] = none ∧ parseKey [1, 0, 0, 0] = none ∧ parseEntries [1, 0] = none
    ∧ parseEntries [2, 255, 255, 3, 1, 2] = some [(2, 65535), (3, 258)] := by decide

theorem test_meets_IdentifyAnswer : (at_ town).takes [] town := takes_self rfl rfl rfl (by decide)

theorem test_meets_ReadConfigAnswer :
    ((at_ town).takes [1, 27] town ∧ ∀ b ∈ ([1, 27] : List Byte), 1 ≤ b.toNat ∧ b.toNat ≤ 27)
    ∧ ((at_ town).takes (List.replicate 16 27) town ∧ (List.replicate 16 (27 : Byte)).length ≤ 16)
    ∧ ((at_ town).takes (List.replicate 17 27) town ∧ ¬ (List.replicate 17 (27 : Byte)).length ≤ 16)
    ∧ (at_ town).takes [28] town ∧ ¬ (28 : Byte).toNat ≤ 27 :=
  ⟨⟨takes_self rfl rfl rfl (by decide), by decide +kernel⟩, ⟨takes_self rfl rfl rfl (by decide), by decide⟩, ⟨takes_self rfl rfl rfl (by decide), by decide⟩, takes_self rfl rfl rfl (by decide), by decide⟩

set_option maxRecDepth 4000 in
/-- The lengths of the record view's parts and of RESERVE_STATUS (tables 10-8 to 10-10, 10-13). -/
theorem test_view_lengths :
    (∀ k, k < 4 → 1 ≤ k → (town.viewPart 0 k).length = [29, 23, 29].getD (k - 1) 0) ∧ town.viewPart 79 1 = [0xFF]
    ∧ town.reserveFields.length = 38 ∧ (town.attentionFields 0).length = 4 := by decide +kernel

set_option maxRecDepth 4000 in
theorem test_meets_ReadingRequests :
    (let p := byIndex 0 [3];
      (at_ town).takes p town ∧ p.length = 6 ∧ (1 ≤ byteAt p 5 ∧ byteAt p 5 ≤ 3) ∧ parseKey (p.take 5) = some (.index 0)
        ∧ ∃ r, town.keyed (.index 0) = some (0, r))
    ∧ (let p := byIndex 79 [1];
      (at_ town).takes p town ∧ p.length = 6 ∧ parseKey (p.take 5) = some (.index 79) ∧ (∀ l, Key.index 79 ≠ .line l)
        ∧ town.keyed (.index 79) = none)
    ∧ (let p : List Byte := [3, 0, 0, 0, 63, 1];
      (at_ town).takes p town ∧ parseKey (p.take 5) = some (.line 63) ∧ ∃ x, town.line? 63 = some x)
    ∧ ((at_ town).takes [79, 127] town ∧ (79 : Byte).toNat ≤ 79 ∧ (127 : Byte) ≠ 0 ∧ (127 : Byte).toNat < 128
      ∧ ∀ i, (79 : Byte).toNat ≤ i → i < 80 → ¬ ∃ r, town.rec? i = some r ∧ (127 : Byte).getLsbD (r.state.code.toNat - 1) = true)
    ∧ ((at_ town).takes [0, 16] town ∧ (∃ r, town.rec? 0 = some r ∧ (16 : Byte).getLsbD (r.state.code.toNat - 1) = true))
    ∧ (at_ town).takes [] town :=
  ⟨⟨takes_self rfl rfl rfl (by decide), rfl, by decide, rfl, _, rfl⟩, ⟨takes_self rfl rfl rfl (by decide), rfl, rfl, nofun, rfl⟩, ⟨takes_self rfl rfl rfl (by decide), rfl, _, rfl⟩,
    ⟨takes_self rfl rfl rfl (by decide), by decide, by decide, by decide, fun i hi hj ⟨r, hr, _⟩ => by
      obtain rfl : i = 79 := by
        have : (79 : Byte).toNat = 79 := rfl
        omega
      exact nomatch hr.symm.trans (rfl : town.rec? 79 = none)⟩, ⟨takes_self rfl rfl rfl (by decide), _, rfl, rfl⟩, takes_self rfl rfl rfl (by decide)⟩

theorem test_meets_AttentionClearEffect :
    ((at_ town).takes [255, 31, 0] town ∧ ¬ (31 < (31 : Byte).toNat))
    ∧ ((at_ town).takes [79, 0, 63] town ∧ town.rec? (79 : Byte).toNat = none) ∧ (∃ r, town.rec? (0 : Byte).toNat = some r)
    ∧ ((at_ town).takes [80, 0, 1] town ∧ 79 < (80 : Byte).toNat ∧ (80 : Byte) ≠ 255) :=
  ⟨⟨takes_self rfl rfl rfl (by decide), by decide⟩, ⟨takes_self rfl rfl rfl (by decide), rfl⟩, ⟨_, rfl⟩, takes_self rfl rfl rfl (by decide), by decide, by decide⟩

theorem test_meets_ConfigureEffect :
    ((at_ town).takes [1] town ∧ parseEntries [1] = none)
    ∧ ((at_ town).takes [1, 0, 80] town ∧ parseEntries [1, 0, 80] = some [(1, 80)]
      ∧ ((settingRange 1).1 ≤ 80 ∧ 80 ≤ (settingRange 1).2) ∧ (let new := [(1, 80)].foldl (fun x e => x.put e.1 e.2) town.settings;
        new.exhaustedEnter < new.exhaustedLeave ∧ new.exhaustedLeave ≤ new.criticalEnter ∧ new.criticalEnter < new.criticalLeave
        ∧ new.criticalLeave ≤ new.lowEnter ∧ new.lowEnter < new.lowLeave ∧ new.criticalCeiling ≤ new.lowCeiling
        ∧ new.lowCeiling ≤ new.normalCeiling ∧ new.passDrop < new.weakDrop))
    ∧ (at_ town).takes [1, 0, 79] town
    ∧ (let new := [(1, 79)].foldl (fun x e => x.put e.1 e.2) town.settings; ¬ new.lowCeiling ≤ new.normalCeiling) :=
  ⟨⟨takes_self rfl rfl rfl (by decide), rfl⟩, ⟨takes_self rfl rfl rfl (by decide), by decide +kernel⟩, takes_self rfl rfl rfl (by decide), by decide +kernel⟩

/-- An ENROL of an ID on a line as LIFELINE. -/
def enrolling (t l : Nat) : List Byte := bytesBE 4 t ++ [1, 2, 0, BitVec.ofNat 8 l]

theorem test_meets_EnrolEffect :
    (∀ t l, (t = 1 ∨ t = 9) → (l = 0 ∨ l = 63) → (at_ town).takes (enrolling t l) town ∧ 5 ≤ (enrolling t l).length
      ∧ (BitVec.ofNat 32 t : TermId) = BitVec.ofNat 32 (natBE ((enrolling t l).take 4))
      ∧ Machine.Class.ofCode (byteAt (enrolling t l) 4) = some .lifeline ∧ parseEntries ((enrolling t l).drop 5) = some [(2, l)]
      ∧ fieldNumbersOk [(2, l)] = true ∧ entryValue [(2, l)] 1 = none ∧ [(2, l)].all fieldValueOk = true
      ∧ validId (BitVec.ofNat 32 t) = true)
    ∧ (town.findId 1).isSome = true ∧ town.findId 9 = none ∧ town.lineTaken 0 = true ∧ town.lineTaken 63 = false
    ∧ (∀ o ∈ (List.replicate 80 (some (terminal 1 .standard .pending none none))), o.isSome = true)
    ∧ town.roster.records[6]? = some none ∧ ∀ j, j < 6 → (town.rec? j).isSome = true := by
  refine ⟨?_, by decide +kernel⟩
  rintro t l (rfl | rfl) (rfl | rfl) <;> exact ⟨takes_self rfl rfl rfl (by decide), by decide +kernel⟩

theorem test_meets_AmendEffect :
    (∀ n v, (n = 1 ∧ v = 3) ∨ (n = 3 ∧ v = 2) ∨ (n = 2 ∧ v = 3) ∨ (n = 2 ∧ v = 63) ∨ (n = 2 ∧ v = 0) → ∀ i, i < 6 →
      (at_ town).takes (byIndex i [BitVec.ofNat 8 n, 0, BitVec.ofNat 8 v]) town
      ∧ parseKey ((byIndex i [BitVec.ofNat 8 n, 0, BitVec.ofNat 8 v]).take 5) = some (.index i) ∧ (town.keyed (.index i)).isSome = true
      ∧ parseEntries ((byIndex i [BitVec.ofNat 8 n, 0, BitVec.ofNat 8 v]).drop 5) = some [(n, v)] ∧ fieldNumbersOk [(n, v)] = true
      ∧ [(n, v)] ≠ [] ∧ [(n, v)].all fieldValueOk = true)
    ∧ (town.leaseOf 0).isSome = true ∧ (∃ r, town.rec? 0 = some r ∧ r.state = .fed) ∧ town.lineTaken 0 = true
    ∧ (∃ r, calling.rec? 3 = some r ∧ r.state = .waking) ∧ (∃ r, town.rec? 3 = some r ∧ r.line = some 3)
    ∧ (∃ r, town.rec? 4 = some r ∧ r.state = .pending ∧ r.line ≠ some 63) ∧ town.lineTaken 63 = false
    ∧ (at_ town).takes (byIndex 5 [2, 0xFF, 0xFF]) town ∧ parseEntries ((byIndex 5 [2, 0xFF, 0xFF]).drop 5) = some [(2, 65535)]
    ∧ ∃ r, town.rec? 5 = some r ∧ r.line ≠ none ∧ r.state ≠ .pending := by
  refine ⟨?_, rfl, ⟨_, rfl, rfl⟩, rfl, ⟨_, rfl, rfl⟩, ⟨_, rfl, rfl⟩, ⟨_, rfl, rfl, nofun⟩, rfl, takes_self rfl rfl rfl (by decide), rfl, _, rfl, nofun, by decide⟩
  have key : ∀ i, i < 6 → ∀ x ∈ [(1, 3), (3, 2), (2, 3), (2, 63), (2, 0)],
      parseKey ((byIndex i [BitVec.ofNat 8 x.1, 0, BitVec.ofNat 8 x.2]).take 5) = some (.index i) ∧ (town.keyed (.index i)).isSome = true
      ∧ parseEntries ((byIndex i [BitVec.ofNat 8 x.1, 0, BitVec.ofNat 8 x.2]).drop 5) = some [x] ∧ fieldNumbersOk [x] = true
      ∧ [x] ≠ [] ∧ [x].all fieldValueOk = true := by decide +kernel
  intro n v h i hi
  refine ⟨⟨settled_self rfl rfl, rfl, by simp [byIndex]⟩, key i hi (n, v) ?_⟩
  rcases h with ⟨rfl, rfl⟩ | ⟨rfl, rfl⟩ | ⟨rfl, rfl⟩ | ⟨rfl, rfl⟩ | ⟨rfl, rfl⟩ <;> simp

set_option maxRecDepth 4000 in
theorem test_meets_RetireAndPurge :
    ((at_ town).takes (byIndex 0 []) town ∧ town.ok = true ∧ town.lease.claims = [] ∧ town.wake.queue = []
      ∧ (∀ y ∈ town.test.agenda, y.index = 0) ∧ town.heldSlot 0 1 = some 2 ∧ parseKey (byIndex 0 []) = some (.index 0)
      ∧ ∃ r, town.keyed (.index 0) = some (0, r))
    ∧ (at_ town).takes [] town ∧ town.inState 5 .quarantined = true ∧ town.inState 79 .quarantined = false :=
  ⟨⟨takes_self rfl rfl rfl (by decide), by decide +kernel, rfl, rfl, nofun, rfl, rfl, _, rfl⟩, takes_self rfl rfl rfl (by decide), rfl, rfl⟩

set_option maxRecDepth 4000 in
/-- RETIRE of a record with a test, and of one with an agenda entry. -/
theorem test_meets_RetireAndPurge_tests :
    ((at_ town).takes (byIndex 2 []) town ∧ (∀ y ∈ town.test.agenda, y.index = 2) ∧ town.channelOf 2 = some 0
      ∧ ∃ r, town.keyed (.index 2) = some (2, r))
    ∧ (let d : Device := { town with test := { town.test with agenda := [⟨0, 1, .host, 0⟩] } };
      (at_ d).takes (byIndex 0 []) d ∧ (∀ y ∈ d.test.agenda, y.index = 0) ∧ d.inAgenda 0 = true) :=
  ⟨⟨takes_self rfl rfl rfl (by decide), nofun, rfl, _, rfl⟩, takes_self rfl rfl rfl (by decide), by decide, rfl⟩

set_option maxRecDepth 4000 in
/-- An AMEND with two field entries whose key names no record. -/
theorem test_meets_KeyNotFoundAndReinstate_amend :
    (let p := byIndex 79 [1, 0, 1, 2, 255, 255];
      (at_ town).takes p town ∧ 5 ≤ p.length ∧ parseKey (p.take 5) = some (.index 79) ∧ (∀ l, Key.index 79 ≠ .line l)
        ∧ town.keyed (.index 79) = none ∧ parseEntries (p.drop 5) = some [(1, 1), (2, 65535)]
        ∧ fieldNumbersOk [(1, 1), (2, 65535)] = true ∧ (∀ v, entryValue [(1, 1), (2, 65535)] 2 = some v → v < 64 ∨ v = 65535)) :=
  ⟨takes_self rfl rfl rfl (by decide), by decide, rfl, nofun, rfl, rfl, rfl, fun v h => .inr (Option.some.inj h).symm⟩

set_option maxRecDepth 4000 in
theorem test_meets_KeyNotFoundAndReinstate :
    ((at_ town).takes (byIndex 79 []) town ∧ parseKey (byIndex 79 []) = some (.index 79) ∧ (∀ l, Key.index 79 ≠ .line l)
      ∧ town.keyed (.index 79) = none ∧ town.mode.mode = .outage)
    ∧ (let d : Device := { town with mode := { town.mode with mode := .returnPending } };
      (at_ d).takes (byIndex 79 []) d ∧ d.mode.mode ≠ .outage)
    ∧ ((at_ town).takes (byIndex 5 []) town ∧ parseKey (byIndex 5 []) = some (.index 5)
      ∧ ∃ r, town.keyed (.index 5) = some (5, r) ∧ r.state = .quarantined)
    ∧ ∃ r, town.keyed (.index 0) = some (0, r) ∧ r.state ≠ .quarantined :=
  ⟨⟨takes_self rfl rfl rfl (by decide), rfl, nofun, rfl, rfl⟩, ⟨takes_self rfl rfl rfl (by decide), by decide +kernel⟩, ⟨takes_self rfl rfl rfl (by decide), rfl, _, rfl, rfl⟩, _, rfl, by decide⟩

/-- What a key and an index name, and what they do not. -/
theorem test_meets_KeyNotFoundAndReinstate_keys :
    (town.keyed (.id 6)).map Prod.fst = some 5 ∧ town.keyed (.id 7) = none ∧ town.keyed (.line 0) = none
    ∧ town.findId 1 = some 0 ∧ town.findId 7 = none
    ∧ (town.leaseOf 0).isSome = true ∧ town.leaseOf 1 = none
    ∧ (({ town with lease := { town.lease with claims := [⟨1, 2, 9, .standard, false, 0, 300⟩] } } : Device).claimOf 1).isSome = true
    ∧ town.claimOf 1 = none ∧ (waiting.wakeEntryOf 3).isSome = true ∧ waiting.wakeEntryOf 2 = none
    ∧ ({ town with test := { town.test with agenda := [⟨79, 4, .host, 0⟩] } } : Device).inAgenda 79 = true
    ∧ town.channelOf 2 = some 0 ∧ town.channelOf 0 = none ∧ town.heldSlot 0 1 = some 2 ∧ town.heldSlot 0 9 = none := by decide +kernel

set_option maxRecDepth 4000 in
theorem test_meets_HostOrders :
    ((at_ town).takes (byIndex 3 []) town ∧ town.mode.mode = .outage ∧ parseKey (byIndex 3 []) = some (.index 3)
      ∧ (∃ r, town.keyed (.index 3) = some (3, r) ∧ r.state = .dormant) ∧ town.wakeEntryOf 3 = none ∧ town.inAgenda 3 = false)
    ∧ (∃ r, town.keyed (.index 2) = some (2, r) ∧ r.state = .testing) ∧ (waiting.wakeEntryOf 3).isSome = true
    ∧ ({ town with test := { town.test with agenda := [⟨3, 4, .host, 0⟩] } } : Device).inAgenda 3 = true
    ∧ ((at_ town).takes [63] town ∧ (63 : Byte).toNat ≤ 63 ∧ (∃ x, town.line? 63 = some x ∧ x.binding = none)
      ∧ (∃ x, town.line? 0 = some x ∧ x.binding.isSome = true) ∧ (town.wake.queue.filter WakeEntry.isDiscovery).length < 4)
    ∧ (∃ a, discovering.wake.attempt = some a ∧ a.target = .discovery 6)
    ∧ 4 ≤ ((List.range 4).map fun l => (⟨.discovery (l + 60), l, false⟩ : WakeEntry)).length :=
  ⟨⟨takes_self rfl rfl rfl (by decide), rfl, rfl, ⟨_, rfl, rfl⟩, rfl, rfl⟩, ⟨_, rfl, rfl⟩, rfl, rfl, ⟨takes_self rfl rfl rfl (by decide), by decide, ⟨_, rfl, rfl⟩, ⟨_, rfl, rfl⟩, by decide +kernel⟩,
    ⟨_, rfl, rfl⟩, by decide⟩

/-- The device with an agenda entry for records 0 (FED), 1 (ATTACHED), 2 (TESTING) and 3 (DORMANT), in this order. -/
def planned : Device := { town with test := { town.test with
  agenda := [⟨0, 1, .host, 0⟩, ⟨1, 2, .host, 1⟩, ⟨2, 3, .timer, 2⟩, ⟨3, 4, .timer, 3⟩], arrival := 4 } }

theorem test_meets_HostOrders_agenda :
    town.test.agenda = [] ∧ planned.test.agenda ≠ []
    ∧ (∃ r, planned.rec? 2 = some r ∧ r.state = .testing)
    ∧ (∀ i, i < 2 → ∃ r, planned.rec? i = some r ∧ r.id = BitVec.ofNat 32 (i + 1) ∧ planned.mode.mode = .outage ∧ r.report = none
      ∧ planned.mode.level = .normal ∧ (r.state = .fed ∨ (r.state = .attached ∧ planned.claimOf i = none)))
    ∧ (planned.test.channels[1]? = some none ∧ ∀ j, j < 1 → (planned.test? j).isSome = true)
    ∧ (∃ r, planned.rec? 3 = some r ∧ r.id = 4 ∧ r.state = .dormant ∧ r.report = none) ∧ planned.test.inHand = none
    ∧ (∀ k, k < 3 → ∀ r, planned.rec? k = some r → r.state ≠ .dormant) ∧ planned.wakeEntryOf 3 = none
    ∧ ({ planned with wake := waiting.wake } : Device).wakeEntryOf 3 = some ⟨.record 3 4 .host, 0, false⟩ := by
  refine ⟨rfl, nofun, ⟨_, rfl, rfl⟩, ?_, ⟨rfl, by decide +kernel⟩, ⟨_, rfl, rfl, rfl, rfl⟩, rfl, ?_, rfl, rfl⟩
  · intro i hi
    have : i = 0 ∨ i = 1 := by omega
    rcases this with rfl | rfl
    · exact ⟨_, rfl, rfl, rfl, rfl, rfl, .inl rfl⟩
    · exact ⟨_, rfl, rfl, rfl, rfl, rfl, .inr ⟨rfl, rfl⟩⟩
  · intro k hk r hr
    have : k = 0 ∨ k = 1 ∨ k = 2 := by omega
    rcases this with rfl | rfl | rfl <;> (rw [← congrArg Record.state (Option.some.inj hr)]; decide)

theorem test_planned :
    (let d := planned.examineAgenda;
      (d.rec? 0).map Record.state = some .testing ∧ (d.rec? 1).map Record.state = some .testing
        ∧ d.test.channels.map (Option.map Test.index) = [some 2, some 0, some 1, none]
        ∧ d.test.agenda.map AgendaEntry.index = [2, 3] ∧ d.test.inHand = some (3, 4) ∧ (d.rec? 3).map Record.state = some .waking) := by
  decide +kernel

theorem test_meets_StepKeepsRanges : (at_ town).dev.ok = true ∧ ∃ s', step ⟨town, [.frameStart false]⟩ = .next s' :=
  ⟨by decide +kernel, _, rfl⟩

theorem test_meets_StepKeepsCommittedLaw :
    (at_ town).dev.committedOk ∧ ∃ s', step ⟨town, [.frameStart false]⟩ = .next s' :=
  ⟨⟨rfl, by decide +kernel, rfl, rfl, by decide +kernel, rfl⟩, _, rfl⟩

end Sys2Proof.Tests
end

section
/-! Every command, and so every step, keeps the ranges and capacities of the device's state. -/

namespace Sys2Proof.Machine

open Device

/-- A command's answer is a next state with the queue as it was, whose device keeps the ranges and capacities. -/
def KeepsRanges (s : State) (a : Answered) : Prop := ∃ d', a = .next ⟨d', s.pending⟩ ∧ Sound s.dev d'

namespace KeepsRanges

theorem supply (s : State) (f : Device → Device) (hf : ∀ d, Sound d (f d)) : KeepsRanges s (s.supply f) :=
  ⟨_, rfl, hf _⟩

theorem outside (s : State) (f : Device → Device) (hf : ∀ d, Sound d (f d)) : KeepsRanges s (s.outside f) := by
  refine ⟨_, rfl, ?_⟩
  split
  · exact (Sound.settle _).trans (hf _)
  · exact Sound.refl _

theorem guarded (s : State) (ok : Bool) (f : Device → Device) (hf : ∀ d, Sound d (f d)) : KeepsRanges s (s.guarded ok f) :=
  outside s _ fun d => by
    split
    · exact hf d
    · exact Sound.refl _

theorem half (s : State) (ok : Bool) (p : Nat) (f : Device → Device) (hf : ∀ d, Sound d (f d)) :
    KeepsRanges s (s.half ok p f) :=
  outside s _ fun d => by
    split
    · exact hf d
    · exact Sound.refl _

theorem named (s : State) (e : Due) : KeepsRanges s (s.named e) := by
  refine ⟨_, rfl, ?_⟩
  split
  · exact Sound.takeDue _ _
  · exact Sound.refl _

theorem request (s : State) (code : Byte) (p : List Byte) (carry : List Byte → Device → Device × Answer)
    (h : ∀ p d, Sound d (carry p d).1) : KeepsRanges s (s.request code p carry) :=
  outside s _ fun d => Sound.hostRequest d code p _ fun e => h p e

/-- A scan round that its frame still has room for, after the frame's beacon. -/
theorem openRound (d : Device) (cs : List Nat) (v : Nat) :
    Sound d (if d.roundOpen then d.beaconFirst.scanRound cs v else d) := by
  split
  · exact (Sound.beaconFirst d).trans (Sound.scanRound _ cs v)
  · exact Sound.refl d

/-- Every command answers with a next state and keeps the ranges and capacities. -/
theorem exec (c : Instr) (s : State) : KeepsRanges s (exec c s) := by
  cases c with
  | vinLoss => exact supply s _ Sound.vinFalls
  | vinReturn b => exact supply s _ fun d => Sound.vinReturns d b
  | keepLoss => exact supply s _ Sound.keepFalls
  | resetNLow ns => exact supply s _ fun d => Sound.resetNLow d ns
  | resetNRise => exact supply s _ Sound.resetNRises
  | frameStart b => exact outside s _ fun d => Sound.frameStart d b
  | outageStart | outageEnd | outageMinute | wakeTimerExpiry | testTimerExpiry | silenceLost | idleRest | attachWindowExpiry
  | discoveryWindowExpiry | pulseEnd | softstartComplete | levelChange | leaseExpiry | claimWaitExpiry | testWindowEnd
  | testBeginTimeout => exact named s _
  | beacon => exact half s _ _ _ Sound.beacon
  | attachWord => exact half s _ _ _ Sound.attachWord
  | terminalDownlink n => exact half s _ _ _ fun d => Sound.terminalDownlink d n
  | repeatLimitLost n => exact half s _ _ _ fun d => Sound.repeatLimitLost d n
  | attachUplink w => exact half s _ _ _ fun d => Sound.attachUplink d w
  | terminalUplink n w => exact half s _ _ _ fun d => Sound.terminalUplink d n w
  | announce | claim | renew | release | report | restRequest | nop | unknownUplinkKind =>
    exact outside s _ fun d => Sound.takeRow d _
  | trip l pin => exact ⟨_, rfl, Sound.tripCommand s.dev l pin⟩
  | scanRound cs v => exact guarded s _ (fun d => if d.roundOpen then d.beaconFirst.scanRound cs v else d) fun d => openRound d cs v
  | overdrawNotice l => exact outside s _ fun d => Sound.takeNotice d l
  | fetch n => exact outside s _ fun d => Sound.fetchTransaction d n
  | unknownTransaction bs => exact outside s _ fun d => Sound.transaction d bs
  | unknownRequest code p => exact outside s _ fun d => Sound.hostRequest d code p _ fun e => Sound.carryCode code p e
  | identify p => exact request s _ p _ Sound.carryIdentify
  | configure p => exact request s _ p _ Sound.carryConfigure
  | readConfig p => exact request s _ p _ Sound.carryReadConfig
  | enrol p => exact request s _ p _ Sound.carryEnrol
  | amend p => exact request s _ p _ Sound.carryAmend
  | retire p => exact request s _ p _ Sound.carryRetire
  | purge p => exact request s _ p _ Sound.carryPurge
  | reinstate p => exact request s _ p _ Sound.carryReinstate
  | lookup p => exact request s _ p _ Sound.carryLookup
  | scanNext p => exact request s _ p _ Sound.carryScanNext
  | wake p => exact request s _ p _ Sound.carryWake
  | test p => exact request s _ p _ Sound.carryTest
  | discover p => exact request s _ p _ Sound.carryDiscover
  | reserveStatus p => exact request s _ p _ Sound.carryReserveStatus
  | attentionRead p => exact request s _ p _ Sound.carryAttentionRead
  | attentionClear p => exact request s _ p _ Sound.carryAttentionClear
  | strangersRead p => exact request s _ p _ Sound.carryStrangersRead
  | reset p => exact outside s _ fun d => Sound.hostRequest d _ p _ fun e => Sound.carryReset p e
  | requestBadFrame bs => exact outside s _ fun d => Sound.rawRequest d bs

end KeepsRanges

/-- Settles O59: a step is a command carried out with the queue's rest, or a tick, and each keeps the ranges. -/
theorem stepKeepsRanges : Obligations.StepKeepsRanges := by
  unfold Obligations.StepKeepsRanges
  intro s s' hok hstep
  unfold step at hstep
  split at hstep
  · rename_i c rest _
    obtain ⟨d', hd', hsound⟩ := KeepsRanges.exec c { s with pending := rest }
    cases hd'.symm.trans hstep
    exact hsound hok
  · cases hstep
    exact Sound.tick s.dev hok

end Sys2Proof.Machine
end

section
/-! What a reset leaves, and what a transition request of the Roster does (table 1-4). -/

namespace Sys2Proof.Machine

open Device

/-! ## Resets -/

/-- The state that a warm reset leaves to a record: what is out on a slot becomes DORMANT (R29). -/
theorem Record.warm_eq (r : Record) : r.warm = { r with
    state := if r.state.onSlot then .dormant else r.state
    slot := none, lease := false, idle := 0, charge := 0, lost := 0, tests := 0, rationSpent := false
    wakeTimer := if r.wakeInterval = 0 then none else some r.wakeInterval
    testTimer := if r.testInterval = 0 then none else some r.testInterval } := by
  unfold Record.warm Record.loadWake Record.loadTest
  cases h : r.state <;> rfl

theorem Device.rec?_resetTo_cold (d : Device) (i : Nat) : (d.resetTo .cold).rec? i = none := by
  change ((List.replicate 80 none)[i]? : Option (Option Record)).join = none
  rw [List.getElem?_replicate]
  split <;> rfl

theorem Device.rec?_resetTo_warm (d : Device) (i : Nat) : (d.resetTo .warm).rec? i = (d.rec? i).map Record.warm := by
  simp only [Device.rec?, Device.resetTo, List.getElem?_map]
  cases d.roster.records[i]? with
  | none => rfl
  | some o => rfl

theorem Device.line?_resetTo (d : Device) (kind : ResetKind) (l : Nat) :
    (d.resetTo kind).line? l = (d.line? l).map fun x => x.after kind := by
  simp [Device.line?, Device.resetTo]

/-- Settles O8: the parts of the working state are those of `resetTo` as it stands; the records and lines go by the lemmas above. -/
theorem resetLeaves : Obligations.ResetLeaves := by
  unfold Obligations.ResetLeaves
  refine ⟨fun d kind => ?_, fun d i => ⟨rec?_resetTo_cold d i, fun h => ?_, fun r h => ?_⟩⟩
  · refine ⟨rfl, rfl, rfl, rfl, rfl, rfl, rfl, rfl, rfl, rfl, fun l x h => ?_⟩
    rw [line?_resetTo, h]
    cases kind <;> rfl
  · rw [rec?_resetTo_warm, h]
    rfl
  · rw [rec?_resetTo_warm, h]
    exact congrArg some r.warm_eq

/-! ## Transition requests -/

theorem Device.transition_none {d : Device} {i : Nat} (h : d.rec? i = none) (t : TermId) (c : Cause) :
    d.transition i t c = none := by
  unfold Device.transition
  rw [h]

theorem Device.transition_other {d : Device} {i : Nat} {r : Record} {t : TermId} (h : d.rec? i = some r) (hid : r.id ≠ t)
    (c : Cause) : d.transition i t c = none := by
  unfold Device.transition
  simp only [h, if_neg hid]

theorem Device.transition_unlisted {d : Device} {i : Nat} {r : Record} {c : Cause} (h : d.rec? i = some r)
    (hc : c.target r.state = none) (t : TermId) : d.transition i t c = none := by
  unfold Device.transition
  simp only [h, hc, ite_self]

theorem Device.transition_taken {d : Device} {i : Nat} {r : Record} {t : TermId} {c : Cause} {st : RecState}
    (h : d.rec? i = some r) (hid : r.id = t) (hc : c.target r.state = some st) :
    d.transition i t c = some (d.modRec i fun r => r.enter c st) := by
  unfold Device.transition
  simp only [h, if_pos hid, hc]

/-- Settles O27: the statement's table is `Cause.target`, and what it writes with the new state is `Record.enter`. -/
theorem transitionTable : Obligations.TransitionTable := by
  unfold Obligations.TransitionTable
  intro d i t c goes
  have hgoes : ∀ st, goes st = c.target st := by
    intro st
    cases c <;> cases st <;> rfl
  refine ⟨fun h => transition_none h t c, fun r hr => ⟨?_, fun st hid hst => ?_⟩⟩
  · rintro (hid | hnone)
    · exact transition_other hr hid c
    · exact transition_unlisted hr (hgoes _ ▸ hnone) t
  · rw [hgoes] at hst
    rw [transition_taken hr hid hst]
    refine congrArg some (congrArg (d.modRec i) (funext fun x => ?_))
    revert hst
    cases c <;> cases r.state <;> simp only [Cause.target, reduceCtorEq, false_implies, Option.some.injEq] <;> rintro rfl <;> rfl

end Sys2Proof.Machine
end

section
/-! The device's tables: what a read gives after a write, what a lookup finds, and the orders to a line as changes of its
entry. -/

namespace Sys2Proof.Machine

/-! ## Positions in a list -/

theorem findIdx?_some_iff {α : Type} {p : α → Bool} {xs : List α} {i : Nat} : xs.findIdx? p = some i ↔
    (∃ a, xs[i]? = some a ∧ p a = true) ∧ ∀ j a, j < i → xs[j]? = some a → p a = false := by
  rw [List.findIdx?_eq_some_iff_getElem]
  constructor
  · rintro ⟨h, hp, hlow⟩
    refine ⟨⟨xs[i], List.getElem?_eq_getElem h, hp⟩, fun j a hj ha => ?_⟩
    obtain ⟨hj', rfl⟩ := List.getElem?_eq_some_iff.1 ha
    simpa using hlow j hj
  · rintro ⟨⟨a, ha, hp⟩, hlow⟩
    obtain ⟨h, rfl⟩ := List.getElem?_eq_some_iff.1 ha
    exact ⟨h, hp, fun j hj => by simp [hlow j _ hj (List.getElem?_eq_getElem (hj.trans h))]⟩

theorem findIdx?_none_iff {α : Type} {p : α → Bool} {xs : List α} :
    xs.findIdx? p = none ↔ ∀ (j : Nat) a, xs[j]? = some a → p a = false := by
  rw [List.findIdx?_eq_none_iff]
  exact ⟨fun h j a ha => h a (List.mem_of_getElem? ha), fun h a ha =>
    let ⟨j, hj⟩ := List.mem_iff_getElem?.1 ha
    h j a hj⟩

theorem modify_modify {α : Type} (l : List α) (i : Nat) (f g : α → α) :
    (l.modify i f).modify i g = l.modify i fun a => g (f a) := by
  refine List.ext_getElem? fun j => ?_
  simp only [List.getElem?_modify]
  cases l[j]? with
  | none => rfl
  | some a => by_cases h : i = j <;> simp [h]

namespace Device

variable {d : Device} {i j l m n : Nat} {t : TermId}

/-! ## Records -/

theorem rec?_modRec (d : Device) (i j : Nat) (f : Record → Record) :
    (d.modRec i f).rec? j = if i = j then (d.rec? j).map f else d.rec? j := by
  simp only [rec?, modRec, List.getElem?_modify]
  rcases d.roster.records[j]? with _ | _ | r <;> by_cases h : i = j <;> simp [h]

@[simp] theorem rec?_modRec_same (d : Device) (i : Nat) (f : Record → Record) :
    (d.modRec i f).rec? i = (d.rec? i).map f := by
  simp [rec?_modRec]

theorem rec?_modRec_other (h : i ≠ j) (f : Record → Record) : (d.modRec i f).rec? j = d.rec? j := by
  simp [rec?_modRec, h]

theorem modRec_modRec (d : Device) (i : Nat) (f g : Record → Record) :
    (d.modRec i f).modRec i g = d.modRec i fun r => g (f r) := by
  have h : (d.roster.records.modify i (Option.map f)).modify i (Option.map g)
      = d.roster.records.modify i (Option.map fun r => g (f r)) := by
    rw [modify_modify]
    refine congrArg _ (funext fun o => ?_)
    cases o <;> rfl
  simp only [modRec, h]

theorem rec?_putRec_same (h : i < d.roster.records.length) (r : Option Record) : (d.putRec i r).rec? i = r := by
  simp [rec?, putRec, h]

theorem rec?_putRec_other (h : i ≠ j) (r : Option Record) : (d.putRec i r).rec? j = d.rec? j := by
  simp [rec?, putRec, List.getElem?_set_ne h]

theorem rec?_length {r : Record} (h : d.rec? i = some r) : i < d.roster.records.length :=
  (List.getElem?_eq_some_iff.1 (rec?_eq.1 h)).1

/-- A read of records that an update leaves as they are. -/
theorem rec?_congr {d e : Device} (h : e.roster.records = d.roster.records) (i : Nat) : e.rec? i = d.rec? i := by
  unfold rec?
  rw [h]

theorem lineOf_eq {r : Record} (h : d.rec? i = some r) : d.lineOf i = r.line := by
  simp [lineOf, h]

theorem names_eq {r : Record} (h : d.rec? i = some r) : d.names i t = (r.id == t) := by
  simp [names, h]

theorem inState_eq {r : Record} (h : d.rec? i = some r) (st : RecState) : d.inState i st = (r.state == st) := by
  simp [inState, h]

theorem inState_iff {st : RecState} : d.inState i st = true ↔ ∃ r, d.rec? i = some r ∧ r.state = st := by
  unfold inState
  cases d.rec? i <;> simp

theorem findId_some_iff : d.findId t = some i ↔
    (∃ q, d.rec? i = some q ∧ q.id = t) ∧ ∀ j q, j < i → d.rec? j = some q → q.id ≠ t := by
  unfold findId
  rw [findIdx?_some_iff]
  refine and_congr ⟨?_, ?_⟩ ⟨?_, ?_⟩
  · rintro ⟨o, ho, hp⟩
    cases o with
    | none => cases hp
    | some q => exact ⟨q, rec?_eq.2 ho, by simpa using hp⟩
  · rintro ⟨q, hq, hid⟩
    exact ⟨some q, rec?_eq.1 hq, by simp [hid]⟩
  · intro h j q hj hq
    simpa using h j (some q) hj (rec?_eq.1 hq)
  · intro h j o hj ho
    cases o with
    | none => rfl
    | some q => simpa using h j q hj (rec?_eq.2 ho)

theorem findId_none_iff : d.findId t = none ↔ ∀ j q, d.rec? j = some q → q.id ≠ t := by
  unfold findId
  rw [findIdx?_none_iff]
  constructor
  · intro h j q hq
    simpa using h j (some q) (rec?_eq.1 hq)
  · intro h j o ho
    cases o with
    | none => rfl
    | some q => simpa using h j q (rec?_eq.2 ho)

/-! ## Requests of the Roster -/

theorem request_taken {r : Record} {c : Cause} {st : RecState} (h : d.rec? i = some r) (hid : r.id = t)
    (hc : c.target r.state = some st) : d.request i t c = d.modRec i fun r => r.enter c st := by
  simp [request, transition_taken h hid hc]

theorem request_unlisted {r : Record} {c : Cause} (h : d.rec? i = some r) (hc : c.target r.state = none) :
    d.request i t c = d := by
  simp [request, transition_unlisted h hc t]

/-! ## Lines -/

theorem line?_modLine (d : Device) (l m : Nat) (f : Line → Line) :
    (d.modLine l f).line? m = if l = m then (d.line? m).map f else d.line? m := by
  simp only [line?, modLine, List.getElem?_modify]
  cases d.lines[m]? <;> by_cases h : l = m <;> simp [h]

@[simp] theorem line?_modLine_same (d : Device) (l : Nat) (f : Line → Line) :
    (d.modLine l f).line? l = (d.line? l).map f := by
  simp [line?_modLine]

theorem line?_modLine_other (h : l ≠ m) (f : Line → Line) : (d.modLine l f).line? m = d.line? m := by
  simp [line?_modLine, h]

theorem modLine_modLine (d : Device) (l : Nat) (f g : Line → Line) :
    (d.modLine l f).modLine l g = d.modLine l fun x => g (f x) := by
  simp only [modLine, modify_modify]

/-- A read of lines that an update leaves as they are. -/
theorem line?_congr {d e : Device} (h : e.lines = d.lines) (l : Nat) : e.line? l = d.line? l := by
  unfold line?
  rw [h]

/-- An OFF order leaves a TRIPPED switch as it is and turns any other OFF (table 6-2). -/
theorem orderOff_eq (d : Device) (l : Nat) :
    d.orderOff l = d.modLine l fun x => { x with switch := if x.switch = .tripped then .tripped else .off } := by
  unfold orderOff
  refine congrArg _ (funext fun x => ?_)
  obtain ⟨_, sw, _, _, _, _⟩ := x
  cases sw <;> simp

/-- An UNLATCH order turns a TRIPPED switch OFF and leaves any other (table 6-2). -/
theorem orderUnlatch_eq (d : Device) (l : Nat) :
    d.orderUnlatch l = d.modLine l fun x => { x with switch := if x.switch = .tripped then .off else x.switch } := by
  unfold orderUnlatch
  refine congrArg _ (funext fun x => ?_)
  obtain ⟨_, sw, _, _, _, _⟩ := x
  cases sw <;> simp

theorem onLineOf_some {r : Record} {order : Device → Nat → Device} (h : d.rec? i = some r) (hl : r.line = some l) :
    d.onLineOf i order = order d l := by
  simp [onLineOf, lineOf_eq h, hl]

theorem onLineOf_none {r : Record} {order : Device → Nat → Device} (h : d.rec? i = some r) (hl : r.line = none) :
    d.onLineOf i order = d := by
  simp [onLineOf, lineOf_eq h, hl]

/-! ## Slots and channels -/

theorem slot?_eq (h : 2 ≤ n) : d.slot? n = d.riser.slots[n - 2]? := by
  unfold slot?
  rw [if_neg (by omega)]

theorem slot?_add_two (d : Device) (k : Nat) : d.slot? (k + 2) = d.riser.slots[k]? := slot?_eq (by omega)

theorem slot?_some_ge {s : Slot} (h : d.slot? n = some s) : 2 ≤ n := by
  unfold slot? at h
  split at h
  · cases h
  · omega

theorem slot?_modSlot (d : Device) (n m : Nat) (f : Slot → Slot) :
    (d.modSlot n f).slot? m = if n = m then (d.slot? m).map f else d.slot? m := by
  by_cases hm : m < 2
  · simp [slot?, hm]
  · by_cases hn : n < 2
    · have h : n ≠ m := by omega
      simp [modSlot, hn, h]
    · have h : n - 2 = m - 2 ↔ n = m := by omega
      simp only [slot?, if_neg hm, modSlot, if_neg hn, List.getElem?_modify, h]
      cases d.riser.slots[m - 2]? <;> by_cases h : n = m <;> simp [h]

theorem heldBy_iff {s : Slot} : s.heldBy i t = true ↔ ∃ h, s.use = .held h ∧ h.index = i ∧ h.id = t := by
  unfold Slot.heldBy
  cases s.use <;> simp

theorem heldBy_false_iff {s : Slot} : s.heldBy i t = false ↔ ∀ h, s.use = .held h → ¬(h.index = i ∧ h.id = t) := by
  unfold Slot.heldBy
  cases s.use <;> simp

theorem heldSlot_some_iff : d.heldSlot i t = some n ↔
    (∃ x h, d.slot? n = some x ∧ x.use = .held h ∧ h.index = i ∧ h.id = t)
    ∧ ∀ m x h, m < n → d.slot? m = some x → x.use = .held h → ¬(h.index = i ∧ h.id = t) := by
  unfold heldSlot
  rw [Option.map_eq_some_iff]
  constructor
  · rintro ⟨k, hk, rfl⟩
    obtain ⟨⟨s, hs, hp⟩, hlow⟩ := findIdx?_some_iff.1 hk
    obtain ⟨h, hu, hi, ht⟩ := heldBy_iff.1 hp
    refine ⟨⟨s, h, (slot?_add_two d k).trans hs, hu, hi, ht⟩, fun m x h hm hx => ?_⟩
    have hm2 := slot?_some_ge hx
    exact heldBy_false_iff.1 (hlow (m - 2) x (by omega) (slot?_eq hm2 ▸ hx)) h
  · rintro ⟨⟨x, h, hx, hu, hi, ht⟩, hlow⟩
    have hn := slot?_some_ge hx
    refine ⟨n - 2, findIdx?_some_iff.2 ⟨⟨x, slot?_eq hn ▸ hx, heldBy_iff.2 ⟨h, hu, hi, ht⟩⟩, fun j a hj ha => ?_⟩, by omega⟩
    exact heldBy_false_iff.2 fun g hg => hlow (j + 2) a g (by omega) ((slot?_add_two d j).trans ha) hg

theorem heldSlot_none_iff : d.heldSlot i t = none ↔
    ∀ n x h, d.slot? n = some x → x.use = .held h → ¬(h.index = i ∧ h.id = t) := by
  unfold heldSlot
  rw [Option.map_eq_none_iff, findIdx?_none_iff]
  constructor
  · intro h n x g hx
    exact heldBy_false_iff.1 (h (n - 2) x (slot?_eq (slot?_some_ge hx) ▸ hx)) g
  · intro h j a ha
    exact heldBy_false_iff.2 fun g => h (j + 2) a g ((slot?_add_two d j).trans ha)

theorem test?_eq {c : Nat} {x : Test} : d.test? c = some x ↔ d.test.channels[c]? = some (some x) := by
  simp [test?, Option.join_eq_some_iff]

theorem channelOf_some_iff {c : Nat} : d.channelOf i = some c ↔
    (∃ x, d.test? c = some x ∧ x.index = i) ∧ ∀ b x, b < c → d.test? b = some x → x.index ≠ i := by
  unfold channelOf
  rw [findIdx?_some_iff]
  refine and_congr ⟨?_, ?_⟩ ⟨?_, ?_⟩
  · rintro ⟨o, ho, hp⟩
    cases o with
    | none => cases hp
    | some x => exact ⟨x, test?_eq.2 ho, by simpa using hp⟩
  · rintro ⟨x, hx, hi⟩
    exact ⟨some x, test?_eq.1 hx, by simp [hi]⟩
  · intro h b x hb hx
    simpa using h b (some x) hb (test?_eq.1 hx)
  · intro h b o hb ho
    cases o with
    | none => rfl
    | some x => simpa using h b x hb (test?_eq.2 ho)

theorem channelOf_none_iff : d.channelOf i = none ↔ ∀ c x, d.test? c = some x → x.index ≠ i := by
  unfold channelOf
  rw [findIdx?_none_iff]
  constructor
  · intro h c x hx
    simpa using h c (some x) (test?_eq.1 hx)
  · intro h c o ho
    cases o with
    | none => rfl
    | some x => simpa using h c x (test?_eq.2 ho)

/-! ## Entries of the other tables -/

theorem leaseOf_some {y : Lease} (h : d.leaseOf i = some y) : y ∈ d.lease.leases ∧ y.index = i :=
  ⟨List.mem_of_find?_eq_some h, by simpa using List.find?_some h⟩

theorem leaseOf_none_iff : d.leaseOf i = none ↔ ∀ y ∈ d.lease.leases, y.index ≠ i := by
  simp [leaseOf, List.find?_eq_none]

theorem claimOf_some {c : ClaimEntry} (h : d.claimOf i = some c) : c ∈ d.lease.claims ∧ c.index = i :=
  ⟨List.mem_of_find?_eq_some h, by simpa using List.find?_some h⟩

theorem claimOf_none_iff : d.claimOf i = none ↔ ∀ c ∈ d.lease.claims, c.index ≠ i := by
  simp [claimOf, List.find?_eq_none]

theorem inAgenda_iff : d.inAgenda i = true ↔ ∃ x ∈ d.test.agenda, x.index = i := by
  simp [inAgenda]

theorem isRecord_iff {e : WakeEntry} : e.isRecord i = true ↔ ∃ t p, e.target = .record i t p := by
  unfold WakeEntry.isRecord
  cases e.target <;> simp

theorem wakeEntryOf_some {e : WakeEntry} (h : d.wakeEntryOf i = some e) :
    e ∈ d.wake.queue ∧ ∃ t p, e.target = .record i t p :=
  ⟨List.mem_of_find?_eq_some h, isRecord_iff.1 (List.find?_some (p := fun e : WakeEntry => e.isRecord i) h)⟩

theorem wakeEntryOf_none_iff :
    d.wakeEntryOf i = none ↔ ∀ e ∈ d.wake.queue, ∀ t p, e.target ≠ .record i t p := by
  simp [wakeEntryOf, List.find?_eq_none, isRecord_iff]

end Device

end Sys2Proof.Machine
end

section
/-! Requests that name a record by a key: keys that name none, and REINSTATE. -/

namespace Sys2Proof.Machine

open Device

namespace Device

theorem keyed_index {d : Device} {i j : Nat} {r : Record} :
    d.keyed (.index j) = some (i, r) ↔ i = j ∧ d.rec? j = some r := by
  simp only [keyed, Option.map_eq_some_iff, Prod.mk.injEq]
  constructor
  · rintro ⟨q, hq, rfl, rfl⟩
    exact ⟨rfl, hq⟩
  · rintro ⟨rfl, hr⟩
    exact ⟨r, hr, rfl, rfl⟩

theorem keyed_id {d : Device} {t : TermId} {i : Nat} {r : Record} : d.keyed (.id t) = some (i, r) ↔
    d.rec? i = some r ∧ r.id = t ∧ ∀ j q, j < i → d.rec? j = some q → q.id ≠ t := by
  simp only [keyed, Option.bind_eq_some_iff, Option.map_eq_some_iff, Prod.mk.injEq]
  constructor
  · rintro ⟨k, hk, q, hq, rfl, rfl⟩
    obtain ⟨⟨q', hq', hid⟩, hlow⟩ := findId_some_iff.1 hk
    cases hq.symm.trans hq'
    exact ⟨hq, hid, hlow⟩
  · rintro ⟨hr, hid, hlow⟩
    exact ⟨i, findId_some_iff.2 ⟨⟨r, hr, hid⟩, hlow⟩, r, hr, rfl, rfl⟩

/-- The record that a key names stands at the index it gives. -/
theorem rec?_of_keyed {d : Device} {k : Key} {i : Nat} {r : Record} (h : d.keyed k = some (i, r)) : d.rec? i = some r := by
  cases k with
  | index j =>
    obtain ⟨rfl, hr⟩ := keyed_index.1 h
    exact hr
  | id t => exact (keyed_id.1 h).1
  | line l => cases h

/-- Outside OUTAGE a request with a key of an index or an ID draws WRONG_MODE (R155, R180). -/
theorem inOutageMode_wrong {d : Device} {p : List Byte} {k : Key} (hk : parseKey p = some k) (hl : ∀ l, k ≠ .line l)
    (hm : d.mode.mode ≠ .outage) (go : Nat → Record → Device × Answer) :
    d.inOutageMode p go = (d, fails .wrongMode) := by
  unfold inOutageMode
  rw [hk]
  cases k with
  | line l => exact absurd rfl (hl l)
  | index j => simp only [if_neg hm]
  | id t => simp only [if_neg hm]

/-- In OUTAGE a key that names no record draws NOT_FOUND (R155, R180). -/
theorem inOutageMode_absent {d : Device} {p : List Byte} {k : Key} (hk : parseKey p = some k) (hl : ∀ l, k ≠ .line l)
    (hm : d.mode.mode = .outage) (hr : d.keyed k = none) (go : Nat → Record → Device × Answer) :
    d.inOutageMode p go = (d, fails .notFound) := by
  have hw := withKey_absent hk hl hr go
  unfold inOutageMode
  rw [hk]
  cases k with
  | line l => exact absurd rfl (hl l)
  | index j => simp only [if_pos hm, hw]
  | id t => simp only [if_pos hm, hw]

/-- An AMEND with entries in their layout by a key that names no record draws NOT_FOUND (R18, R176). -/
theorem carryAmend_absent {d : Device} {p : List Byte} {k : Key} {es : List (Nat × Nat)} (hp : 5 ≤ p.length)
    (he : parseEntries (p.drop 5) = some es) (hn : fieldNumbersOk es = true) (hv : (entryValue es 2).all lineValueOk = true)
    (hk : parseKey (p.take 5) = some k) (hl : ∀ l, k ≠ .line l) (hr : d.keyed k = none) :
    carryAmend p d = (d, fails .notFound) := by
  have hc : ¬(p.length < 5 ∨ (!fieldNumbersOk es) = true ∨ (!(entryValue es 2).all lineValueOk) = true) := by
    rw [hn, hv]
    simp only [Bool.not_true, Bool.false_eq_true, or_false]
    omega
  unfold carryAmend
  simp only [he, if_neg hc]
  exact withKey_absent hk hl hr _

/-- REINSTATE of a QUARANTINED record (R24): DORMANT with its wake timer loaded and its failure counters at 0, its line
unlatched. -/
theorem reinstateRecord_eq {d : Device} {i : Nat} {r : Record} (hr : d.rec? i = some r) (hq : r.state = .quarantined) :
    let e := d.modRec i fun r => { r with
      state := .dormant, reason := none, slot := none, lease := false, idle := 0, failedWakes := 0, lost := 0
      wakeTimer := if r.wakeInterval = 0 then none else some r.wakeInterval }
    d.reinstateRecord i r = match r.line with
      | some l => e.modLine l fun x => { x with switch := if x.switch = Switch.tripped then .off else x.switch }
      | none => e := by
  intro e
  have he : (d.request i r.id .reinstate).modRec i (fun r => { r with failedWakes := 0, lost := 0 }) = e := by
    rw [request_taken hr rfl (st := .dormant) (by rw [hq]; rfl), modRec_modRec]
    rfl
  have hline : e.lineOf i = r.line := by simp [lineOf, e, hr]
  unfold reinstateRecord
  simp only [he, onLineOf, hline]
  cases r.line with
  | none => rfl
  | some l => exact orderUnlatch_eq e l

end Device

theorem carryReinstate_other {d : Device} {p : List Byte} {k : Key} {i : Nat} {r : Record} (hk : parseKey p = some k)
    (hr : d.keyed k = some (i, r)) (hs : r.state ≠ .quarantined) : carryReinstate p d = (d, fails .wrongState) := by
  unfold carryReinstate
  rw [withKey_found hk hr, if_neg hs]

theorem carryReinstate_quarantined {d : Device} {p : List Byte} {k : Key} {i : Nat} {r : Record} (hk : parseKey p = some k)
    (hr : d.keyed k = some (i, r)) (hs : r.state = .quarantined) : carryReinstate p d = (d.reinstateRecord i r, okBare) := by
  unfold carryReinstate
  rw [withKey_found hk hr, if_pos hs]

/-- Settles O57: lookups are first positions, and each request goes by what its key names. -/
theorem keyNotFoundAndReinstate : Obligations.KeyNotFoundAndReinstate := by
  unfold Obligations.KeyNotFoundAndReinstate
  refine ⟨fun d i r t => ?_, fun d i t => ?_, fun s d p k hs hk hl => ⟨fun hn => ?_, fun hm => ?_⟩, ?_, ?_⟩
  · exact ⟨fun j => keyed_index, keyed_id, fun l => rfl, findId_some_iff, findId_none_iff⟩
  · exact ⟨fun y => leaseOf_some, leaseOf_none_iff, fun c => claimOf_some, claimOf_none_iff, inAgenda_iff,
      fun e => wakeEntryOf_some, wakeEntryOf_none_iff, fun c => channelOf_some_iff, channelOf_none_iff,
      fun n => heldSlot_some_iff, heldSlot_none_iff⟩
  · have hw : ∀ c, (d.working c p).keyed k = none := fun c => (working_keyed d c p k).trans hn
    refine ⟨State.request_takes hs (withKey_absent hk hl (hw _) _), State.request_takes hs (withKey_absent hk hl (hw _) _),
      fun hm => ?_⟩
    have hm' : ∀ c, (d.working c p).mode.mode = .outage := fun _ => hm
    exact ⟨State.request_takes hs (inOutageMode_absent hk hl (hm' _) (hw _) _),
      State.request_takes hs (inOutageMode_absent hk hl (hm' _) (hw _) _)⟩
  · have hm' : ∀ c, (d.working c p).mode.mode ≠ .outage := fun _ => hm
    exact ⟨State.request_takes hs (inOutageMode_wrong hk hl (hm' _) _),
      State.request_takes hs (inOutageMode_wrong hk hl (hm' _) _)⟩
  · intro s d p k es hs hp hk hl hn he hf hv
    have hline : (entryValue es 2).all lineValueOk = true := by
      cases h : entryValue es 2 with
      | none => rfl
      | some v => simpa [lineValueOk] using hv v h
    exact State.request_takes hs (carryAmend_absent hp he hf hline hk hl ((working_keyed d 0x11 p k).trans hn))
  · intro s d p k i r hs hk hr w
    have hw : w.keyed k = some (i, r) := (working_keyed d 0x14 p k).trans hr
    refine ⟨fun hq => State.request_takes hs (carryReinstate_other hk hw hq), fun hq => ?_⟩
    refine State.request_takes hs ((carryReinstate_quarantined hk hw hq).trans ?_)
    rw [reinstateRecord_eq (rec?_of_keyed hw) hq]
    rfl

end Sys2Proof.Machine
end

section
/-! ENROL (R16, R17) and when a line counts as taken (R3); an AMEND that the statement about it misses. -/

namespace Sys2Proof.Machine

open Device

theorem bytesBE_one (n : Nat) : bytesBE 1 n = [BitVec.ofNat 8 n] := by
  simp [bytesBE]

namespace Device

theorem isLine_iff {e : WakeEntry} {l : Nat} : e.isLine l = true ↔ e.target = .discovery l := by
  unfold WakeEntry.isLine
  cases e.target <;> simp

theorem lineTaken_iff {d : Device} {l : Nat} : d.lineTaken l = true ↔
    (∃ x, d.line? l = some x ∧ x.binding.isSome = true) ∨ (∃ e ∈ d.wake.queue, e.target = .discovery l)
    ∨ ∃ a, d.wake.attempt = some a ∧ a.target = .discovery l := by
  simp only [lineTaken, Bool.or_eq_true, or_assoc, List.any_eq_true, isLine_iff]
  refine or_congr ?_ (or_congr Iff.rfl ?_)
  · cases d.line? l <;> simp
  · rcases d.wake.attempt with _ | a
    · simp
    · cases h : a.target <;> simp [h]

theorem emptyIndex_some {d : Device} {i : Nat} (h : d.roster.records[i]? = some none)
    (hlow : ∀ j, j < i → (d.rec? j).isSome = true) : d.emptyIndex = some i := by
  refine findIdx?_some_iff.2 ⟨⟨none, h, rfl⟩, fun j o hj ho => ?_⟩
  have hj' := hlow j hj
  cases o with
  | none => simp [rec?, ho] at hj'
  | some r => rfl

theorem emptyIndex_none {d : Device} (h : ∀ o ∈ d.roster.records, o.isSome = true) : d.emptyIndex = none := by
  refine findIdx?_none_iff.2 fun j o ho => ?_
  have ho' := h o (List.mem_of_getElem? ho)
  cases o with
  | none => cases ho'
  | some r => rfl

/-- ENROL of an ID that a record holds (R16). -/
theorem enrol_duplicate {d : Device} {t : TermId} (h : (d.findId t).isSome = true) (c : Class) (es : List (Nat × Nat)) :
    d.enrol t c es = (d, fails .duplicateId) := by
  unfold enrol
  rw [if_pos h]

/-- ENROL on a line that is taken (R16). -/
theorem enrol_taken {d : Device} {t : TermId} {es : List (Nat × Nat)} {l : Nat} (h : d.findId t = none)
    (hl : (entryValue es 2).bind lineValue = some l) (ht : d.lineTaken l = true) (c : Class) :
    d.enrol t c es = (d, fails .lineTaken) := by
  unfold enrol
  simp [h, hl, ht]

/-- ENROL of a new ID on a line that is not taken goes by the lowest empty index (R16, R17). -/
theorem enrol_placed {d : Device} {t : TermId} {es : List (Nat × Nat)} (h : d.findId t = none)
    (hl : ∀ l, (entryValue es 2).bind lineValue = some l → d.lineTaken l = false) (c : Class) :
    (d.emptyIndex = none → d.enrol t c es = (d, fails .rosterFull))
    ∧ ∀ i, d.emptyIndex = some i → d.enrol t c es =
      (match (entryValue es 2).bind lineValue with
        | some l => (d.putRec i (some (Record.enrolled t c es))).modLine l fun x => { x with binding := some i }
        | none => d.putRec i (some (Record.enrolled t c es)), .ok, bytesBE 1 i) := by
  have htaken : ((entryValue es 2).bind lineValue).any d.lineTaken = false := by
    cases hv : (entryValue es 2).bind lineValue with
    | none => rfl
    | some l => simpa using hl l hv
  unfold enrol
  refine ⟨fun he => ?_, fun i he => ?_⟩
  · simp [h, htaken, he]
  · simp only [h, htaken, he]
    rfl

end Device

/-- An ENROL whose parameters are in their layout and ranges is judged by R16. -/
theorem carryEnrol_judged {d : Device} {p : List Byte} {c : Class} {es : List (Nat × Nat)} (hp : 5 ≤ p.length)
    (hc : Class.ofCode (byteAt p 4) = some c) (he : parseEntries (p.drop 5) = some es) (hn : fieldNumbersOk es = true)
    (h1 : entryValue es 1 = none) (hf : es.all fieldValueOk = true)
    (ht : validId (BitVec.ofNat 32 (natBE (p.take 4))) = true) :
    carryEnrol p d = d.enrol (BitVec.ofNat 32 (natBE (p.take 4))) c es := by
  unfold carryEnrol
  simp only [he, hc, h1, hn, hf, ht, hp, Option.isNone_none, and_self, if_true]

/-- Settles O54: ENROL is judged by R16 in its order, and the record it makes is `Record.enrolled`. -/
theorem enrolEffect : Obligations.EnrolEffect := by
  unfold Obligations.EnrolEffect
  refine ⟨fun d l => lineTaken_iff, ?_⟩
  rintro s d p t c es hs hp rfl hc he hn h1 hf ht w line
  have hcarry : carryEnrol p w = w.enrol _ c es := carryEnrol_judged hp hc he hn h1 hf ht
  refine ⟨fun hdup => State.request_takes hs (hcarry.trans (enrol_duplicate (d := w) hdup c es)), fun hnew => ⟨fun l hl htaken => ?_,
    fun hfree => ⟨fun hfull => ?_, fun i hempty hlow => ?_⟩⟩⟩
  · exact State.request_takes hs (hcarry.trans (enrol_taken (d := w) hnew hl htaken c))
  · exact State.request_takes hs (hcarry.trans ((enrol_placed (d := w) hnew hfree c).1 (emptyIndex_none hfull)))
  · have hplaced := (enrol_placed (d := w) hnew hfree c).2 i (emptyIndex_some hempty hlow)
    intro wakeInterval testInterval r e
    have hr : Record.enrolled (BitVec.ofNat 32 (natBE (p.take 4))) c es = r := by
      cases c <;> rfl
    rw [bytesBE_one, hr] at hplaced
    exact State.request_takes hs (hcarry.trans hplaced)

/-! ## AMEND of a line out of range -/

/-- A DORMANT record whose line is FFFFh, which is no line. -/
def strayRecord : Record where
  id := 1
  line := some 65535
  cls := .standard
  state := .dormant
  reason := none
  slot := none
  lease := false
  method := .auto
  wakeInterval := 0
  wakeTimer := none
  wakeOnOutage := false
  testInterval := 0
  testTimer := none
  cap := 24
  ration := 0
  charge := 0
  rationSpent := false
  capabilities := none
  report := none
  verdict := none
  suspect := false
  lastOutcome := none
  tests := 0
  failedWakes := 0
  lost := 0
  idle := 0

/-- The device after a cold reset, with that record at index 0. -/
def strayDevice : Device := Device.reset.putRec 0 (some strayRecord)

/-- AMEND by index 0: field 2, the line, gets the value FFFFh. -/
def strayAmend : List Byte := [1, 0, 0, 0, 0, 2, 0xFF, 0xFF]

/-- The line of the record at index 0 in a next state. -/
def lineAfter : Answered → Option (Option Nat)
  | .next s => (s.dev.rec? 0).map Record.line
  | .fault _ => none
  | .refused _ => none

/-- The model takes FFFFh as "none" and so removes the line. -/
theorem lineAfter_strayAmend : lineAfter (exec (.amend strayAmend) ⟨strayDevice, []⟩) = some none := by
  rfl

/-- Refutes O55: where the record's line is FFFFh, a value of FFFFh is both the line it has, which by the statement leaves the
record as it is, and "none", by which the model removes the line. -/
theorem not_amendEffect : ¬ Obligations.AmendEffect := by
  unfold Obligations.AmendEffect
  intro h
  have hs : (⟨strayDevice, []⟩ : State).takes strayAmend strayDevice :=
    ⟨⟨rfl, settle_none rfl⟩, rfl, by decide⟩
  obtain ⟨_, hok⟩ := h ⟨strayDevice, []⟩ strayDevice strayAmend (.index 0) 0 strayRecord [(2, 65535)] hs (by decide) (by decide)
    rfl (by decide) (by decide) (by decide) (by decide)
  have hsame := (hok rfl).1 (.inr (.inl ⟨65535, rfl, rfl⟩))
  have hline := lineAfter_strayAmend
  rw [hsame] at hline
  exact absurd hline (by decide)

end Sys2Proof.Machine
end

section
/-! Parameters of host requests: which bytes a key and the entries are (R192), and what is refused at which step of R176. -/

namespace Sys2Proof.Machine

open Device

/-! ## Keys -/

theorem natBE_two (a b : Byte) : natBE [a, b] = 256 * a.toNat + b.toNat := by
  simp only [natBE, List.foldl_cons, List.foldl_nil]
  omega

theorem natBE_four (a b c e : Byte) :
    natBE [a, b, c, e] = 16777216 * a.toNat + 65536 * b.toNat + 256 * c.toNat + e.toNat := by
  simp only [natBE, List.foldl_cons, List.foldl_nil]
  omega

theorem validId_iff (t : TermId) : validId t = true ↔ t ≠ 0 ∧ t ≠ 0xFFFFFFFF := by
  simp [validId]

theorem validId_ofNat {v : Nat} (h : v < 4294967296) :
    validId (BitVec.ofNat 32 v) = true ↔ v ≠ 0 ∧ v ≠ 0xFFFFFFFF := by
  have h0 : BitVec.ofNat 32 v = 0 ↔ v = 0 := by
    rw [← BitVec.toNat_inj]
    simp [Nat.mod_eq_of_lt h]
  have h1 : BitVec.ofNat 32 v = 0xFFFFFFFF ↔ v = 0xFFFFFFFF := by
    rw [← BitVec.toNat_inj]
    simp [Nat.mod_eq_of_lt h]
  rw [validId_iff, ne_eq, ne_eq, h0, h1]

theorem parseKey_length {bs : List Byte} (h : bs.length ≠ 5) : parseKey bs = none := by
  unfold parseKey
  rw [if_neg h]

theorem parseKey_bytes (a b c e f : Byte) :
    let v := 16777216 * b.toNat + 65536 * c.toNat + 256 * e.toNat + f.toNat
    parseKey [a, b, c, e, f] = if a = 1 ∧ v < 80 then some (.index v)
      else if a = 2 ∧ v ≠ 0 ∧ v ≠ 0xFFFFFFFF then some (.id (BitVec.ofNat 32 v))
      else if a = 3 ∧ v < 64 then some (.line v) else none := by
  intro v
  have hv : v < 4294967296 := by have := b.isLt; have := c.isLt; have := e.isLt; have := f.isLt; omega
  have hbytes : natBE ([a, b, c, e, f].drop 1) = v := natBE_four b c e f
  have htype : byteAt [a, b, c, e, f] 0 = a.toNat := rfl
  unfold parseKey
  simp only [hbytes, htype, List.length_cons, List.length_nil, validId_ofNat hv]
  by_cases h1 : a = 1
  · subst h1
    simp
  by_cases h2 : a = 2
  · subst h2
    simp
  by_cases h3 : a = 3
  · subst h3
    simp
  · simp only [h1, h2, h3, false_and, if_false, if_true]
    split
    · exact absurd (BitVec.eq_of_toNat_eq ‹_›) h1
    · exact absurd (BitVec.eq_of_toNat_eq ‹_›) h2
    · exact absurd (BitVec.eq_of_toNat_eq ‹_›) h3
    · rfl

/-! ## Entries -/

theorem parseEntries_cons (a b c : Byte) (rest : List Byte) : parseEntries (a :: b :: c :: rest) =
    (parseEntries rest).map fun es => (a.toNat, 256 * b.toNat + c.toNat) :: es := by
  rw [parseEntries, natBE_two]
  cases parseEntries rest <;> rfl

theorem parseEntries_length (bs : List Byte) (h : bs.length % 3 ≠ 0) : parseEntries bs = none := by
  induction bs using parseEntries.induct with
  | case1 => exact absurd rfl h
  | case2 a b c rest es hes ih | case3 a b c rest hes ih =>
    have hrest : rest.length % 3 ≠ 0 := by
      simp only [List.length_cons] at h
      omega
    rw [parseEntries_cons, ih hrest]
    rfl
  | case4 => rfl
  | case5 => rfl

theorem distinctNumbers_iff (es : List (Nat × Nat)) : distinctNumbers es = true ↔ (es.map Prod.fst).Nodup := by
  induction es with
  | nil => simp [distinctNumbers]
  | cons e es ih =>
    have hany : (es.any fun f => f.1 == e.1) = false ↔ e.1 ∉ es.map Prod.fst := by
      rw [List.any_eq_false, List.mem_map]
      exact ⟨fun h ⟨f, hf, he⟩ => h f hf (by simp [he]), fun h f hf he => h ⟨f, hf, by simpa using he⟩⟩
    rw [distinctNumbers, Bool.and_eq_true, Bool.not_eq_true', hany, ih, List.map_cons, List.nodup_cons]

theorem fieldNumbersOk_iff (es : List (Nat × Nat)) :
    fieldNumbersOk es = true ↔ (es.map Prod.fst).Nodup ∧ ∀ e ∈ es, 1 ≤ e.1 ∧ e.1 ≤ 8 := by
  simp [fieldNumbersOk, distinctNumbers_iff]

theorem entryValue_cons (m v : Nat) (es : List (Nat × Nat)) (n : Nat) :
    entryValue ((m, v) :: es) n = if m = n then some v else entryValue es n := by
  by_cases h : m = n <;> simp [entryValue, h]

theorem ofCode_isSome (v : Nat) : (Class.ofCode v).isSome = true ↔ 1 ≤ v ∧ v ≤ 3 := by
  rcases v with _ | _ | _ | _ | v <;> simp [Class.ofCode]

theorem methodOfCode_isSome (v : Nat) : (WakeMethod.ofCode v).isSome = true ↔ 1 ≤ v ∧ v ≤ 3 := by
  rcases v with _ | _ | _ | _ | v <;> simp [WakeMethod.ofCode]

theorem yesNo_isSome (v : Nat) : (yesNo v).isSome = true ↔ v ≤ 1 := by
  rcases v with _ | _ | v <;> simp [yesNo]

theorem lineValueOk_iff (v : Nat) : lineValueOk v = true ↔ v < 64 ∨ v = 65535 := by
  simp [lineValueOk]

theorem fieldValueOk_iff (n v : Nat) : fieldValueOk (n, v) = true ↔ match n with
    | 1 => 1 ≤ v ∧ v ≤ 3 | 2 => v < 64 ∨ v = 65535 | 3 => 1 ≤ v ∧ v ≤ 3 | 4 => v ≤ 1440 | 5 => v ≤ 1 | 6 => v ≤ 10080
    | 7 => 1 ≤ v ∧ v ≤ 40 | 8 => v ≤ 65535 | _ => False := by
  unfold fieldValueOk
  split <;> simp_all [ofCode_isSome, methodOfCode_isSome, yesNo_isSome, lineValueOk_iff]

/-! ## The frame judgement and the code (R176, steps 1 and 2) -/

theorem goodFrame_none {bytes : List Byte} (h : bytes.length < 3 + byteAt bytes 1 ∨ 32 < byteAt bytes 1
    ∨ byteSum (0xA1 :: bytes.take (3 + byteAt bytes 1)) ≠ 0) : goodFrame bytes = none := by
  unfold goodFrame
  split
  · rename_i code len rest
    have hlen : byteAt (code :: len :: rest) 1 = len.toNat := rfl
    have htake : (code :: len :: rest).take (3 + len.toNat) = code :: len :: rest.take (len.toNat + 1) := by
      rw [show 3 + len.toNat = len.toNat + 1 + 1 + 1 by omega, List.take_succ_cons, List.take_succ_cons]
    rw [hlen, htake, List.length_cons, List.length_cons] at h
    rw [if_neg]
    rintro ⟨hle, hlt, hsum⟩
    rcases h with h | h | h
    · omega
    · omega
    · exact h hsum
  · rfl

/-- A REQUEST that is carried out as a bad frame, whatever its bytes (R173, R176). -/
theorem Device.requestTransaction_badFrame {d : Device} (hi : d.port.status = .idle) (bytes : List Byte)
    {carry : Device → Device × Option Answer} (hc : ∀ e, carry e = answered (e, fails .badFrame)) :
    d.requestTransaction bytes carry = ({ d with
      port := { d.port with overlap := false, sdo := some d.statusByte :: d.idleBytes (bytes.length - 1) }
      freeCount := d.freeCount + (bytes.length - 1) } : Device).answers .badFrame [] := by
  unfold requestTransaction
  simp only [hi, receive, hc]
  rfl

/-- A REQUEST that declares more than 32 parameters, whatever its code (R176). -/
theorem Device.hostRequest_long {d : Device} (hi : d.port.status = .idle) (code : Byte) {p : List Byte} (hp : 32 < p.length)
    (carry : Device → Device × Option Answer) : d.hostRequest code p carry = ({ d with
      port := { d.port with overlap := false, sdo := some d.statusByte :: d.idleBytes (3 + p.length) }
      freeCount := d.freeCount + (3 + p.length) } : Device).answers .badFrame [] := by
  have hlen : (requestBytes code p).length - 1 = 3 + p.length := by
    rw [requestBytes_length]
    omega
  unfold hostRequest
  rw [requestTransaction_badFrame hi _ fun e => if_pos hp, hlen]

theorem Device.carryCode_unknown (d : Device) {code : Byte} (p : List Byte)
    (h : code ∉ ([0x01, 0x02, 0x03, 0x10, 0x11, 0x12, 0x13, 0x14, 0x15, 0x16, 0x20, 0x21, 0x22, 0x30, 0x31, 0x32, 0x33, 0x3F]
      : List Byte)) : d.carryCode code p = answered (d, fails .unknownRequest) := by
  have hnat : code.toNat ∉ (([0x01, 0x02, 0x03, 0x10, 0x11, 0x12, 0x13, 0x14, 0x15, 0x16, 0x20, 0x21, 0x22, 0x30, 0x31, 0x32,
      0x33, 0x3F] : List Byte).map BitVec.toNat) := by
    rw [List.mem_map]
    rintro ⟨b, hb, hcode⟩
    exact h (BitVec.eq_of_toNat_eq hcode ▸ hb)
  unfold carryCode
  split
  case h_19 => rfl
  all_goals
    rename_i hcode
    rw [hcode] at hnat
    exact absurd (by decide) hnat

/-! ## Layout and ranges (R176, step 3) -/

namespace Device

variable {d : Device} {p : List Byte}

theorem bare_params (h : p ≠ []) (go : Device × Answer) : d.bare p go = (d, fails .badValue) := by
  cases p with
  | nil => exact absurd rfl h
  | cons b p => rfl

theorem withKey_bad (h : parseKey p = none ∨ ∃ l, parseKey p = some (.line l)) (go : Nat → Record → Device × Answer) :
    d.withKey p go = (d, fails .badValue) := by
  unfold withKey
  rcases h with h | ⟨l, h⟩ <;> rw [h]

theorem inOutageMode_bad (h : parseKey p = none ∨ ∃ l, parseKey p = some (.line l))
    (go : Nat → Record → Device × Answer) : d.inOutageMode p go = (d, fails .badValue) := by
  unfold inOutageMode
  rcases h with h | ⟨l, h⟩ <;> rw [h]

theorem carryLookup_bad (h : p.length ≠ 6 ∨ byteAt p 5 = 0 ∨ 3 < byteAt p 5 ∨ parseKey (p.take 5) = none) :
    carryLookup p d = (d, fails .badValue) := by
  unfold carryLookup
  dsimp only
  split
  · rfl
  · rename_i hlayout
    have hk : parseKey (p.take 5) = none := by tauto
    rw [hk]

theorem carryScanNext_bad (h : p.length ≠ 2 ∨ 79 < byteAt p 0 ∨ byteAt p 1 = 0 ∨ 127 < byteAt p 1) :
    carryScanNext p d = (d, fails .badValue) := by
  unfold carryScanNext
  dsimp only
  have hzero : byteAt p 1 = 0 → p.getD 1 0 = 0 := fun h => BitVec.eq_of_toNat_eq (by simpa [byteAt] using h)
  have htop : 127 < byteAt p 1 → (p.getD 1 0).getLsbD 7 = true := by
    unfold byteAt
    generalize p.getD 1 0 = b
    intro hb
    rw [← BitVec.msb_eq_getLsbD_last, BitVec.msb_eq_decide]
    simp
    omega
  rw [if_pos]
  tauto

theorem carryDiscover_bad (h : p.length ≠ 1 ∨ 63 < byteAt p 0) : carryDiscover p d = (d, fails .badValue) := by
  unfold carryDiscover
  exact if_pos h

theorem carryAttentionRead_bad (h : 1 < p.length) : carryAttentionRead p d = (d, fails .badValue) := by
  unfold carryAttentionRead
  exact if_pos (.inl h)

theorem carryAttentionClear_bad (h : p.length ≠ 3) : carryAttentionClear p d = (d, fails .badValue) := by
  unfold carryAttentionClear
  exact if_pos (.inl h)

theorem carryEnrol_bad (h : p.length < 5 ∨ Class.ofCode (byteAt p 4) = none
    ∨ validId (BitVec.ofNat 32 (natBE (p.take 4))) = false
    ∨ (∀ es, parseEntries (p.drop 5) = some es → fieldNumbersOk es = false ∨ (entryValue es 1).isSome = true
      ∨ es.all fieldValueOk = false)) : carryEnrol p d = (d, fails .badValue) := by
  unfold carryEnrol
  dsimp only
  split
  · rename_i es c he hc
    rw [if_neg]
    rintro ⟨hp, hn, h1, hf, ht⟩
    rcases h with h | h | h | h
    · omega
    · rw [h] at hc
      cases hc
    · rw [h] at ht
      cases ht
    · have h1' : (entryValue es 1).isSome = false := by simpa using h1
      simpa [hn, h1', hf] using h es he
  · rfl

theorem carryAmend_bad (h : p.length < 5 ∨ (parseKey (p.take 5) = none ∨ ∃ l, parseKey (p.take 5) = some (.line l))
    ∨ (∀ es, parseEntries (p.drop 5) = some es → fieldNumbersOk es = false
      ∨ ∃ v, entryValue es 2 = some v ∧ lineValueOk v = false)) : carryAmend p d = (d, fails .badValue) := by
  unfold carryAmend
  split
  · rfl
  · rename_i es he
    split
    · rfl
    · rename_i hlayout
      push Not at hlayout
      obtain ⟨hp, hn, hv⟩ := hlayout
      rcases h with h | h | h
      · omega
      · exact withKey_bad h _
      · rcases h es he with h | ⟨v, hv', h⟩
        · simp [h] at hn
        · simp [hv', h] at hv

/-- AMEND with no entry, or with a value out of its range, by a key that names a record (R18). -/
theorem carryAmend_badValue {k : Key} {i : Nat} {r : Record} {es : List (Nat × Nat)} (hk : parseKey (p.take 5) = some k)
    (hr : d.keyed k = some (i, r)) (he : parseEntries (p.drop 5) = some es) (h : es = [] ∨ es.all fieldValueOk = false) :
    carryAmend p d = (d, fails .badValue) := by
  have hbad : es.isEmpty = true ∨ (!es.all fieldValueOk) = true := by
    rcases h with rfl | h
    · exact .inl rfl
    · exact .inr (by rw [h]; rfl)
  unfold carryAmend
  simp only [he, if_pos hbad]
  split
  · rfl
  · exact withKey_found hk hr _

end Device

/-- Settles O48, a lemma for each clause; the requests go through `State.request_takes`. -/
theorem refusedRequests : Obligations.RefusedRequests := by
  unfold Obligations.RefusedRequests
  refine ⟨fun r => by cases r <;> rfl, ⟨fun bs => parseKey_length, parseKey_bytes⟩,
    ⟨rfl, parseEntries_length, parseEntries_cons⟩,
    fun es => ⟨fieldNumbersOk_iff es, fun n => rfl, fun m v n => entryValue_cons m v es n⟩,
    fun n v => ⟨fieldValueOk_iff n v, lineValueOk_iff v, rfl, rfl, rfl, rfl⟩, validId_iff, ?_, ?_, ?_⟩
  · intro s d hs hi refused
    refine ⟨fun bytes hb => ?_, fun c p hc hp => ?_⟩
    · change (s.outside fun d => d.rawRequest bytes) = _
      rw [State.outside_settled hs, rawRequest, requestTransaction_badFrame hi _ fun e => by rw [goodFrame_none hb]]
      rfl
    · have hlong : ∀ code carry, (s.outside fun d => d.hostRequest code p carry) = .next ⟨refused (3 + p.length), s.pending⟩ :=
        fun code carry => (State.outside_settled hs _).trans (by rw [hostRequest_long hi code hp])
      cases c <;> simp only [reduceCtorEq, Option.some.injEq] at hc <;> subst hc <;> exact hlong _ _
  · intro s d code p hs hcode
    have hexec : exec (.unknownRequest code p) s = s.request code p fun _ d => (d, fails .unknownRequest) :=
      congrArg (fun carry => s.outside fun d => d.hostRequest code p carry) (funext fun e => carryCode_unknown e p hcode)
    exact hexec.trans (State.request_takes hs rfl)
  · intro s d p hs bad noKey
    refine ⟨fun h => ⟨?_, ?_, ?_, ?_⟩, fun h => ⟨?_, ?_, ?_, ?_⟩, fun h => ?_, fun h => ?_, fun h => ?_, fun h => ?_, fun h => ?_,
      fun h => ?_, fun h => ?_, fun k i r es hp hk hr he h => ?_⟩
    · exact State.request_takes hs (bare_params h _)
    · exact State.request_takes hs (bare_params h _)
    · exact State.request_takes hs (bare_params h _)
    · exact State.request_takes hs (bare_params h _)
    · exact State.request_takes hs (withKey_bad h _)
    · exact State.request_takes hs (withKey_bad h _)
    · exact State.request_takes hs (inOutageMode_bad h _)
    · exact State.request_takes hs (inOutageMode_bad h _)
    · exact State.request_takes hs (carryLookup_bad h)
    · exact State.request_takes hs (carryScanNext_bad h)
    · exact State.request_takes hs (carryDiscover_bad h)
    · exact State.request_takes hs (carryAttentionRead_bad h)
    · exact State.request_takes hs (carryAttentionClear_bad h)
    · exact State.request_takes hs (carryEnrol_bad h)
    · exact State.request_takes hs (carryAmend_bad h)
    · exact State.request_takes hs (carryAmend_badValue hk ((working_keyed d 0x11 p k).trans hr) he h)

end Sys2Proof.Machine
end

section
/-! The requests that read, and the bytes of their fields (tables 10-8 to 10-13). -/

namespace Sys2Proof.Machine

open Device

/-! ## Fields that may be absent, and codes (table 10-7) -/

/-- A one-byte field as the bytes of a number, or all ones. -/
theorem optByte_bytes (o : Option Nat) : (match o with
    | some v => bytesBE 1 v
    | none => List.replicate 1 0xFF) = [optByte o] := by
  cases o with
  | none => rfl
  | some v => exact bytesBE_one v

/-- A two-byte field as the bytes of a number, or all ones. -/
theorem optWord_bytes (o : Option Nat) : (match o with
    | some v => bytesBE 2 v
    | none => List.replicate 2 0xFF) = optWord o := by
  cases o <;> rfl

theorem optCode_map {α β : Type} (f : β → Byte) (g : α → β) (o : Option α) :
    optCode f (o.map g) = optCode (fun a => f (g a)) o := by
  cases o <;> rfl

theorem Class.code_spelt (c : Class) : (match c with
    | .lifeline => (1 : Byte) | .standard => 2 | .deferrable => 3) = c.code := by
  cases c <;> rfl

theorem RecState.code_spelt (st : RecState) : (match st with
    | .pending => (1 : Byte) | .dormant => 2 | .waking => 3 | .attached => 4 | .fed => 5 | .testing => 6
    | .quarantined => 7) = st.code := by
  cases st <;> rfl

theorem WakeMethod.code_spelt (m : WakeMethod) : (match m with
    | .auto => (1 : Byte) | .pulse => 2 | .mark => 3) = m.code := by
  cases m <;> rfl

theorem Switch.code_spelt (s : Switch) : (match s with
    | .off => (1 : Byte) | .pulse _ _ => 2 | .softstart _ => 3 | .on => 4 | .tripped => 5) = s.code := by
  cases s <;> rfl

theorem Mode.code_spelt (m : Mode) : (match m with
    | .mains => (1 : Byte) | .outagePending => 2 | .outage => 3 | .returnPending => 4) = m.code := by
  cases m <;> rfl

theorem Level.code_spelt (l : Level) : (match l with
    | .normal => (1 : Byte) | .low => 2 | .critical => 3 | .exhausted => 4) = l.code := by
  cases l <;> rfl

theorem DiscoveryResult.optCode_spelt (o : Option DiscoveryResult) : (match o with
    | none => (0 : Byte) | some .bound => 1 | some .conflict => 2 | some .stranger => 3 | some .empty => 4
    | some .short => 5) = optCode DiscoveryResult.code o := by
  rcases o with _ | v
  · rfl
  · cases v <;> rfl

theorem QReason.optCode_spelt (o : Option QReason) : (match o with
    | some .noWake => (1 : Byte) | some .short => 2 | some .overdraw => 3 | some .unstable => 4 | none => 0)
    = optCode QReason.code o := by
  rcases o with _ | v
  · rfl
  · cases v <;> rfl

theorem Phase.optCode_spelt (o : Option Phase) : (match o with
    | some .live => (1 : Byte) | some .suspended => 2 | none => 0) = optCode Phase.code o := by
  rcases o with _ | v
  · rfl
  · cases v <;> rfl

theorem CallMethod.optCode_spelt (o : Option CallMethod) : (match o with
    | some .pulse => (2 : Byte) | some .mark => 3 | none => 0) = optCode CallMethod.code o := by
  rcases o with _ | v
  · rfl
  · cases v <;> rfl

theorem AgendaKind.optCode_spelt (o : Option AgendaKind) : (match o with
    | some .host => (1 : Byte) | some .timer => 2 | none => 0) = optCode AgendaKind.code o := by
  rcases o with _ | v
  · rfl
  · cases v <;> rfl

theorem TestPhase.optCode_spelt (o : Option TestPhase) : (match o with
    | some .beginning => (1 : Byte) | some .running => 2 | none => 0) = optCode TestPhase.code o := by
  rcases o with _ | v
  · rfl
  · cases v <;> rfl

theorem TestOutcome.optCode_spelt (o : Option TestOutcome) : (match o with
    | some (.verdict .pass) => (1 : Byte) | some (.verdict .weak) => 2 | some (.verdict .fail) => 3
    | some (.aborted .lost) => 4 | some (.aborted .mains) => 5 | some (.aborted .noReport) => 6
    | some (.aborted .lowStart) => 7 | none => 0) = optCode (fun o => BitVec.ofNat 8 o.code) o := by
  rcases o with _ | v | v
  · rfl
  · cases v <;> rfl
  · cases v <;> rfl

theorem ResetKind.optCode_spelt (o : Option ResetKind) : (match o with
    | some .warm => (1 : Byte) | some .cold => 2 | none => 0) = optCode ResetKind.code o := by
  rcases o with _ | v
  · rfl
  · cases v <;> rfl

/-- The charge byte of a report (table 10-9). -/
theorem chargeByte_spelt (o : Option BatteryReport) : (match o.map BatteryReport.charge with
    | some (some v) => BitVec.ofNat 8 v | some none => 0xFE | none => 0xFF) = chargeByte o := by
  rcases o with _ | ⟨_, _ | v, _, _⟩ <;> rfl

theorem RecReasons.any_eq (r : RecReasons) : r.any = (r.quarantined.toNat + 2 * r.verdict.toNat + 4 * r.lost.toNat
    + 8 * r.rationSpent.toNat + 16 * r.bound.toNat + 32 * r.unplaced.toNat != 0) := by
  obtain ⟨q, v, l, s, b, u⟩ := r
  revert q v l s b u
  decide

namespace Device

theorem purposeOf_spelt (d : Device) (i : Nat) : (match (d.wakeEntryOf i).map WakeEntry.target with
    | some (.record _ _ .timer) => (1 : Byte) | some (.record _ _ .host) => 2 | some (.record _ _ .outage) => 3
    | some (.record _ _ .test) => 4 | some (.record _ _ .rewake) => 5 | _ => 0) = d.purposeOf i := by
  unfold purposeOf
  rcases (d.wakeEntryOf i).map WakeEntry.target with _ | ⟨_, _, p⟩ | l
  · rfl
  · cases p <;> rfl
  · rfl

theorem progressByte_spelt (d : Device) : (match d.wake.attempt.map Attempt.target with
    | some (.record _ _ _) => (1 : Byte) | some (.discovery _) => 2 | none => 0) = d.progressByte := by
  unfold progressByte
  rcases d.wake.attempt with _ | a
  · rfl
  · cases h : a.target <;> simp [h]

/-- The attempt in progress where its target is the record at an index. -/
theorem attemptOf_eq (d : Device) (i : Nat) : d.attemptOf i = match d.wake.attempt with
    | some x => match x.target with
      | .record j _ _ => if j = i then some x else none
      | .discovery _ => none
    | none => none := by
  unfold attemptOf attemptFor
  cases h : d.wake.attempt with
  | none => rfl
  | some x => cases hx : x.target <;> simp [hx]

theorem viewPart_none {d : Device} {i : Nat} (h : d.rec? i = none) (k : Nat) : d.viewPart i k = [0xFF] := by
  simp only [viewPart, h]

theorem viewPart_some {d : Device} {i : Nat} {r : Record} (h : d.rec? i = some r) :
    d.viewPart i 1 = r.part1 i (d.reasonsOf i) ∧ d.viewPart i 2 = r.part2 i ∧ d.viewPart i 3 = d.part3 r i := by
  simp [viewPart, h]

/-! ## LOOKUP and SCAN_NEXT -/

variable {d : Device} {p : List Byte}

theorem lookup_layout (h6 : p.length = 6) (h1 : 1 ≤ byteAt p 5) (h3 : byteAt p 5 ≤ 3) :
    ¬(p.length ≠ 6 ∨ byteAt p 5 = 0 ∨ 3 < byteAt p 5) := by
  omega

theorem carryLookup_found {k : Key} {i : Nat} {r : Record} (h6 : p.length = 6) (h1 : 1 ≤ byteAt p 5) (h3 : byteAt p 5 ≤ 3)
    (hk : parseKey (p.take 5) = some k) (hr : d.keyed k = some (i, r)) :
    carryLookup p d = (d, .ok, d.viewPart i (byteAt p 5)) := by
  unfold carryLookup
  simp only [if_neg (lookup_layout h6 h1 h3), hk]
  cases k with
  | line l => cases hr
  | index j => simp only [hr]
  | id t => simp only [hr]

theorem carryLookup_absent {k : Key} (h6 : p.length = 6) (h1 : 1 ≤ byteAt p 5) (h3 : byteAt p 5 ≤ 3)
    (hk : parseKey (p.take 5) = some k) (hl : ∀ l, k ≠ .line l) (hr : d.keyed k = none) :
    carryLookup p d = (d, fails .notFound) := by
  unfold carryLookup
  simp only [if_neg (lookup_layout h6 h1 h3), hk]
  cases k with
  | line l => exact absurd rfl (hl l)
  | index j => simp only [hr]
  | id t => simp only [hr]

theorem carryLookup_line {l : Nat} {x : Line} (h6 : p.length = 6) (h1 : 1 ≤ byteAt p 5) (h3 : byteAt p 5 ≤ 3)
    (hk : parseKey (p.take 5) = some (.line l)) (hx : d.line? l = some x) :
    carryLookup p d = (d, .ok, (match x.binding with
      | some i => d.viewPart i (byteAt p 5)
      | none => [0xFF]) ++ [x.switch.code] ++ bytesBE 2 x.current ++ [optCode DiscoveryResult.code x.discovery]) := by
  unfold carryLookup
  cases hb : x.binding with
  | none => simp only [if_neg (lookup_layout h6 h1 h3), hk, lineBytes, hx, hb, Option.bind_some, List.append_assoc]
  | some i => simp only [if_neg (lookup_layout h6 h1 h3), hk, lineBytes, hx, hb, Option.bind_some, List.append_assoc]

theorem carryScanNext_eq {start filter : Byte} (hs : start.toNat ≤ 79) (h0 : filter ≠ 0) (h7 : filter.toNat < 128) :
    carryScanNext [start, filter] d = match (List.range 80).find? fun i => start.toNat ≤ i && (d.rec? i).any (fun r =>
        filter.getLsbD (r.state.code.toNat - 1)) with
      | some i => (d, .ok, [BitVec.ofNat 8 i])
      | none => (d, .end_, []) := by
  have htop : filter.getLsbD 7 = false := by
    rw [← BitVec.msb_eq_getLsbD_last, BitVec.msb_eq_decide]
    simp only [decide_eq_false_iff_not]
    omega
  have hlayout : ¬([start, filter].length ≠ 2 ∨ 79 < byteAt [start, filter] 0 ∨ filter = 0 ∨ filter.getLsbD 7 = true) := by
    have hb : byteAt [start, filter] 0 = start.toNat := rfl
    simp only [hb, htop, h0, List.length_cons, List.length_nil, Bool.false_eq_true, or_false, not_or]
    omega
  change (if [start, filter].length ≠ 2 ∨ 79 < byteAt [start, filter] 0 ∨ filter = 0 ∨ filter.getLsbD 7 = true then _ else _) = _
  rw [if_neg hlayout]
  simp only [bytesBE_one]
  rfl

/-- The lowest index that passes a test, from a start on. -/
theorem find?_range_some {f : Nat → Bool} {n i : Nat} (hi : i < n) (hf : f i = true) (hlow : ∀ j, j < i → f j = false) :
    (List.range n).find? f = some i := by
  rw [List.find?_range_eq_some]
  exact ⟨hf, List.mem_range.2 hi, fun j hj => by simp [hlow j hj]⟩

end Device

/-- Settles O51: each request answers with its fields, and the fields are the bytes that the model's codes and counts spell. -/
theorem readingRequests : Obligations.ReadingRequests := by
  unfold Obligations.ReadingRequests
  refine ⟨fun s d p hs => ⟨fun h6 h1 h3 => ?_, ?_⟩, fun s d hs => ⟨?_, ?_, ?_, fun b => ?_⟩, ?_, ?_, ?_⟩
  · intro w
    refine ⟨fun k i r hk hr => ?_, fun k hk hl hr => ?_, ?_⟩
    · exact State.request_takes hs (carryLookup_found (d := w) h6 h1 h3 hk ((working_keyed d 0x15 p k).trans hr))
    · exact State.request_takes hs (carryLookup_absent (d := w) h6 h1 h3 hk hl ((working_keyed d 0x15 p k).trans hr))
    · intro l x hk hx switch found
      have hswitch : switch = x.switch.code := Switch.code_spelt _
      have hfound : found = optCode DiscoveryResult.code x.discovery := DiscoveryResult.optCode_spelt _
      rw [hswitch, hfound]
      exact State.request_takes hs (carryLookup_line (d := w) h6 h1 h3 hk hx)
  · rintro start filter rfl hstart h0 h7 hit
    have hcarry := carryScanNext_eq (d := d.working 0x16 [start, filter]) hstart h0 h7
    have hhit : ∀ i, start.toNat ≤ i → ((start.toNat ≤ i && (d.rec? i).any fun r => filter.getLsbD (r.state.code.toNat - 1)) = true
        ↔ hit i) := by
      intro i hi
      simp only [decide_eq_true hi, Bool.true_and, Option.any_eq_true, hit]
      refine exists_congr fun r => and_congr_right fun _ => ?_
      cases r.state <;> rfl
    have hlow : ∀ i, i < start.toNat →
        (decide (start.toNat ≤ i) && (d.rec? i).any fun r => filter.getLsbD (r.state.code.toNat - 1)) = false := by
      intro i hi
      rw [decide_eq_false (by omega), Bool.false_and]
    refine ⟨fun hnone => ?_, fun i hi h80 hyes hleast => ?_⟩
    · have hfind : (List.range 80).find? (fun i => start.toNat ≤ i && (d.rec? i).any fun r =>
          filter.getLsbD (r.state.code.toNat - 1)) = none := by
        rw [List.find?_range_eq_none]
        intro i h80
        rcases Nat.lt_or_ge i start.toNat with hi | hi
        · simp [hlow i hi]
        · rw [Bool.not_eq_true']
          exact Bool.eq_false_iff.2 fun hyes => hnone i hi h80 ((hhit i hi).1 hyes)
      exact State.request_takes hs (hcarry.trans (by simp only [working_rec, hfind]))
    · have hfind : (List.range 80).find? (fun i => start.toNat ≤ i && (d.rec? i).any fun r =>
          filter.getLsbD (r.state.code.toNat - 1)) = some i := by
        refine find?_range_some h80 ((hhit i hi).2 hyes) fun j hj => ?_
        rcases Nat.lt_or_ge j start.toNat with hjs | hjs
        · exact hlow j hjs
        · exact Bool.eq_false_iff.2 fun h => hleast j hjs hj ((hhit j hjs).1 h)
      exact State.request_takes hs (hcarry.trans (by simp only [working_rec, hfind]))
  · exact State.request_takes hs (bare_nil _ _)
  · refine State.request_takes hs ((bare_nil _ _).trans ?_)
    simp only [strangerFields, bytesBE_one]
    rfl
  · exact State.request_takes hs rfl
  · have hb : s.takes [b] d := ⟨hs.1, hs.2.1, by simp⟩
    have hbyte : byteAt [b] 0 = b.toNat := rfl
    by_cases h79 : b.toNat ≤ 79
    · rw [if_pos h79]
      refine State.request_takes hb (if_neg ?_)
      rw [hbyte, List.length_singleton]
      omega
    · rw [if_neg h79]
      exact State.request_takes hb (if_pos (.inr (by rw [hbyte]; omega)))
  · intro d i num yes outcome
    refine ⟨fun hr k => viewPart_none hr k, ?_⟩
    intro r hr own cls state reason method a attention charge hold phase purpose attempt called kind test testPhase
    obtain ⟨h1, h2, h3⟩ := viewPart_some hr
    have hnum1 : ∀ o, num 1 o = [optByte o] := optByte_bytes
    have hnum2 : ∀ o, num 2 o = optWord o := optWord_bytes
    have houtcome : ∀ o, outcome o = optCode (fun o => BitVec.ofNat 8 o.code) o := TestOutcome.optCode_spelt
    have hcls : cls = r.cls.code := Class.code_spelt _
    have hstate : state = r.state.code := RecState.code_spelt _
    have hreason : reason = optCode QReason.code r.reason := QReason.optCode_spelt _
    have hmethod : method = r.method.code := WakeMethod.code_spelt _
    have hcharge : charge = chargeByte r.report := chargeByte_spelt _
    have hphase : phase = optCode Phase.code ((d.leaseOf i).map Lease.phase) := Phase.optCode_spelt _
    have hpurpose : purpose = d.purposeOf i := purposeOf_spelt d i
    have hattempt : attempt = d.attemptOf i := (attemptOf_eq d i).symm
    have hcalled : called = optCode CallMethod.code (attempt.map Attempt.method) := CallMethod.optCode_spelt _
    have hkind : kind = optCode AgendaKind.code ((d.test.agenda.find? fun x => x.index == i).map AgendaEntry.kind) :=
      AgendaKind.optCode_spelt _
    have htestPhase : testPhase = optCode TestPhase.code ((d.testOf i).map Test.phase) := TestPhase.optCode_spelt _
    have hown : ∀ bs, own ++ bs = bytesBE 1 i ++ (bytesBE 4 r.id.toNat ++ bs) := by
      intro bs
      rw [bytesBE_one]
      rfl
    simp only [h1, h2, h3, hnum1, hnum2, houtcome, hcls, hstate, hreason, hmethod, hcharge, hphase, hpurpose, hcalled, hattempt,
      hkind, htestPhase, List.append_assoc, hown]
    refine ⟨?_, ?_, ?_⟩
    · rw [Record.part1]
      simp only [List.append_assoc, List.cons_append, List.nil_append]
      rfl
    · rw [Record.part2, optCode_map]
      simp only [List.append_assoc, List.cons_append, List.nil_append]
      rfl
    · rw [Device.part3]
      simp only [List.append_assoc, List.cons_append, List.nil_append]
      rfl
  · intro d mode level permit has discoveries inProgress
    have hmode : mode = d.mode.mode.code := Mode.code_spelt _
    have hlevel : level = d.mode.level.code := Level.code_spelt _
    have hprogress : inProgress = d.progressByte := progressByte_spelt d
    rw [hmode, hlevel, hprogress]
    rfl
  · intro d start sum all v device kind
    have hall : d.attentionFrom start = all :=
      List.filter_congr fun i _ => congrArg (decide (start ≤ i) && ·) (d.reasonsOf i).any_eq
    have hkind : kind = optCode ResetKind.code v.restarted := ResetKind.optCode_spelt _
    unfold attentionFields
    simp only [hall, hkind, bytesBE_one, boolByte, decide_eq_true_eq, List.length_take, List.cons_append,
      List.nil_append]
    rfl

end Sys2Proof.Machine
end

section
/-! Words taken from the uplink FIFO: REPORT (R71, R116, R161, R162) and CLAIM (R108 to R113, R117). -/

namespace Sys2Proof.Machine

open Device

/-! ## A new word of a record -/

theorem FifoEntry.row_terminal {w : List Byte} {k : UpKind} (n : Nat) (h : upKind w = k) (hk : k ≠ .announce) :
    (FifoEntry.mk (.terminal n 0) w).row = k := by
  subst h
  unfold FifoEntry.row
  split
  · rename_i ha
    exact absurd ha hk
  · rfl

/-- The record of a new word is the one its slot's holder names. -/
theorem State.newWord_rec {s : State} {n : Nat} {h : Holder} {r : Record} {w : List Byte} {d : Device}
    (hw : s.newWord n h r w d) : d.rec? h.index = some r ∧ r.id = h.id := by
  obtain ⟨d0, hold, rest, -, -, ⟨-, hr, hid⟩, -, -, rfl⟩ := hw
  exact ⟨(rec?_congr (d := d0) (by simp) h.index).trans hr, hid⟩

namespace Device

variable {d : Device} {i : Nat} {t : TermId} {r : Record}

theorem dispatch_report {w : List Byte} (h : upKind w = .report) : d.dispatch i t w = d.takeReport i t (reportOf w) := by
  simp only [dispatch, h]

theorem dispatch_claim {w : List Byte} (h : upKind w = .claim) :
    d.dispatch i t w = (d.modRec i fun r => { r with idle := 0 }).takeClaim i t (byteAt w 2 % 64) := by
  simp only [dispatch, h]
  rfl

/-! ## REPORT -/

theorem leaseReport_eq (h : d.rec? i = some r) (near : Bool) : d.leaseReport i t near =
    if near = true ∧ d.mode.mode.inOutage = true ∧ r.state = .attached ∧ d.claimOf i = none then
      d.takeClaim i t (autoSteps r) else d := by
  unfold leaseReport autoClaim
  simp only [h, inState_eq h, hasClaim]
  refine if_congr ?_ rfl rfl
  simp [and_assoc]

/-- A report that does not show cutoff-near is nothing to the Lease Manager (R116). -/
theorem leaseReport_ite (near : Bool) (d e : Device) (i : Nat) (t : TermId) :
    (if near then d else e).leaseReport i t near = if near then d.leaseReport i t true else e := by
  cases near <;> rfl

theorem testReport_none {b : BatteryReport} (h : d.channelOf i = none) : d.testReport i b = d := by
  simp only [testReport, h]

theorem testReport_beginning {b : BatteryReport} {c : Nat} {x : Test} (h : d.channelOf i = some c) (hx : d.test? c = some x)
    (hp : x.phase = .beginning) :
    d.testReport i b = if b.cutoffNear then d.endTest c x (.aborted .lowStart) 0 true else d := by
  simp only [testReport, h, hx, hp]

theorem testReport_running {b : BatteryReport} {c : Nat} {x : Test} (h : d.channelOf i = some c) (hx : d.test? c = some x)
    (hp : x.phase = .running) : d.testReport i b = d.runningReport c x b := by
  simp only [testReport, h, hx, hp]

/-- The first report of a RUNNING test (R162). -/
theorem runningReport_first {b : BatteryReport} {c : Nat} {x : Test} (h : x.startV = none) :
    let y : Test := { x with startV := some b.voltage, lastV := some b.voltage }
    let e := d.putChannel c (some y)
    d.runningReport c x b =
      if b.voltage < d.settings.testFloor then e.endTest c y (.aborted .lowStart) 0 b.cutoffNear
      else if b.cutoffNear then e.endTest c y (.verdict .fail) 0 true else e := by
  intro y e
  unfold runningReport
  rw [h]
  rfl

/-- A later report of a RUNNING test (R162). -/
theorem runningReport_later {b : BatteryReport} {c v : Nat} {x : Test} (h : x.startV = some v) :
    let y : Test := { x with lastV := some b.voltage }
    let e := d.putChannel c (some y)
    d.runningReport c x b = if b.cutoffNear then e.endTest c y (.verdict .fail) (v - b.voltage) true else e := by
  intro y e
  unfold runningReport
  split
  · rename_i hnone
    cases hnone.symm.trans h
  · rename_i v' hv
    cases hv.symm.trans h
    rfl

end Device

/-- Settles O26: a REPORT goes to the Roster, the Test Engine and the Lease Manager in this order. -/
theorem takeReport : Obligations.TakeReport := by
  unfold Obligations.TakeReport
  refine ⟨fun d i t near r hr => leaseReport_eq hr near, ?_⟩
  intro s n h r w d hw hk cutoff volts b e
  obtain ⟨hr, hid⟩ := State.newWord_rec hw
  have hb : reportOf w = b := by
    unfold reportOf b volts byteAt
    simp only [natBE_two]
    rfl
  have hexec : exec .report s = .next ⟨(e.testReport h.index b).leaseReport h.index h.id cutoff, s.pending⟩ := by
    refine (State.takeRow_new .report hw (FifoEntry.row_terminal n hk nofun)).trans ?_
    rw [dispatch_report hk, hb]
    rfl
  have her : e.rec? h.index = some { r with report := some b } := by simp [e, hr]
  rw [hexec]
  refine ⟨fun hc hno => ?_, fun hc hnear hout hatt hclaim => ?_, fun c x hc hx _ => ⟨fun hp => ?_, fun hp hv => ?_, fun hp v hv => ?_⟩⟩
  · have htest : e.testReport h.index b = e := testReport_none (d := e) hc
    rw [htest, leaseReport_eq her, if_neg]
    rintro ⟨hnear, hout, hatt, hclaim⟩
    rcases hno with h | h | h | h
    · exact absurd (h.symm.trans hnear) (by decide)
    · exact absurd (h.symm.trans hout) (by decide)
    · exact h hatt
    · rw [show d.claimOf _ = none from hclaim] at h
      cases h
  · have htest : e.testReport h.index b = e := testReport_none (d := e) hc
    rw [htest, leaseReport_eq her, if_pos ⟨hnear, hout, hatt, hclaim⟩]
    rfl
  · have htest : e.testReport h.index b = if cutoff then e.endTest c x (.aborted .lowStart) 0 true else e :=
      testReport_beginning (d := e) hc hx hp
    rw [htest, leaseReport_ite]
  · intro y e'
    have htest : e.testReport h.index b = if volts < d.settings.testFloor then e'.endTest c y (.aborted .lowStart) 0 cutoff
        else if cutoff then e'.endTest c y (.verdict .fail) 0 true else e' :=
      (testReport_running (d := e) hc hx hp).trans (runningReport_first hv)
    rw [htest]
    by_cases hfloor : volts < d.settings.testFloor
    · rw [if_pos hfloor, if_pos hfloor]
    · rw [if_neg hfloor, if_neg hfloor, leaseReport_ite]
  · intro y e'
    have htest : e.testReport h.index b = if cutoff then e'.endTest c y (.verdict .fail) (v - volts) true else e' :=
      (testReport_running (d := e) hc hx hp).trans (runningReport_later hv)
    rw [htest, leaseReport_ite]

end Sys2Proof.Machine
end

section
/-! CLAIM and the claim queue: the intake (R108 to R113) and the place of an entry (R117). -/

namespace Sys2Proof.Machine

open Device

/-! ## Ranks, bars and places -/

theorem Class.rank_spelt (c : Class) : (match c with
    | .lifeline => 0 | .standard => 1 | .deferrable => 2) = c.rank := by
  cases c <;> rfl

theorem Level.bars_spelt (l : Level) (c : Class) : (match l, c with
    | .normal, _ => false
    | .low, c => c == .deferrable
    | .critical, c => c == .standard || c == .deferrable
    | .exhausted, _ => true) = l.bars c := by
  cases l <;> cases c <;> rfl

theorem ClaimEntry.before_iff (a b : ClaimEntry) : a.before b = true ↔ a.cls.rank < b.cls.rank
    ∨ (a.cls.rank = b.cls.rank ∧ ((a.suspect = true ∧ b.suspect = false)
      ∨ (a.suspect = b.suspect ∧ (a.arrival < b.arrival ∨ (a.arrival = b.arrival ∧ a.index < b.index))))) := by
  unfold ClaimEntry.before
  split
  · simp
    omega
  · rename_i hrank
    split
    · rename_i hsus
      cases ha : a.suspect <;> cases hb : b.suspect <;> simp_all
    · split <;> simp_all

theorem ClaimEntry.ahead_iff (e : ClaimEntry) (cls : Class) (suspect : Bool) : e.ahead cls suspect = true ↔
    e.cls.rank < cls.rank ∨ (e.cls.rank = cls.rank ∧ (e.suspect = true ∨ suspect = false)) := by
  simp [ClaimEntry.ahead]

/-- An entry stands behind all that it is not before, and ahead of the rest (R117). -/
theorem insertClaim_place {c : ClaimEntry} {xs ys : List ClaimEntry} (hx : ∀ x ∈ xs, c.before x = false)
    (hy : ∀ y, ys.head? = some y → c.before y = true) : insertClaim c (xs ++ ys) = xs ++ c :: ys := by
  induction xs with
  | nil =>
    cases ys with
    | nil => rfl
    | cons y ys =>
      have hb : c.before y = true := hy y rfl
      simp [insertClaim, hb]
  | cons x xs ih =>
    have hb : c.before x = false := hx x List.mem_cons_self
    have ih' := ih fun z hz => hx z (List.mem_cons_of_mem _ hz)
    simp [insertClaim, hb, ih']

namespace Device

variable {d : Device} {i k : Nat} {t : TermId} {r : Record}

/-! ## What a grant leaves -/

@[simp] theorem tripIfAsserted_test (d : Device) (l : Nat) : (d.tripIfAsserted l).test = d.test := by
  unfold tripIfAsserted
  split
  · split <;> rfl
  · rfl

@[simp] theorem orderSoftstart_test (d : Device) (l : Nat) : (d.orderSoftstart l).test = d.test := by
  unfold orderSoftstart
  split
  · split
    · exact tripIfAsserted_test _ _
    · rfl
  · rfl

theorem transition_test {d' : Device} {c : Cause} (h : d.transition i t c = some d') : d'.test = d.test := by
  obtain ⟨r, st, -, -, -, rfl, -⟩ := Sound.transition_rec h
  rfl

/-- A grant leaves the Test Engine as it is. -/
theorem grant_test (d : Device) (i : Nat) (t : TermId) (k : Nat) : (d.grant i t k).test = d.test := by
  unfold grant
  split
  · rfl
  · rename_i d' h
    rw [post_test]
    unfold onLineOf
    split
    · rw [orderSoftstart_test]
      change d'.test = d.test
      exact transition_test h
    · change d'.test = d.test
      exact transition_test h

/-! ## The intake -/

theorem takeClaim_discarded
    (h : ∀ r, d.rec? i = some r → r.id = t → r.state ≠ .attached ∧ r.state ≠ .fed ∧ r.state ≠ .testing) :
    d.takeClaim i t k = d := by
  unfold takeClaim
  split
  · rename_i r hr
    split
    · rename_i hid
      obtain ⟨ha, hf, ht⟩ := h r hr hid
      split
      · exact absurd ‹_› ha
      · exact absurd ‹_› hf
      · exact absurd ‹_› ht
      all_goals rfl
    · rfl
  · rfl

theorem takeClaim_attached (h : d.rec? i = some r) (hid : r.id = t) (hs : r.state = .attached) :
    d.takeClaim i t k = d.attachedClaim i r k := by
  simp only [takeClaim, h, hid, hs, if_true]

theorem attachedClaim_refused {why : DeferReason} (hq : d.claimOf i = none) (hc : d.claimCheck r k = some why) :
    d.attachedClaim i r k = d.post i r.id (.defer why) := by
  simp only [attachedClaim, hq, hc]

theorem attachedClaim_new (hq : d.claimOf i = none) (hc : d.claimCheck r k = none) :
    d.attachedClaim i r k = d.judgeClaim i r k := by
  simp only [attachedClaim, hq, hc]

theorem attachedClaim_dropped {c : ClaimEntry} {why : DeferReason} (hq : d.claimOf i = some c)
    (hc : d.claimCheck r k = some why) : d.attachedClaim i r k = (d.deferClaim c why).serve := by
  simp only [attachedClaim, hq, hc]

theorem attachedClaim_updated {c : ClaimEntry} (hq : d.claimOf i = some c) (hc : d.claimCheck r k = none) :
    d.attachedClaim i r k = ((d.setClaimSteps i k).post i r.id .queued).serve := by
  simp only [attachedClaim, hq, hc]

/-- A new claim that no entry ranks ahead of and that fits is granted (R110). -/
theorem judgeClaim_granted (ha : d.inAgenda i = false) (hq : ∀ c ∈ d.lease.claims, c.ahead r.cls r.suspect = false)
    (hk : k ≤ d.headroom) : d.judgeClaim i r k = d.grant i r.id k := by
  have hany : (d.lease.claims.any fun e => e.ahead r.cls r.suspect) = false := by
    rw [List.any_eq_false]
    exact fun c hc => by simp [hq c hc]
  have hagenda : (d.grant i r.id k).inAgenda i = false := by
    unfold inAgenda at ha ⊢
    rw [grant_test, ha]
  unfold judgeClaim
  simp [hany, hk, hagenda]

/-- Any other joins the claim queue (R111). -/
theorem judgeClaim_joined (h : (∃ c ∈ d.lease.claims, c.ahead r.cls r.suspect = true) ∨ d.headroom < k) :
    d.judgeClaim i r k = d.joinClaim i r k := by
  unfold judgeClaim
  rw [if_neg]
  rw [Bool.and_eq_true, Bool.not_eq_true', List.any_eq_false, decide_eq_true_eq]
  rintro ⟨hnone, hk⟩
  rcases h with ⟨c, hc, ha⟩ | h
  · exact hnone c hc ha
  · omega

/-- A service that finds a head which does not fit, no wake queue entry and no agenda entry of a claim does nothing. -/
theorem serve_unfit {c : ClaimEntry} (hc : d.lease.claims = [c]) (hk : d.headroom < c.steps) (hw : d.wake.queue = [])
    (ha : d.inAgenda c.index = false) : d.serve = d := by
  have hloop : d.serveLoop 1 = d := by
    unfold serveLoop
    rw [hc]
    exact if_neg (by omega)
  unfold serve
  rw [hc, List.length_singleton, hloop, examineWake_none hw]
  unfold examineIfGranted
  simp [ha]

theorem post_inAgenda (d : Device) (i j : Nat) (t : TermId) (c : Cmd) : (d.post i t c).inAgenda j = d.inAgenda j := by
  unfold inAgenda
  rw [post_test]

theorem post_headroom (d : Device) (i : Nat) (t : TermId) (c : Cmd) : (d.post i t c).headroom = d.headroom := by
  unfold headroom
  rw [post_mode, post_lease]

end Device

/-- Settles O40: the intake goes by the record's state, the check of R109 and the queue. -/
theorem claimDecided : Obligations.ClaimDecided := by
  unfold Obligations.ClaimDecided
  have hexec : ∀ (s : State) (n : Nat) (h : Holder) (r : Record) (w : List Byte) (d : Device), s.newWord n h r w d →
      upKind w = .claim → exec .claim s =
        .next ⟨(d.modRec h.index fun r => { r with idle := 0 }).takeClaim h.index h.id (byteAt w 2 % 64), s.pending⟩ := by
    intro s n h r w d hw hk
    exact (State.takeRow_new .claim hw (FifoEntry.row_terminal n hk nofun)).trans (by rw [dispatch_claim hk])
  refine ⟨fun d i t k h => takeClaim_discarded h, hexec, ?_⟩
  intro s n h r w d hw hk hs steps rank barred answer e
  obtain ⟨hr, hid⟩ := State.newWord_rec hw
  have her : e.rec? h.index = some { r with idle := 0 } := by simp [e, hr]
  rw [hexec s n h r w d hw hk, takeClaim_attached her hid hs]
  have hrank : ∀ c, rank c = c.rank := Class.rank_spelt
  have hanswer : e.claimCheck { r with idle := 0 } steps = answer := by
    have hbarred : barred = d.mode.level.bars r.cls := Level.bars_spelt _ _
    have hmode : (!d.mode.mode.inOutage) = true ↔ d.mode.mode = .mains ∨ d.mode.mode = .outagePending := by
      cases d.mode.mode <;> simp [Mode.inOutage]
    unfold answer
    rw [hbarred]
    exact if_congr hmode rfl rfl
  refine ⟨fun why hq ha => ?_, fun hq ha hagenda => ?_, fun c hq => ⟨fun why ha => ?_, fun ha => ?_⟩⟩
  · rw [attachedClaim_refused (d := e) hq (hanswer.trans ha), ← hid]
  · intro ahead behind entry joined
    have hahead : ∀ c : ClaimEntry, c.ahead r.cls r.suspect = true ↔ ahead c := by
      intro c
      simp only [ClaimEntry.ahead_iff, ahead, hrank]
    have hbehind : ∀ x : ClaimEntry, entry.before x = true ↔ behind x := by
      intro x
      simp only [ClaimEntry.before_iff, entry, behind, hrank]
    have hjoin : ∀ claims, insertClaim entry d.lease.claims = claims →
        e.joinClaim h.index { r with idle := 0 } steps = (joined claims).serve := by
      rintro _ rfl
      unfold joinClaim addClaim joined entry
      rw [← hid]
      rfl
    rw [attachedClaim_new (d := e) hq (hanswer.trans ha)]
    refine ⟨fun hnone hfit => ?_, fun hwait xs ys hsplit hx hy => ?_, fun hempty hwake hbig => ?_⟩
    · rw [judgeClaim_granted (d := e) (r := { r with idle := 0 }) hagenda
        (fun c hc => Bool.eq_false_iff.2 fun hc' => hnone c hc ((hahead c).1 hc')) hfit, ← hid]
    · rw [judgeClaim_joined (d := e) (r := { r with idle := 0 })
        (hwait.imp_left fun ⟨c, hc, hc'⟩ => ⟨c, hc, (hahead c).2 hc'⟩), hjoin (xs ++ entry :: ys)]
      rw [hsplit]
      exact insertClaim_place (fun x hxs => Bool.eq_false_iff.2 fun hb => hx x hxs ((hbehind x).1 hb))
        fun y hys => (hbehind y).2 (hy y hys)
    · rw [judgeClaim_joined (d := e) (r := { r with idle := 0 }) (.inr hbig), hjoin [entry] (by rw [hempty]; rfl)]
      have hserve : (joined [entry]).serve = joined [entry] := by
        refine serve_unfit (c := entry) (by simp [joined]) ?_ (by simpa [joined, e] using hwake) ?_
        · exact lt_of_eq_of_lt (post_headroom _ _ _ _) hbig
        · exact (post_inAgenda _ _ _ _ _).trans hagenda
      rw [hserve]
  · obtain ⟨_, hi⟩ := claimOf_some hq
    rw [attachedClaim_dropped (d := e) hq (hanswer.trans ha), deferClaim, hi]
    rfl
  · rw [attachedClaim_updated (d := e) hq (hanswer.trans ha), ← hid]
    rfl

end Sys2Proof.Machine
end

section
/-! OUTAGE_START, OUTAGE_MINUTE and the timers (R28, R39 to R43, R81, R103, R152 to R154). -/

namespace Sys2Proof.Machine

open Device

/-! ## Requests for a record entry -/

namespace Device

variable {d : Device} {i : Nat} {r : Record}

theorem wakeEntryOf_none_iff_all : d.wakeEntryOf i = none ↔ (d.wake.queue.all fun x => match x.target with
    | .record j _ _ => j != i
    | .discovery _ => true) = true := by
  rw [wakeEntryOf_none_iff, List.all_eq_true]
  refine forall₂_congr fun e _ => ?_
  cases e.target <;> simp

/-- A request for a record entry is taken for a DORMANT record with none, in an outage (R82). -/
theorem joinEntry_eq (h : d.rec? i = some r) (p : Purpose) : d.joinEntry i r.id p =
    if r.state = .dormant ∧ d.mode.mode.inOutage = true ∧ d.wakeEntryOf i = none then
      d.joinWake (.record i r.id p) false else d := by
  unfold joinEntry judgeEntry
  simp only [names_eq h, inState_eq h]
  refine if_congr ?_ rfl rfl
  cases hq : d.wakeEntryOf i <;> cases hm : d.mode.mode.inOutage <;> by_cases hs : r.state = .dormant <;> simp [hs]

/-- The agenda examination that a handling ends with stays within the service of records. -/
theorem finish_still (d : Device) : d.finish.still Record.standing = d.still Record.standing := by
  unfold finish
  split
  · exact (Served.examineAgenda _).1
  · rfl

end Device

/-! ## OUTAGE_START -/

theorem Record.outageStart_eq (r : Record) : r.outageStart = { r with
    charge := 0, rationSpent := false, lost := 0, tests := 0
    wakeTimer := if r.state = .dormant then (if r.wakeInterval = 0 then none else some r.wakeInterval) else r.wakeTimer
    testTimer := if r.testInterval = 0 then none else some r.testInterval } := by
  unfold Record.outageStart
  by_cases h : r.state = .dormant <;> simp [h, Record.loadWake, Record.loadTest]

/-- The device with another wake queue and arrival order. -/
def Device.withQueue (d : Device) (q : List WakeEntry × Nat) : Device :=
  { d with wake := { d.wake with queue := q.1, arrival := q.2 } }

/-- The OUTAGE entries that the records of a device just before its outage start call for (R103). -/
theorem outageEntries_eq {d e : Device} (hm : e.mode.mode.inOutage = true)
    (her : ∀ i, e.rec? i = (d.rec? i).map Record.outageStart) :
    e.outageEntries = e.withQueue ((List.range 80).foldl (fun (q : List WakeEntry × Nat) i => match d.rec? i with
      | some r =>
        if r.state = .dormant ∧ r.wakeOnOutage = true ∧ q.1.all (fun x => match x.target with
            | .record j _ _ => j != i
            | .discovery _ => true) = true then
          (q.1 ++ [⟨.record i r.id .outage, q.2, false⟩], min (q.2 + 1) 0xFFFFFFFF)
        else q
      | none => q) (e.wake.queue, e.wake.arrival)) := by
  unfold outageEntries
  refine List.foldl_hom (f := e.withQueue) (init := (e.wake.queue, e.wake.arrival)) fun q i => ?_
  have hrec : (e.withQueue q).rec? i = (d.rec? i).map Record.outageStart := her i
  rcases hr : d.rec? i with _ | r
  · simp only [hrec, hr, Option.map_none]
  · have hri : (e.withQueue q).rec? i = some r.outageStart := by rw [hrec, hr]; rfl
    have hj : (e.withQueue q).joinEntry i r.id .outage = if r.state = .dormant ∧ (e.withQueue q).mode.mode.inOutage = true
        ∧ (e.withQueue q).wakeEntryOf i = none then (e.withQueue q).joinWake (.record i r.id .outage) false
        else e.withQueue q := by
      have hj := joinEntry_eq hri .outage
      rw [Record.outageStart_eq] at hj
      exact hj
    rw [Record.outageStart_eq] at hri
    simp only [hri]
    by_cases hw : r.wakeOnOutage = true
    · have hiff : (r.state = .dormant ∧ (e.withQueue q).mode.mode.inOutage = true ∧ (e.withQueue q).wakeEntryOf i = none)
          ↔ (r.state = .dormant ∧ r.wakeOnOutage = true ∧ q.1.all (fun x => match x.target with
            | .record j _ _ => j != i
            | .discovery _ => true) = true) := by
        rw [wakeEntryOf_none_iff_all]
        exact and_congr_right fun _ => and_congr_left fun _ => iff_of_true hm hw
      rw [if_pos hw, hj]
      by_cases hc : r.state = .dormant ∧ r.wakeOnOutage = true ∧ q.1.all (fun x => match x.target with
            | .record j _ _ => j != i
            | .discovery _ => true) = true
      · rw [if_pos (hiff.mpr hc), if_pos hc]
        rfl
      · rw [if_neg (mt hiff.mp hc), if_neg hc]
    · rw [if_neg hw, if_neg (fun h => hw h.2.1)]

/-- Settles O14: the entries join one by one as `joinEntry` has it, and nothing else changes before the one examination. -/
theorem outageStartEffect : Obligations.OutageStartEffect := by
  unfold Obligations.OutageStartEffect
  intro s d hd e
  have hfirst : d.outageMode.outageRecords = e := by
    have hrec : Record.outageStart = fun r => { r with
        charge := 0, rationSpent := false, lost := 0, tests := 0
        wakeTimer := if r.state = .dormant then (if r.wakeInterval = 0 then none else some r.wakeInterval) else r.wakeTimer
        testTimer := if r.testInterval = 0 then none else some r.testInterval } := funext Record.outageStart_eq
    unfold outageMode outageRecords
    rw [hrec]
    rfl
  have her : ∀ i, e.rec? i = (d.rec? i).map Record.outageStart := by
    intro i
    rw [← hfirst]
    simp only [rec?, outageMode, outageRecords, raiseDev_roster, List.getElem?_map]
    rcases d.roster.records[i]? with _ | _ | r <;> rfl
  have hexec : exec .outageStart s = .next ⟨e.outageEntries.examineWake.finish, s.pending⟩ := by
    rw [← hfirst]
    exact (State.named_due hd :)
  have hjoin := outageEntries_eq (d := d) (e := e) rfl her
  refine ⟨⟨_, hexec, ?_⟩, fun hq hw => ?_, ?_⟩
  · rw [finish_still, (Served.examineWake _).1, hjoin]
    rfl
  · have hsame : e.outageEntries = e := by
      rw [hjoin, List.foldl_fixed']
      · rfl
      · intro i
        rcases hr : d.rec? i with _ | r
        · rfl
        · simp [hw i r hr]
    rw [hexec, hsame, examineWake_none (show e.wake.queue = [] from hq)]
  · intro joined
    rw [hexec, hjoin]
    rfl

/-! ## OUTAGE_MINUTE and the timers -/

theorem Record.minute_eq (r : Record) : r.minute = { r with
    wakeTimer := if r.state = .dormant then r.wakeTimer.map (· - 1) else r.wakeTimer
    testTimer := if r.state = .pending ∨ r.state = .quarantined then r.testTimer else r.testTimer.map (· - 1) } := by
  unfold Record.minute
  by_cases hd : r.state = .dormant <;> by_cases hp : r.state = .pending ∨ r.state = .quarantined <;> simp [hd, hp]

/-- A timer lowered by 1 comes to 0 from 1 only. -/
theorem lowered_to_zero (o : Option Nat) : (o.map (· - 1) == some 0 && !(o == some 0)) = (o == some 1) := by
  rcases o with _ | _ | _ | n <;> simp

theorem Record.minute_wakeTimer (r : Record) : (r.minute.wakeTimer == some 0 && !(r.wakeTimer == some 0))
    = (r.state == .dormant && r.wakeTimer == some 1) := by
  rw [Record.minute_eq]
  by_cases hd : r.state = .dormant
  · simp only [hd, if_true, lowered_to_zero, beq_self_eq_true, Bool.true_and]
  · simp [hd]

theorem Record.minute_testTimer (r : Record) : (r.minute.testTimer == some 0 && !(r.testTimer == some 0))
    = (r.state != .pending && r.state != .quarantined && r.testTimer == some 1) := by
  rw [Record.minute_eq]
  by_cases hp : r.state = .pending ∨ r.state = .quarantined
  · rcases hp with hp | hp <;> simp [hp]
  · obtain ⟨h1, h2⟩ := not_or.mp hp
    simp [h1, h2, lowered_to_zero]

theorem timersDue_minute {d e : Device} (he : ∀ i, e.rec? i = (d.rec? i).map Record.minute) : e.timersDue d =
    ((List.range 80).filter fun i => (d.rec? i).any fun r => r.state == .dormant && r.wakeTimer == some 1).map .wakeTimer
    ++ ((List.range 80).filter fun i => (d.rec? i).any fun r =>
      r.state != .pending && r.state != .quarantined && r.testTimer == some 1).map .testTimer := by
  unfold timersDue
  refine congrArg₂ (fun a b => List.map Due.wakeTimer a ++ List.map Due.testTimer b) ?_ ?_
  · refine List.filter_congr fun i _ => ?_
    rw [he]
    rcases d.rec? i with _ | r
    · rfl
    · exact r.minute_wakeTimer
  · refine List.filter_congr fun i _ => ?_
    rw [he]
    rcases d.rec? i with _ | r
    · rfl
    · exact r.minute_testTimer

def Due.isTestTimer : Due → Bool
  | .testTimer _ => true
  | _ => false

theorem Due.thenExam_eq : ∀ es : List Due, Due.thenExam es = es.takeWhile Due.isTestTimer
    ++ (if (es.dropWhile Due.isTestTimer).head? = some .agendaExam then es.dropWhile Due.isTestTimer
        else .agendaExam :: es.dropWhile Due.isTestTimer)
  | [] => rfl
  | e :: es => by
    by_cases ht : e.isTestTimer = true
    · obtain ⟨i, rfl⟩ : ∃ i, e = .testTimer i := by
        cases e <;> simp_all [Due.isTestTimer]
      simp only [Due.thenExam, List.takeWhile_cons, List.dropWhile_cons, ht, if_true, Due.thenExam_eq es, List.cons_append]
    · rw [List.takeWhile_cons_of_neg ht, List.dropWhile_cons_of_neg ht, List.nil_append, List.head?_cons]
      by_cases he : e = .agendaExam
      · subst he; rfl
      · rw [if_neg (mt Option.some_inj.mp he)]
        cases e <;> simp_all [Due.thenExam, Due.isTestTimer]

theorem AgendaEntry.before_iff (a b : AgendaEntry) : a.before b = true ↔ (a.kind = .host ∧ b.kind = .timer)
    ∨ (a.kind = b.kind ∧ (a.arrival < b.arrival ∨ (a.arrival = b.arrival ∧ a.index < b.index))) := by
  unfold AgendaEntry.before
  by_cases hk : a.kind = b.kind
  · by_cases ha : a.arrival = b.arrival
    · cases hb : b.kind <;> simp [hk, ha, hb]
    · cases hb : b.kind <;> simp [hk, ha, hb]
  · cases ha : a.kind <;> cases hb : b.kind <;> simp_all

theorem insertAgenda_place {x : AgendaEntry} {xs ys : List AgendaEntry} (hx : ∀ y ∈ xs, x.before y = false)
    (hy : ∀ y, ys.head? = some y → x.before y = true) : insertAgenda x (xs ++ ys) = xs ++ x :: ys := by
  induction xs with
  | nil =>
    cases ys with
    | nil => rfl
    | cons y ys => exact if_pos (hy y rfl)
  | cons z xs ih =>
    rw [List.cons_append, insertAgenda, hx z (by simp), if_neg Bool.false_ne_true,
      ih fun y hy => hx y (List.mem_cons_of_mem _ hy)]
    rfl

namespace Device

theorem wakeTimerExpired_zero {d : Device} {i : Nat} {r : Record} (h : d.rec? i = some r) (hz : r.wakeTimer = some 0) :
    d.wakeTimerExpired i = (d.modRec i Record.loadWake).requestEntry i r.id .timer := by
  unfold wakeTimerExpired
  simp only [h, if_pos hz]

/-- A request for a record entry that is not taken leaves the head, and so calls for no examination. -/
theorem requestEntry_eq {d : Device} {i : Nat} {r : Record} (h : d.rec? i = some r) (p : Purpose) :
    d.requestEntry i r.id p =
      if r.state = .dormant ∧ d.mode.mode.inOutage = true ∧ d.wakeEntryOf i = none then
        headCheck d (d.joinWake (.record i r.id p) false)
      else d := by
  unfold requestEntry
  rw [joinEntry_eq h]
  split
  · rfl
  · exact if_pos rfl

theorem testTimerExpired_zero {d : Device} {i : Nat} {r : Record} (h : d.rec? i = some r) (hz : r.testTimer = some 0) :
    d.testTimerExpired i = if r.state = .pending ∨ r.state = .quarantined then d
      else if r.state = .testing ∨ d.inAgenda i = true then d.modRec i Record.loadTest
      else ((d.modRec i Record.loadTest).joinAgenda i r.id .timer).addExam := by
  unfold testTimerExpired
  simp only [h, hz, true_and]
  by_cases hp : r.state = .pending ∨ r.state = .quarantined
  · rw [if_pos hp, if_neg (by tauto)]
  · rw [if_neg hp, if_pos (not_or.mp hp)]
    rfl

end Device

/-- Settles O16: what an expiry does is what its request for an entry does, the examination aside. -/
theorem outageMinuteAndTimers : Obligations.OutageMinuteAndTimers := by
  unfold Obligations.OutageMinuteAndTimers
  refine ⟨fun s d hd => ?_, fun s d i r hd hr hz => ?_, fun s d i r hd hr hz => ?_, ?_⟩
  · intro wakes tests
    have hexec : exec .outageMinute s = .next ⟨d.outageMinute.finish, s.pending⟩ := (State.named_due hd :)
    rw [hexec]
    unfold outageMinute
    simp only
    rw [timersDue_minute (d := d) fun i => ?hrec, funext Record.minute_eq]
    case hrec =>
      simp only [rec?, List.getElem?_map]
      rcases d.roster.records[i]? with _ | _ | r <;> rfl
  · intro e
    have hexec : exec (.wakeTimerExpiry i) s = .next ⟨(d.wakeTimerExpired i).finish, s.pending⟩ := (State.named_due hd :)
    have he : e.rec? i = some r.loadWake := by rw [rec?_modRec_same, hr]; rfl
    rw [hexec, wakeTimerExpired_zero hr hz]
    refine ⟨⟨_, rfl, ?_⟩, ?_⟩
    · rw [finish_still, (Served.requestEntry _ i r.id .timer).1]
      exact (Served.modRec d i Record.loadWake (fun _ => rfl) fun _ h => h).1
    · exact congrArg (fun x : Device => (Host.Outcome.next ⟨x.finish, s.pending⟩ : Answered)) (requestEntry_eq he .timer)
  · intro isTimer timers later e e'
    have hexec : exec (.testTimerExpiry i) s = .next ⟨(d.testTimerExpired i).finish, s.pending⟩ := (State.named_due hd :)
    have htimer : isTimer = Due.isTestTimer := by
      funext x
      cases x <;> rfl
    have hexpired : d.testTimerExpired i = e' := by
      have hexam : ((d.modRec i Record.loadTest).joinAgenda i r.id .timer).addExam =
          { e with
            test := { e.test with
              agenda := insertAgenda ⟨i, r.id, .timer, e.test.arrival⟩ e.test.agenda
              arrival := min (e.test.arrival + 1) 0xFFFFFFFF }
            due := timers ++ (if later.head? = some Due.agendaExam then later else Due.agendaExam :: later) } := by
        simp only [timers, later, htimer, ← Due.thenExam_eq]
        rfl
      rw [testTimerExpired_zero hr hz, hexam]
      rfl
    rw [hexec, hexpired]
    refine ⟨rfl, fun ht hl => ?_⟩
    have hlater : d.due = later := by
      rw [← List.takeWhile_append_dropWhile (p := isTimer) (l := d.due)]
      exact congrArg (· ++ later) ht
    by_cases hp : r.state = .pending ∨ r.state = .quarantined
    · have he' : e' = d := if_pos hp
      rw [he', finish_none (by rwa [hlater]), if_neg (by tauto)]
    · by_cases hj : r.state = .testing ∨ d.inAgenda i = true
      · have he' : e' = e := (if_neg hp).trans (if_pos hj)
        have hdue : e.due = later := hlater
        rw [he', finish_none (by rwa [hdue]), if_neg fun ⟨_, _, h3, h4⟩ => hj.elim h3 (by simp [h4])]
      · have hdue : e'.due = .agendaExam :: later := by
          simp only [e', if_neg hp, if_neg hj, ht, if_neg hl, List.nil_append]
        obtain ⟨hp1, hp2⟩ := not_or.mp hp
        obtain ⟨hj1, hj2⟩ := not_or.mp hj
        rw [if_pos ⟨hp1, hp2, hj1, Bool.eq_false_iff.mpr hj2⟩]
        unfold finish
        simp only [hdue]
  · intro x xs ys before hx hy
    exact insertAgenda_place (fun y hy => by simpa using mt (AgendaEntry.before_iff x y).mp (hx y hy))
      fun y hh => (AgendaEntry.before_iff x y).mpr (hy y hh)

end Sys2Proof.Machine
end

section
/-! SCAN_ROUND and the charge of a line's measurement (R26, R52, R136, R143 to R147; table 6-3). -/

namespace Sys2Proof.Machine

open Device

namespace Device

/-! ## The charge of one measurement -/

/-- The device with another roster and outage tally: all that a charge changes. -/
def withCharge (d : Device) (r : Roster) (t : Nat) : Device := { d with roster := r, mode := { d.mode with tally := t } }

/-- What a measurement adds depends on the roster and the tally alone. -/
theorem chargeLine_congr {d c : Device} (hr : d.roster = c.roster) (ht : d.mode.tally = c.mode.tally) (x : Line) (m : Nat) :
    d.chargeLine x m = d.withCharge (c.chargeLine x m).roster (c.chargeLine x m).mode.tally := by
  have hsame : d = d.withCharge c.roster c.mode.tally := by rw [← hr, ← ht]; rfl
  have hadd : ∀ i, d.addCharge i m = d.withCharge (c.addCharge i m).roster (c.addCharge i m).mode.tally := by
    intro i
    simp only [addCharge, addTally, modRec, withCharge, hr, ht]
  have hrec : ∀ i, d.rec? i = c.rec? i := rec?_congr (congrArg Roster.records hr)
  have hnames : ∀ i t, d.names i t = c.names i t := by
    intro i t
    unfold names
    rw [hrec]
  unfold chargeLine
  simp only [hrec, hnames]
  split
  · split
    · exact hadd _
    · exact hsame
  · split
    · exact hadd _
    · exact hsame
  · split
    · exact hadd _
    · exact hsame
  · simp only [addUnattributed, addTally, withCharge, hr, ht]
  · exact hsame

theorem chargeLine_bound {d : Device} {x : Line} {i : Nat} {r : Record} (m : Nat)
    (hs : x.switch = .on ∨ ∃ k, x.switch = .softstart k) (hb : x.binding = some i) (hr : d.rec? i = some r) :
    d.chargeLine x m = d.addCharge i m := by
  unfold chargeLine
  rcases hs with hs | ⟨k, hs⟩ <;> simp only [hs, hb, hr, Option.isSome_some, if_true]

/-! ## One line of a round -/

/-- A line's entry after its measurement. -/
def measured (d : Device) (x : Line) (m : Nat) : Line :=
  { x with current := m, overdraw := d.captureOf x m, switch := x.switch.round }

theorem round_softstart_zero (s : Switch) : s.round = .softstart 0 ↔ ∃ k, s = .softstart k ∧ k ≤ 1 := by
  cases s <;> simp [Switch.round]
  omega

theorem scanLine_none {d : Device} {l : Nat} (h : d.line? l = none) (v : Nat) : d.scanLine l v = d := by
  unfold scanLine
  rw [h]

theorem scanLine_some {d : Device} {l : Nat} {x : Line} (h : d.line? l = some x) (v : Nat) : d.scanLine l v =
    { (d.chargeLine x (min v 1500)).modLine l (fun y => d.measured y (min v 1500)) with
      due := d.due ++ if x.switch.round = .softstart 0 then [.softstart l] else [] } := by
  have hdue : (d.chargeLine x (min v 1500)).due = d.due := by
    rw [chargeLine_congr rfl rfl]
    rfl
  unfold scanLine
  simp only [h]
  split
  · rename_i hz
    rw [if_pos hz, ← hdue]
    rfl
  · rename_i hz
    rw [if_neg hz, List.append_nil, ← hdue]
    rfl

/-! ## The lines of a round -/

/-- The charge of the first `n` lines, from the lines of `d`. -/
def chargeOf (d c : Device) (currents : List Nat) (n : Nat) : Device :=
  (List.range n).foldl (fun c l => match d.line? l, currents[l]? with
    | some x, some m => c.chargeLine x (min m 1500)
    | _, _ => c) c

/-- The first `n` lines scanned. -/
def scanOf (d : Device) (currents : List Nat) (n : Nat) : Device :=
  (List.range n).foldl (fun d l => match currents[l]? with
    | some m => d.scanLine l m
    | none => d) { d with scanned := true }

/-- The soft start of a line completes in the round. -/
def completes (d : Device) (l : Nat) : Bool := match (d.line? l).map Line.switch with
  | some (.softstart k) => decide (k ≤ 1)
  | _ => false

theorem completes_iff {d : Device} {l : Nat} : d.completes l = true ↔
    ∃ x, d.line? l = some x ∧ x.switch.round = .softstart 0 := by
  unfold completes
  rcases d.line? l with _ | x
  · simp
  · cases hx : x.switch <;> simp [round_softstart_zero, hx]

theorem chargeOf_succ (d c : Device) (currents : List Nat) (n : Nat) : d.chargeOf c currents (n + 1) =
    match d.line? n, currents[n]? with
    | some x, some m => (d.chargeOf c currents n).chargeLine x (min m 1500)
    | _, _ => d.chargeOf c currents n := by
  unfold chargeOf
  rw [List.range_succ, List.foldl_concat]

theorem scanOf_succ {d : Device} {currents : List Nat} {n m : Nat} (h : currents[n]? = some m) :
    d.scanOf currents (n + 1) = (d.scanOf currents n).scanLine n m := by
  unfold scanOf
  rw [List.range_succ, List.foldl_concat]
  simp only [h]

/-- What the device is when the lines of a round have been scanned as far as line `n`. -/
structure Scanned (d c : Device) (currents : List Nat) (n : Nat) (e : Device) : Prop where
  lines : ∀ l, e.line? l = if l < n then (d.line? l).map fun x => d.measured x (min (currents.getD l 0) 1500) else d.line? l
  rest : e = { d with
    scanned := true
    lines := e.lines
    due := d.due ++ ((List.range n).filter d.completes).map Due.softstart
    roster := (d.chargeOf c currents n).roster
    mode := { d.mode with tally := (d.chargeOf c currents n).mode.tally } }

theorem Scanned.zero {d c : Device} (hr : c.roster = d.roster) (ht : c.mode.tally = d.mode.tally) (currents : List Nat) :
    Scanned d c currents 0 { d with scanned := true } := by
  refine ⟨fun l => rfl, ?_⟩
  simp only [chargeOf, List.range_zero, List.foldl_nil, List.filter_nil, List.map_nil, List.append_nil, hr, ht]

/-- The next line of the round has no entry. -/
theorem Scanned.next_none {d c e : Device} {currents : List Nat} {n m : Nat} (h : Scanned d c currents n e)
    (hn : d.line? n = none) : Scanned d c currents (n + 1) (e.scanLine n m) := by
  have hen : e.line? n = none := by rw [h.lines, if_neg (Nat.lt_irrefl n), hn]
  have hcomp : d.completes n = false := by simp [completes, hn]
  have hdue : (List.range (n + 1)).filter d.completes = (List.range n).filter d.completes := by
    rw [List.range_succ, List.filter_append, List.filter_singleton, hcomp]
    exact List.append_nil _
  have hcharge : d.chargeOf c currents (n + 1) = d.chargeOf c currents n := by simp only [chargeOf_succ, hn]
  rw [scanLine_none hen]
  refine ⟨fun l => ?_, ?_⟩
  · rw [h.lines]
    rcases Nat.lt_trichotomy l n with hl | rfl | hl
    · rw [if_pos hl, if_pos (by omega)]
    · rw [if_neg (Nat.lt_irrefl l), hn]
      simp
    · rw [if_neg (by omega), if_neg (by omega)]
  · rw [hdue, hcharge]
    exact h.rest

/-- The next line of the round has an entry. -/
theorem Scanned.next_some {d c e : Device} {currents : List Nat} {n m : Nat} {x : Line} (h : Scanned d c currents n e)
    (hx : d.line? n = some x) (hm : currents[n]? = some m) : Scanned d c currents (n + 1) (e.scanLine n m) := by
  have hen : e.line? n = some x := by rw [h.lines, if_neg (Nat.lt_irrefl n), hx]
  have hroster : e.roster = (d.chargeOf c currents n).roster := by rw [h.rest]
  have htally : e.mode.tally = (d.chargeOf c currents n).mode.tally := by rw [h.rest]
  have hmeas : ∀ y k, e.measured y k = d.measured y k := by
    intro y k
    rw [h.rest]
    rfl
  have hcharge : d.chargeOf c currents (n + 1) = (d.chargeOf c currents n).chargeLine x (min m 1500) := by
    simp only [chargeOf_succ, hx, hm]
  have hdue : ((List.range (n + 1)).filter d.completes).map Due.softstart =
      ((List.range n).filter d.completes).map Due.softstart ++ if x.switch.round = .softstart 0 then [.softstart n] else [] := by
    have hiff : d.completes n = true ↔ x.switch.round = .softstart 0 := by simp [completes_iff, hx]
    rw [List.range_succ, List.filter_append, List.map_append, List.filter_singleton]
    by_cases hz : x.switch.round = .softstart 0
    · rw [if_pos hz, hiff.mpr hz]
      rfl
    · rw [if_neg hz, Bool.eq_false_iff.mpr (mt hiff.mp hz)]
      rfl
  have hscan := scanLine_some hen m
  rw [chargeLine_congr hroster htally] at hscan
  generalize e.scanLine n m = e' at hscan ⊢
  have hlines : e'.lines = e.lines.modify n fun y => e.measured y (min m 1500) := by rw [hscan]; rfl
  refine ⟨fun l => ?_, ?_⟩
  · have hl : e'.line? l = if n = l then (e.line? l).map (fun y => e.measured y (min m 1500)) else e.line? l :=
      (congrArg (·[l]?) hlines).trans (line?_modLine e n l _)
    rw [hl, h.lines]
    rcases Nat.lt_trichotomy l n with hl | rfl | hl
    · rw [if_neg (by omega), if_pos hl, if_pos (by omega)]
    · simp [hmeas, List.getD, hm]
    · rw [if_neg (by omega), if_neg (by omega), if_neg (by omega)]
  · have hstep : e' = { e with
        lines := e'.lines
        due := e.due ++ if x.switch.round = .softstart 0 then [.softstart n] else []
        roster := ((d.chargeOf c currents n).chargeLine x (min m 1500)).roster
        mode := { e.mode with tally := ((d.chargeOf c currents n).chargeLine x (min m 1500)).mode.tally } } := by
      rw [hlines, hscan]
      rfl
    rw [hdue, hcharge, ← List.append_assoc]
    refine hstep.trans ?_
    rw [h.rest]

theorem scanned_scanOf {d c : Device} {currents : List Nat} (hr : c.roster = d.roster) (ht : c.mode.tally = d.mode.tally) :
    ∀ n, n ≤ currents.length → Scanned d c currents n (d.scanOf currents n)
  | 0, _ => Scanned.zero hr ht currents
  | n + 1, hn => by
    have ih := scanned_scanOf (currents := currents) hr ht n (Nat.le_of_succ_le hn)
    have hm : currents[n]? = some currents[n] := List.getElem?_eq_getElem hn
    rw [scanOf_succ hm]
    rcases hx : d.line? n with _ | x
    · exact ih.next_none hx
    · exact ih.next_some hx hm

theorem scanRound_eq {d : Device} {currents : List Nat} (h : currents.length = 64) (v : Nat) :
    d.scanRound currents v = (d.scanOf currents 64).scanReserve v := by
  have hzip : (List.range 64).zip currents = (List.range 64).map fun l => (l, currents.getD l 0) := by
    refine List.ext_getElem (by simp [h]) fun k h1 h2 => ?_
    have hk : k < currents.length := by simpa [h] using h2
    simp [List.getD, hk]
  have hfold : ∀ (ls : List Nat) (e : Device), (∀ l ∈ ls, l < currents.length) →
      ls.foldl (fun e l => e.scanLine l (currents.getD l 0)) e = ls.foldl (fun e l => match currents[l]? with
        | some m => e.scanLine l m
        | none => e) e := by
    intro ls e hl
    refine List.foldl_ext _ _ _ fun e l hls => ?_
    simp [List.getD, List.getElem?_eq_getElem (hl l hls)]
  unfold scanRound scanOf
  rw [hzip, List.foldl_map, hfold _ _ fun l hl => by rw [h]; simpa using hl]

end Device

theorem Device.beaconFirst_eq (d : Device) : ∃ u, d.beaconFirst = { d with riser := u } := by
  unfold beaconFirst
  split
  · exact ⟨_, rfl⟩
  · exact ⟨d.riser, rfl⟩

/-- Settles O35: the lines of a round by induction on how many have been scanned (`Scanned`). -/
theorem scanRoundEffect : Obligations.ScanRoundEffect := by
  unfold Obligations.ScanRoundEffect
  refine ⟨fun s d currents reserve hd hlen => ?_, fun d x m => ?_⟩
  · have hexec : exec (.scanRound currents reserve) s =
        .next ⟨if d.roundOpen then d.beaconFirst.scanRound currents reserve else d, s.pending⟩ :=
      State.guarded_settled hd (beq_iff_eq.mpr hlen) fun d =>
        if d.roundOpen then d.beaconFirst.scanRound currents reserve else d
    refine ⟨fun hclosed => ?_, fun hzero hscan => ?_⟩
    · have hr : d.roundOpen = false := by
        unfold roundOpen
        rcases hclosed with h | h <;> simp [h]
      rw [hexec, hr, if_neg Bool.false_ne_true]
    · intro limit charged
      have hopen : d.roundOpen = true := by simp [roundOpen, hzero, hscan]
      obtain ⟨u, hu⟩ := beaconFirst_eq d
      have hround : exec (.scanRound currents reserve) s =
          .next ⟨(({ d with riser := u } : Device).scanOf currents 64).scanReserve reserve, s.pending⟩ := by
        rw [hexec, if_pos hopen, scanRound_eq hlen, hu]
      have hscanned := scanned_scanOf (d := { d with riser := u }) (c := d) (currents := currents) rfl rfl 64 (by omega)
      refine ⟨{ d with riser := u }, _, ?_, rfl, hround, fun l x m hx hm => ?_, ?_, ?_, ?_, ?_, ?_⟩
      · exact (execBeacon_settled hd).trans (by rw [hu])
      · have hl : l < 64 := by
          have := (List.getElem?_eq_some_iff.mp hm).1
          omega
        have hx' : ({ d with riser := u } : Device).line? l = some x := hx
        rw [hscanned.lines, if_pos hl, hx', Option.map_some, show currents.getD l 0 = m by simp [List.getD, hm]]
        rfl
      · rw [hscanned.rest]
        rfl
      · rw [hscanned.rest]
        rfl
      · rw [hscanned.rest]
        rfl
      · rw [hscanned.rest]
      · rw [hscanned.rest]
  · intro tallied charged
    refine ⟨?_, fun hs i r hb hr => chargeLine_bound m hs hb hr, fun k i t r hs hr hid => ?_, fun k hs => ?_⟩
    · rintro (h | h) <;> simp only [chargeLine, h]
    · unfold chargeLine
      simp only [hs, names_eq hr, hid, beq_self_eq_true, if_true]
      rfl
    · unfold chargeLine
      simp only [hs]
      rfl

end Sys2Proof.Machine
end

section
/-! The teardown of quarantine and retirement where nothing else waits (R14, R22; steps 1 to 6). -/

namespace Sys2Proof.Machine

open Device

/-! ## What waits -/

/-- Nothing waits but agenda entries of one record, which is out of service and holds no lease. -/
structure Leaving (i : Nat) (d : Device) : Prop where
  claims : d.lease.claims = []
  queue  : d.wake.queue = []
  agenda : ∀ y ∈ d.test.agenda, y.index = i
  out    : ∀ r, d.rec? i = some r → r.state ≠ .fed ∧ r.lease = false

/-- What a part of the teardown of a record leaves as it is, and what it does not bring back. -/
structure Quits (i : Nat) (t : TermId) (d e : Device) : Prop where
  roster    : e.roster = d.roster
  port      : e.port = d.port
  claims    : d.lease.claims = [] → e.lease.claims = []
  queue     : d.wake.queue = [] → e.wake.queue = []
  agenda    : ∀ y ∈ e.test.agenda, y ∈ d.test.agenda
  lease     : d.leaseOf i = none → e.leaseOf i = none
  tripped   : ∀ l x, d.line? l = some x → x.switch = .tripped → e.line? l = some x
  vacant    : ∀ c, d.test? c = none → e.test? c = none
  channel   : ∀ c, d.channelOf i = some c → e.channelOf i = some c ∨ e.test? c = none
  releasing : ∀ n, (d.slot? n).map Slot.use = some .releasing → (e.slot? n).map Slot.use = some .releasing
  held      : ∀ n, d.heldSlot i t = some n → e.heldSlot i t = some n ∨ (e.slot? n).map Slot.use = some .releasing

/-- A change of slots that takes none from a record and gives it none. -/
theorem Device.heldSlot_modSlot {d : Device} {n i : Nat} {t : TermId} {f : Slot → Slot}
    (hf : ∀ s : Slot, (f s).heldBy i t = s.heldBy i t) : (d.modSlot n f).heldSlot i t = d.heldSlot i t := by
  have hmap : ∀ xs : List Slot, xs.findIdx? (fun s => s.heldBy i t) = (xs.map fun s => s.heldBy i t).findIdx? id := by
    intro xs
    rw [List.findIdx?_map]
    rfl
  unfold heldSlot modSlot
  split
  · rfl
  · rw [hmap, hmap, Kept.map_modify _ _ hf]

namespace Quits

variable {i : Nat} {t : TermId} {d e f : Device}

theorem refl (i : Nat) (t : TermId) (d : Device) : Quits i t d d :=
  ⟨rfl, rfl, id, id, fun _ h => h, id, fun _ _ h _ => h, fun _ h => h, fun _ => Or.inl, fun _ h => h, fun _ => Or.inl⟩

theorem trans (h : Quits i t d e) (g : Quits i t e f) : Quits i t d f where
  roster := g.roster.trans h.roster
  port := g.port.trans h.port
  claims := g.claims ∘ h.claims
  queue := g.queue ∘ h.queue
  agenda y hy := h.agenda y (g.agenda y hy)
  lease := g.lease ∘ h.lease
  tripped l x hx hs := g.tripped l x (h.tripped l x hx hs) hs
  vacant c hc := g.vacant c (h.vacant c hc)
  channel c hc := (h.channel c hc).elim (g.channel c) fun hn => Or.inr (g.vacant c hn)
  releasing n hn := g.releasing n (h.releasing n hn)
  held n hn := (h.held n hn).elim (g.held n) fun hr => Or.inr (g.releasing n hr)

theorem rec? (h : Quits i t d e) (j : Nat) : e.rec? j = d.rec? j := rec?_congr (congrArg Roster.records h.roster) j

theorem leaving (h : Quits i t d e) (hd : Leaving i d) : Leaving i e :=
  ⟨h.claims hd.claims, h.queue hd.queue, fun y hy => hd.agenda y (h.agenda y hy), fun r hr => hd.out r (h.rec? i ▸ hr)⟩

/-! ## One lemma per part of the device -/

theorem ofLease {m : LeaseMgr} (hc : m.claims = d.lease.claims) (hl : ∀ y ∈ m.leases, y ∈ d.lease.leases) :
    Quits i t d { d with lease := m } :=
  { refl i t d with
    claims := fun h => hc.trans h
    lease := fun h => leaseOf_none_iff.2 fun y hy => leaseOf_none_iff.1 h y (hl y hy) }

theorem ofWake {w : Wake} (h : d.wake.queue = [] → w.queue = []) : Quits i t d { d with wake := w } :=
  { refl i t d with queue := h }

theorem orderOff (d : Device) (l : Nat) : Quits i t d (d.orderOff l) := by
  rw [orderOff_eq]
  refine { refl i t d with tripped := fun m x hx hs => ?_ }
  rw [line?_modLine, hx]
  obtain ⟨_, sw, _, _, _, _⟩ := x
  simp only at hs
  simp [hs]

theorem onLineOf (d : Device) (j : Nat) : Quits i t d (d.onLineOf j Device.orderOff) := by
  unfold Device.onLineOf
  split
  · exact orderOff _ _
  · exact refl i t d

theorem ofSlot (n : Nat) (f : Slot → Slot)
    (hr : ∀ m, (d.slot? m).map Slot.use = some .releasing → ((d.modSlot n f).slot? m).map Slot.use = some .releasing)
    (hh : ∀ m, d.heldSlot i t = some m →
      (d.modSlot n f).heldSlot i t = some m ∨ ((d.modSlot n f).slot? m).map Slot.use = some .releasing) :
    Quits i t d (d.modSlot n f) := by
  unfold modSlot at hr hh ⊢
  split
  · exact refl i t d
  · rename_i hn
    rw [if_neg hn] at hr hh
    exact { refl i t d with releasing := hr, held := hh }

theorem freeSlot (d : Device) (n : Nat) : Quits i t d (d.freeSlot n) := by
  unfold Device.freeSlot
  refine ofSlot n _ (fun m hm => ?_) fun m hm => Or.inl ?_
  · obtain ⟨s, hs, hu⟩ := Option.map_eq_some_iff.1 hm
    rw [slot?_modSlot, hs]
    by_cases h : n = m <;> simp [h, hu]
  · rw [heldSlot_modSlot, hm]
    intro s
    obtain ⟨_, use⟩ := s
    cases use <;> rfl

theorem releaseSlot (d : Device) : Quits i t d (d.releaseSlot i t) := by
  unfold Device.releaseSlot
  split
  · rename_i n hn
    refine ofSlot n _ (fun m hm => ?_) fun m hm => Or.inr ?_
    · obtain ⟨s, hs, hu⟩ := Option.map_eq_some_iff.1 hm
      rw [slot?_modSlot, hs]
      by_cases h : n = m <;> simp [h, hu]
    · obtain rfl := Option.some_inj.1 (hn.symm.trans hm)
      obtain ⟨⟨s, _, hs, _⟩, _⟩ := heldSlot_some_iff.1 hm
      rw [slot?_modSlot, if_pos rfl, hs]
      rfl
  · exact refl i t d

theorem ofTest {x : TestEngine} (ha : ∀ y ∈ x.agenda, y ∈ d.test.agenda)
    (hv : ∀ c, d.test? c = none → ({ d with test := x } : Device).test? c = none)
    (hc : ∀ c, d.channelOf i = some c → ({ d with test := x } : Device).channelOf i = some c
      ∨ ({ d with test := x } : Device).test? c = none) : Quits i t d { d with test := x } :=
  { refl i t d with agenda := ha, vacant := hv, channel := hc }

end Quits

/-! ## Leases -/

namespace Device

variable {d : Device} {i : Nat}

theorem test?_modTest (d : Device) (i c : Nat) (f : Test → Test) :
    (d.modTest i f).test? c = (d.test? c).map fun x => if x.index = i then f x else x := by
  simp only [test?, modTest, List.getElem?_map]
  rcases d.test.channels[c]? with _ | _ | x
  · rfl
  · rfl
  · by_cases h : x.index = i <;> simp [h]

theorem channelOf_modTest (f : Test → Test) (hf : ∀ x, (f x).index = x.index) (j : Nat) :
    (d.modTest i f).channelOf j = d.channelOf j := by
  unfold channelOf Device.modTest
  rw [List.findIdx?_map]
  refine congrArg (List.findIdx? · d.test.channels) (funext fun o => ?_)
  rcases o with _ | x
  · rfl
  · by_cases h : x.index = i <;> simp [h, hf]

/-- A change that gives the record what it has. -/
theorem modRec_fixed {f : Record → Record} (h : ∀ r, d.rec? i = some r → f r = r) : d.modRec i f = d := by
  have hsame : d.roster.records.modify i (Option.map f) = d.roster.records := by
    refine List.ext_getElem? fun j => ?_
    rw [List.getElem?_modify]
    by_cases hij : i = j
    · subst hij
      rcases hi : d.roster.records[i]? with _ | _ | r
      · rfl
      · simp
      · simp [h r (rec?_eq.2 hi)]
    · simp [hij]
  unfold modRec
  rw [hsame]

theorem leaseEndRecord_leaving (h : Leaving i d) (t : TermId) :
    d.leaseEndRecord i t = d.modTest i fun x => { x with leaseHeld := false } := by
  have hfed : d.inState i .fed = false := by
    rw [← Bool.not_eq_true, inState_iff]
    rintro ⟨r, hr, hs⟩
    exact (h.out r hr).1 hs
  unfold leaseEndRecord
  rw [hfed, if_neg Bool.false_ne_true, modRec_fixed fun r hr => ?_]
  rw [← (h.out r hr).2]

end Device

namespace Quits

variable {i : Nat} {t : TermId} {d e f : Device}

theorem modTest (d : Device) (i : Nat) (f : Test → Test) (hf : ∀ x, (f x).index = x.index) : Quits i t d (d.modTest i f) := by
  refine ofTest (fun y h => h) (fun c hc => ?_) fun c hc => Or.inl ?_
  · exact (test?_modTest d i c f).trans (by rw [hc]; rfl)
  · exact (channelOf_modTest f hf i).trans hc

theorem removeLease (d : Device) (y : Lease) : Quits i t d (d.removeLease y) :=
  ofLease rfl fun _ h => (List.mem_filter.1 h).1

/-- The end of the lease of a record that leaves service. -/
theorem endLease (h : Leaving i d) {w : LeaseEnd} (hw : w.cut = none) :
    Quits i t d (d.endLease i w) ∧ (d.endLease i w).leaseOf i = none := by
  unfold Device.endLease
  rcases hy : d.leaseOf i with _ | y
  · exact ⟨refl i t d, hy⟩
  · obtain ⟨_, rfl⟩ := leaseOf_some hy
    have h1 : Quits y.index t d (d.removeLease y) := removeLease d y
    have h2 : Quits y.index t d
        (if y.phase = .live then (d.removeLease y).onLineOf y.index Device.orderOff else d.removeLease y) := by
      split
      · exact h1.trans (onLineOf _ _)
      · exact h1
    have hnone : (if y.phase = .live then (d.removeLease y).onLineOf y.index Device.orderOff
        else d.removeLease y).leaseOf y.index = none := by
      have h0 : (d.removeLease y).leaseOf y.index = none := leaseOf_none_iff.2 fun z hz => by
        simpa using (List.mem_filter.1 hz).2
      split
      · exact (onLineOf (t := t) _ _).lease h0
      · exact h0
    unfold endLeaseQuiet
    simp only [hw]
    generalize (if y.phase = .live then _ else _ : Device) = e at h2 hnone
    rw [leaseEndRecord_leaving (h2.leaving h)]
    have h3 : Quits y.index t d (e.modTest y.index fun x => { x with leaseHeld := false }) :=
      h2.trans (modTest e _ _ fun _ => rfl)
    have hl := h3.leaving h
    rw [serve_none hl.claims hl.queue]
    exact ⟨h3, hnone⟩

end Quits

/-! ## Claim, test and wake -/

namespace Device

variable {d : Device} {i : Nat}

theorem dropClaim_none (h : d.lease.claims = []) : d.dropClaim i = d := by
  unfold dropClaim hasClaim claimOf
  rw [h]
  rfl

theorem headCheck_none {d' : Device} (h : d'.wake.queue = []) : headCheck d d' = d' := by
  unfold headCheck
  rw [examineWake_none h, ite_self]

/-- A permit's return serves nothing where nothing waits. -/
theorem returnPermit_none (hc : d.lease.claims = []) (hq : d.wake.queue = []) : d.returnPermit = d.clearPermit := by
  unfold returnPermit clearPermit
  cases d.lease.permit with
  | none => rfl
  | some k => exact serve_none hc hq

theorem removeAgenda_eq (d : Device) (i : Nat) : d.removeAgenda i = { d with test := (d.removeAgenda i).test } := by
  unfold removeAgenda clearInHand
  split
  · split <;> rfl
  · rfl

theorem removeAgenda_agenda (d : Device) (i : Nat) :
    (d.removeAgenda i).test.agenda = d.test.agenda.filter fun e => e.index != i := by
  unfold removeAgenda clearInHand
  split
  · split <;> rfl
  · rfl

theorem removeAgenda_channels (d : Device) (i : Nat) : (d.removeAgenda i).test.channels = d.test.channels := by
  unfold removeAgenda clearInHand
  split
  · split <;> rfl
  · rfl

theorem test?_putChannel_none (d : Device) (b c : Nat) :
    (d.putChannel b none).test? c = if b = c then none else d.test? c := by
  simp only [test?, putChannel, List.getElem?_set]
  by_cases h : b = c
  · subst h
    by_cases hl : b < d.test.channels.length <;> simp [hl]
  · simp [h]

/-- The channel of a record freed, with nothing stored. -/
def vacate (d : Device) (i : Nat) : Device := match d.channelOf i with
  | some c => d.putChannel c none
  | none => d

theorem vacate_eq (d : Device) (i : Nat) : d.vacate i = { d with test := (d.vacate i).test } := by
  unfold vacate
  split <;> rfl

theorem dropTest_leaving (h : Leaving i d) : d.dropTest i = (d.vacate i).removeAgenda i := by
  have hnil : ((d.vacate i).removeAgenda i).test.agenda = [] := by
    rw [removeAgenda_agenda, List.filter_eq_nil_iff]
    intro y hy
    have hy' : y ∈ d.test.agenda := by
      unfold vacate at hy
      split at hy <;> exact hy
    simp [h.agenda y hy']
  show (if _ then ((d.vacate i).removeAgenda i).examineAgenda else (d.vacate i).removeAgenda i) = _
  rw [examineAgenda_none hnil, ite_self]

theorem dropTest_eq (h : Leaving i d) : d.dropTest i = { d with test := (d.dropTest i).test } := by
  rw [dropTest_leaving h]
  refine (removeAgenda_eq (d.vacate i) i).trans ?_
  rw [vacate_eq d i]

end Device

namespace Quits

variable {i : Nat} {t : TermId} {d e f : Device}

theorem vacate (d : Device) (i : Nat) : Quits i t d (d.vacate i) ∧ ∀ c, d.channelOf i = some c → (d.vacate i).test? c = none := by
  unfold Device.vacate
  split
  · rename_i c hc
    have hput : ∀ b, d.channelOf i = some b → (d.putChannel c none).test? b = none := by
      intro b hb
      rw [test?_putChannel_none, if_pos (Option.some_inj.1 (hc.symm.trans hb))]
    refine ⟨ofTest (fun _ h => h) (fun b hb => ?_) fun b hb => Or.inr (hput b hb), hput⟩
    refine (test?_putChannel_none d c b).trans ?_
    rw [hb, ite_self]
  · rename_i hc
    exact ⟨refl i t d, fun b hb => by rw [hc] at hb; cases hb⟩

theorem removeAgenda (d : Device) (i : Nat) : Quits i t d (d.removeAgenda i) := by
  have htest : ∀ c, (d.removeAgenda i).test? c = d.test? c := fun c => by
    unfold test?
    rw [removeAgenda_channels]
  have hchan : (d.removeAgenda i).channelOf i = d.channelOf i := by
    unfold channelOf
    rw [removeAgenda_channels]
  have hagenda : ∀ y ∈ (d.removeAgenda i).test.agenda, y ∈ d.test.agenda := fun y hy => by
    rw [removeAgenda_agenda] at hy
    exact (List.mem_filter.1 hy).1
  have heq := removeAgenda_eq d i
  rw [heq] at htest hchan hagenda ⊢
  exact ofTest hagenda (fun c hc => (htest c).trans hc) fun c hc => Or.inl (hchan.trans hc)

/-- The record's test and its agenda entry go. -/
theorem dropTest (h : Leaving i d) : Quits i t d (d.dropTest i) ∧ (d.dropTest i).test.agenda = []
    ∧ ∀ c, d.channelOf i = some c → (d.dropTest i).test? c = none := by
  rw [dropTest_leaving h]
  obtain ⟨hv, hc⟩ := vacate (t := t) d i
  have hr : Quits i t (d.vacate i) ((d.vacate i).removeAgenda i) := removeAgenda _ i
  refine ⟨hv.trans hr, ?_, fun c h => hr.vacant c (hc c h)⟩
  rw [removeAgenda_agenda, List.filter_eq_nil_iff]
  intro y hy
  simp [(hv.leaving h).agenda y hy]

theorem clearPermit (d : Device) : Quits i t d d.clearPermit := by
  unfold Device.clearPermit
  split
  · exact ofLease rfl fun _ h => h
  · exact refl i t d

theorem pulseOver (d : Device) : Quits i t d d.pulseOver := ofWake id

theorem clearAttempt (d : Device) : Quits i t d d.clearAttempt := ofWake id

theorem setEviction (d : Device) (o : Option (Nat × TermId)) : Quits i t d (d.setEviction o) := ofWake id

theorem dropWakeRecord (d : Device) (i : Nat) : Quits i t d (d.dropWakeRecord i) := ofWake fun h => by rw [h]; rfl

theorem returnPermit (h : Leaving i d) : Quits i t d d.returnPermit := by
  rw [returnPermit_none h.claims h.queue]
  exact clearPermit d

theorem stopPulse (h : Leaving i d) : Quits i t d d.stopPulse := by
  unfold Device.stopPulse
  split
  · split
    · dsimp only
      split
      · rename_i l _
        have h1 : Quits i t d (d.orderOff l).pulseOver := (orderOff d l).trans (pulseOver _)
        exact h1.trans (returnPermit (h1.leaving h))
      · have h1 : Quits i t d d.pulseOver := pulseOver d
        exact h1.trans (returnPermit (h1.leaving h))
    · exact refl i t d
  · exact refl i t d

theorem abandonAttempt (h : Leaving i d) : Quits i t d d.abandonAttempt := by
  unfold Device.abandonAttempt
  split
  · rename_i a _
    have h1 : Quits i t d (d.stopPulse.freeSlot a.slot).clearAttempt :=
      ((stopPulse h).trans (freeSlot _ _)).trans (clearAttempt _)
    rw [examineWake_none (h1.leaving h).queue]
    exact h1
  · exact refl i t d

/-- The record's wake queue entry and its attempt go. -/
theorem dropWake (h : Leaving i d) : Quits i t d (d.dropWake i) := by
  have h1 : Quits i t d (d.dropWakeRecord i) := dropWakeRecord d i
  have h2 := h1.leaving h
  unfold Device.dropWake
  rw [headCheck_none h2.queue]
  dsimp only
  split
  · exact h1.trans (abandonAttempt h2)
  · exact h1

end Quits

/-- The end of an eviction, where nothing waits, is the eviction's alone. -/
theorem Device.completeEviction_none {d : Device} (h : d.wake.queue = []) (i : Nat) (t : TermId) :
    d.completeEviction i t = if d.wake.eviction = some (i, t) then d.setEviction none else d := by
  unfold completeEviction
  rw [examineWake_none (show (d.setEviction none).wake.queue = [] from h)]

theorem Device.orderOff_switch {d : Device} {l : Nat} {x : Line} (h : (d.orderOff l).line? l = some x) :
    x.switch = .off ∨ x.switch = .tripped := by
  rw [orderOff_eq, line?_modLine_same] at h
  obtain ⟨y, _, rfl⟩ := Option.map_eq_some_iff.1 h
  by_cases hy : y.switch = .tripped <;> simp [hy]

theorem Device.releaseSlot_released {d : Device} {i n : Nat} {t : TermId} (h : d.heldSlot i t = some n) :
    ((d.releaseSlot i t).slot? n).map Slot.use = some .releasing := by
  obtain ⟨⟨s, _, hs, _⟩, _⟩ := heldSlot_some_iff.1 h
  unfold releaseSlot
  simp only [h, slot?_modSlot, if_true, hs, Option.map_some]

/-! ## The whole teardown -/

/-- What the whole teardown of a record leaves, beside what every part of it does. -/
structure TornDown (i : Nat) (t : TermId) (d e : Device) : Prop extends Quits i t d e where
  noLease  : e.leaseOf i = none
  noAgenda : e.test.agenda = []
  free     : ∀ c, d.channelOf i = some c → e.test? c = none
  released : ∀ n, d.heldSlot i t = some n → (e.slot? n).map Slot.use = some .releasing
  lineOff  : ∀ l x, d.lineOf i = some l → e.line? l = some x → x.switch = .off ∨ x.switch = .tripped

/-- The last parts: slot, line, eviction. -/
theorem Device.teardown_leaving {d : Device} {i : Nat} (h : Leaving i d) {w : LeaseEnd} (hw : w.cut = none) (t : TermId) :
    d.teardown i t w =
      (((((d.endLease i w).dropTest i).dropWake i).releaseSlot i t).onLineOf i orderOff).completeEviction i t := by
  have hl := (Quits.endLease (t := t) h hw).1.leaving h
  unfold teardown
  simp only [dropClaim_none hl.claims]

theorem tornDown {d : Device} {i : Nat} (h : Leaving i d) {w : LeaseEnd} (hw : w.cut = none) (t : TermId) :
    TornDown i t d (d.teardown i t w) := by
  rw [teardown_leaving h hw]
  obtain ⟨h1, hlease⟩ := Quits.endLease (t := t) h hw
  obtain ⟨h2, hagenda, hfree⟩ := Quits.dropTest (t := t) (h1.leaving h)
  have h3 := Quits.dropWake (t := t) ((h1.trans h2).leaving h)
  have h4 := Quits.releaseSlot (i := i) (t := t) (((d.endLease i w).dropTest i).dropWake i)
  have h5 := Quits.onLineOf (i := i) (t := t) ((((d.endLease i w).dropTest i).dropWake i).releaseSlot i t) i
  have h13 := (h1.trans h2).trans h3
  have h15 := (h13.trans h4).trans h5
  have hline : ∀ l x, d.lineOf i = some l →
      (((((d.endLease i w).dropTest i).dropWake i).releaseSlot i t).onLineOf i orderOff).line? l = some x →
      x.switch = .off ∨ x.switch = .tripped := by
    intro l x hl hx
    have hl' : ((((d.endLease i w).dropTest i).dropWake i).releaseSlot i t).lineOf i = some l := by
      unfold lineOf
      rw [(h13.trans h4).rec?]
      exact hl
    unfold onLineOf at hx
    rw [hl'] at hx
    exact orderOff_switch hx
  have hreleased : ∀ n, d.heldSlot i t = some n →
      ((((((d.endLease i w).dropTest i).dropWake i).releaseSlot i t).onLineOf i orderOff).slot? n).map Slot.use
        = some .releasing := by
    intro n hn
    refine h5.releasing n ?_
    rcases h13.held n hn with hh | hr
    · exact releaseSlot_released hh
    · exact h4.releasing n hr
  have h45 := (h3.trans h4).trans h5
  rw [completeEviction_none (h15.leaving h).queue]
  generalize ((((d.endLease i w).dropTest i).dropWake i).releaseSlot i t).onLineOf i orderOff = e at *
  have hfree' : ∀ c, d.channelOf i = some c → e.test? c = none := fun c hc =>
    h45.vacant c ((h1.channel c hc).elim (hfree c) (h2.vacant c))
  have hagenda' : e.test.agenda = [] := List.eq_nil_iff_forall_not_mem.2 fun y hy => by
    simpa [hagenda] using h45.agenda y hy
  have hlease' : e.leaseOf i = none := h45.lease (h2.lease hlease)
  split
  · exact ⟨h15.trans (Quits.setEviction e none), hlease', hagenda', hfree', hreleased, hline⟩
  · exact ⟨h15, hlease', hagenda', hfree', hreleased, hline⟩

end Sys2Proof.Machine
end

section
/-! Quarantine and trips (R14, R139, R140). -/

namespace Sys2Proof.Machine

open Device

/-- The switch is in a pulse. -/
def Switch.pulses : Switch → Bool
  | .pulse _ _ => true
  | _ => false

namespace Device

variable {d : Device} {i l : Nat} {r : Record} {c : Cause}

/-! ## A quarantine taken -/

theorem sizes_of_ok (h : d.ok = true) : d.roster.records.length = 80 ∧ d.port.records.length = 80 := by
  obtain ⟨hs, _⟩ := (Kept.ok_iff d).1 h
  simp only [sizes, Bool.and_eq_true, beq_iff_eq] at hs
  tauto

/-- The device between a quarantine's transition and its teardown. -/
def quarantining (d : Device) (i : Nat) (c : Cause) : Device :=
  { d.modRec i (fun r => r.enter c .quarantined) with
    port := { d.port with records := d.port.records.modify i fun x => { x with quarantined := true } } }

theorem quarantine_taken (hr : d.rec? i = some r) (hc : c.target r.state = some .quarantined) :
    d.quarantine i r.id c = some ((d.quarantining i c).teardown i r.id .quarantine) := by
  have hn : (d.modRec i fun r => r.enter c .quarantined).names i r.id = true := by
    rw [names_eq (r := r.enter c .quarantined) (by rw [rec?_modRec_same, hr]; rfl)]
    exact beq_self_eq_true r.id
  unfold quarantine
  rw [transition_taken hr rfl hc, Option.map_some, raiseRec, if_pos hn]
  rfl

theorem rec?_quarantining (hr : d.rec? i = some r) : (d.quarantining i c).rec? i = some (r.enter c .quarantined) :=
  (rec?_modRec_same d i _).trans (by rw [hr]; rfl)

theorem leaving_quarantining (hr : d.rec? i = some r) (hc : d.lease.claims = []) (hq : d.wake.queue = [])
    (ha : ∀ y ∈ d.test.agenda, y.index = i) : Leaving i (d.quarantining i c) := by
  refine ⟨hc, hq, ha, fun r' hr' => ?_⟩
  obtain rfl := Option.some_inj.1 ((rec?_quarantining hr).symm.trans hr')
  exact ⟨RecState.noConfusion, rfl⟩

/-- What a quarantine that is taken leaves where nothing else waits (R14). -/
theorem quarantine_leaving (hok : d.ok = true) (hr : d.rec? i = some r) (hc : d.lease.claims = []) (hq : d.wake.queue = [])
    (ha : ∀ y ∈ d.test.agenda, y.index = i) (ht : c.target r.state = some .quarantined) :
    ∃ e, d.quarantine i r.id c = some e ∧ TornDown i r.id (d.quarantining i c) e
      ∧ e.rec? i = some (r.enter c .quarantined) ∧ (e.reasonsOf i).quarantined = true
      ∧ e.still Record.standing = d.still Record.standing := by
  have htorn := tornDown (leaving_quarantining (c := c) hr hc hq ha) (w := .quarantine) rfl r.id
  refine ⟨_, quarantine_taken hr ht, htorn, (htorn.rec? i).trans (rec?_quarantining hr), ?_,
    (Served.quarantine (quarantine_taken hr ht)).1⟩
  obtain ⟨hrl, hpl⟩ := sizes_of_ok hok
  have hi : i < d.port.records.length := by
    have := rec?_length hr
    omega
  have hrs : (d.quarantining i c).port.records[i]? = some { d.port.records[i] with quarantined := true } := by
    simp [quarantining, hi]
  rw [reasonsOf, htorn.port, List.getD, hrs]
  rfl

/-! ## Trips -/

theorem tripPin_asserts {x : Line} {ns : Nat} (hx : d.line? l = some x) (hns : 50000 ≤ ns) (hlow : x.tripLow = false) :
    d.tripPin l (.low ns) = (d.modLine l fun x => { x with tripLow := true }).tripped l := by
  unfold tripPin
  simp [hx, hlow, Nat.not_lt.mpr hns]

theorem tripped_bound {x : Line} (hx : d.line? l = some x) (hb : x.binding = some i) (ho : x.switch ≠ .off)
    (ht : x.switch ≠ .tripped) : d.tripped l = d.tripBound l i x.switch.pulses := by
  unfold tripped
  rw [hx]
  cases hs : x.switch <;> simp_all [Switch.pulses]

/-- The device once the trip has latched the line: TRIP_N asserted, the switch TRIPPED. -/
def latched (d : Device) (l : Nat) : Device :=
  (d.modLine l fun x => { x with tripLow := true }).modLine l fun x => { x with switch := .tripped }

theorem line?_latched {x : Line} (h : d.line? l = some x) :
    (d.latched l).line? l = some { x with tripLow := true, switch := .tripped } := by
  unfold latched
  rw [line?_modLine_same, line?_modLine_same, h]
  rfl

theorem latched_ok (l : Nat) (h : d.ok = true) : (d.latched l).ok = true :=
  Sound.ofLine l _ (fun _ hx => hx) (Sound.ofLine l _ (fun _ hx => hx) h)

theorem latched_still (d : Device) (l : Nat) :
    (d.latched l).still Record.standing = (d.modLine l fun x => { x with tripLow := true }).still Record.standing :=
  (Kept.ofLine (d := d.modLine l fun x => { x with tripLow := true }) l (fun x => { x with switch := .tripped }) fun _ => rfl).1

/-- TRIP of a bound line whose record the quarantine takes. -/
theorem exec_trip {s : State} {x : Line} {ns : Nat} {e : Device} (hd : s.settled d) (hdue : Due.trip l ∉ s.dev.due)
    (hx : d.line? l = some x) (hb : x.binding = some i) (hns : 50000 ≤ ns) (hlow : x.tripLow = false) (ho : x.switch ≠ .off)
    (ht : x.switch ≠ .tripped) (hr : d.rec? i = some r) (hq : (d.latched l).quarantine i r.id .trip = some e) :
    exec (.trip l (.low ns)) s = .next ⟨if x.switch.pulses then e.reportPulseEnd l else e, s.pending⟩ := by
  obtain ⟨hrun, hset⟩ := hd
  have hx' : (d.modLine l fun x => { x with tripLow := true }).line? l = some { x with tripLow := true } := by
    rw [line?_modLine_same, hx]
    rfl
  have hcontains : ¬ s.dev.due.contains (.trip l) = true := by simpa using hdue
  have hcmd : s.dev.tripCommand l (.low ns) = if x.switch.pulses then e.reportPulseEnd l else e := by
    unfold tripCommand
    rw [if_pos hrun, if_neg hcontains, hset, tripPin_asserts hx hns hlow, tripped_bound hx' hb ho ht]
    have hid : (((d.latched l).rec? i).map Record.id).getD 0 = r.id := by
      rw [show (d.latched l).rec? i = some r from hr]
      rfl
    unfold tripBound
    simp only [← latched.eq_1, hid, hq]
  rw [← hcmd]
  rfl

/-! ## The end of a record's pulse with its attempt -/

/-- A pulse stopped, where nothing waits: its permit is given back. -/
theorem stopPulse_pulsing {a : Attempt} {k : Nat} (hc : d.lease.claims = []) (hq : d.wake.queue = [])
    (ha : d.wake.attempt = some a) (hp : a.pulsing = true) (hk : d.lease.permit = some k) :
    d.stopPulse.riser = d.riser ∧ d.stopPulse.wake.queue = []
    ∧ d.stopPulse.lease = { d.lease with permit := none, committed := d.lease.committed - k } := by
  have hperm : ∀ e : Device, e.riser = d.riser → e.lease = d.lease → e.wake = d.wake →
      e.pulseOver.returnPermit.riser = d.riser ∧ e.pulseOver.returnPermit.wake.queue = []
      ∧ e.pulseOver.returnPermit.lease = { d.lease with permit := none, committed := d.lease.committed - k } := by
    intro e hr hl hw
    have hqe : e.pulseOver.wake.queue = [] := by rw [pulseOver, hw, hq]
    rw [returnPermit_none (by rw [pulseOver_lease, hl, hc]) hqe]
    refine ⟨by rw [clearPermit_riser, pulseOver_riser, hr], by rw [clearPermit_wake, hqe], ?_⟩
    unfold clearPermit
    simp only [pulseOver_lease, hl, hk]
  unfold stopPulse
  simp only [ha, hp, if_true]
  split
  · exact hperm _ (orderOff_riser ..) (orderOff_lease ..) (orderOff_wake ..)
  · exact hperm _ rfl rfl rfl

/-- An attempt abandoned during its pulse, where nothing waits: the permit back, the reserved slot FREE. -/
theorem abandonAttempt_pulsing {a : Attempt} {k : Nat} (hc : d.lease.claims = []) (hq : d.wake.queue = [])
    (ha : d.wake.attempt = some a) (hp : a.pulsing = true) (hk : d.lease.permit = some k) :
    d.abandonAttempt.wake.attempt = none
    ∧ d.abandonAttempt.lease = { d.lease with permit := none, committed := d.lease.committed - k }
    ∧ ∀ n, d.abandonAttempt.slot? n = (d.freeSlot a.slot).slot? n := by
  obtain ⟨hr, hw, hl⟩ := stopPulse_pulsing hc hq ha hp hk
  have hq' : (d.stopPulse.freeSlot a.slot).clearAttempt.wake.queue = [] := by
    rw [clearAttempt, freeSlot_wake, hw]
  unfold abandonAttempt
  simp only [ha, examineWake_none hq']
  refine ⟨rfl, by rw [clearAttempt_lease, freeSlot_lease, hl], fun n => ?_⟩
  have hslots : ∀ e : Device, e.riser = d.riser → (e.freeSlot a.slot).slot? n = (d.freeSlot a.slot).slot? n := by
    intro e he
    have hsame : e.slot? n = d.slot? n := by
      unfold slot?
      rw [he]
    unfold freeSlot
    rw [slot?_modSlot, slot?_modSlot, hsame]
  exact hslots _ hr

/-- The teardown of a record in the pulse that calls it, where nothing waits and it holds no lease. -/
theorem teardown_pulsing {a : Attempt} {k : Nat} {hold : Count16} {t : TermId} {p : Purpose} {o : Claimant} {w : LeaseEnd}
    (h : Leaving i d) (hw : w.cut = none) (hy : d.leaseOf i = none) (ha : d.wake.attempt = some a)
    (ht : a.target = .record i t p) (hp : a.pulsing = true) (hk : d.lease.permit = some k)
    (hs : d.slot? a.slot = some ⟨hold, .reserved o⟩) :
    (d.teardown i t w).wake.attempt = none ∧ (d.teardown i t w).lease.permit = none
    ∧ (d.teardown i t w).lease.committed = d.lease.committed - k
    ∧ (d.teardown i t w).slot? a.slot = some ⟨hold, .free⟩ := by
  have hend : d.endLease i w = d := by
    unfold endLease
    rw [hy]
  have htest := dropTest_eq h
  have hleave := (Quits.dropTest (t := t) h).1.leaving h
  rw [teardown_leaving h hw, hend]
  generalize d.dropTest i = e at htest hleave ⊢
  have hdrop : e.dropWake i = (e.dropWakeRecord i).abandonAttempt := by
    have hfor : (e.dropWakeRecord i).attemptFor i = true := by
      unfold attemptFor
      rw [show (e.dropWakeRecord i).wake.attempt = some a by rw [htest]; exact ha]
      simp [ht]
    unfold dropWake
    rw [headCheck_none ((Quits.dropWakeRecord (t := t) e i).queue hleave.queue)]
    simp only [hfor, if_true]
  obtain ⟨hatt, hlease, hslot⟩ := abandonAttempt_pulsing (d := e.dropWakeRecord i) hleave.claims
    ((Quits.dropWakeRecord (t := t) e i).queue hleave.queue) (by rw [htest]; exact ha) hp (by rw [htest]; exact hk)
  have hquits := Quits.dropWake (t := t) hleave
  rw [← hdrop] at hatt hlease hslot
  have hfree : (e.dropWake i).slot? a.slot = some ⟨hold, .free⟩ := by
    have hse : (e.dropWakeRecord i).slot? a.slot = some ⟨hold, .reserved o⟩ := by rw [htest]; exact hs
    rw [hslot, freeSlot, slot?_modSlot, if_pos rfl, hse]
    rfl
  have hpermit : (e.dropWake i).lease.permit = none := by rw [hlease]
  have hcommitted : (e.dropWake i).lease.committed = d.lease.committed - k := by rw [hlease, htest]; rfl
  have hqueue := hquits.queue hleave.queue
  generalize e.dropWake i = f at hatt hfree hpermit hcommitted hqueue ⊢
  have hstays : (f.releaseSlot i t).slot? a.slot = some ⟨hold, .free⟩ := by
    unfold releaseSlot
    split
    · rename_i n hn
      obtain ⟨⟨y, g, hy, hu, _⟩, _⟩ := heldSlot_some_iff.1 hn
      have hne : n ≠ a.slot := by
        rintro rfl
        rw [hfree] at hy
        cases hy
        cases hu
      rw [slot?_modSlot, if_neg hne, hfree]
    · exact hfree
  have hoff : ∃ ls, (f.releaseSlot i t).onLineOf i orderOff = { f.releaseSlot i t with lines := ls } := by
    unfold onLineOf
    split
    · exact ⟨_, rfl⟩
    · exact ⟨_, rfl⟩
  obtain ⟨ls, hls⟩ := hoff
  rw [hls, completeEviction_none (by rw [show ({ f.releaseSlot i t with lines := ls } : Device).wake = (f.releaseSlot i t).wake
    from rfl, releaseSlot_wake, hqueue])]
  have hatt' := (congrArg Wake.attempt (releaseSlot_wake f i t)).trans hatt
  have hpermit' := (congrArg LeaseMgr.permit (releaseSlot_lease f i t)).trans hpermit
  have hcommitted' := (congrArg LeaseMgr.committed (releaseSlot_lease f i t)).trans hcommitted
  split
  · exact ⟨hatt', hpermit', hcommitted', hstays⟩
  · exact ⟨hatt', hpermit', hcommitted', hstays⟩

end Device

/-- Settles O34: each trip is a quarantine taken on the device with the line latched (`quarantine_leaving`). -/
theorem quarantineTaken : Obligations.QuarantineTaken := by
  unfold Obligations.QuarantineTaken
  refine ⟨?_, ?_, ?_⟩
  · intro s d l ns i x r hd hdue hok hc hq ha hx hb hr hl hns hlow hsw hst
    have ht : Cause.target .trip r.state = some .quarantined := by
      rcases hst with h | h | h <;> rw [h] <;> rfl
    obtain ⟨e, he, htorn, hrec, hreas, hstill⟩ :=
      quarantine_leaving (c := .trip) (latched_ok l hok) hr hc hq ha ht
    have hexec := exec_trip hd hdue hx hb hns hlow (by rcases hsw with h | ⟨k, h⟩ <;> simp [h])
      (by rcases hsw with h | ⟨k, h⟩ <;> simp [h]) hr he
    have hpulse : x.switch.pulses = false := by rcases hsw with h | ⟨k, h⟩ <;> simp [h, Switch.pulses]
    rw [hpulse, if_neg Bool.false_ne_true] at hexec
    refine ⟨e, hexec, ⟨_, hrec, rfl, rfl, rfl, rfl, r.enter_standing _ _⟩, ?_, htorn.noLease, hreas, htorn.released,
      htorn.free, htorn.noAgenda, hstill.trans ?_⟩
    · rw [htorn.tripped l _ (line?_latched hx) rfl]
      rfl
    · exact (latched_still d l)
  · intro s d l ns i j k hold x r a p c hd hdue hok hquiet hx hb hr hl hns hlow hsw hst hy ha hat hp hk hslot
    obtain ⟨hc, hq, hagenda⟩ := hquiet
    have ht : Cause.target .trip r.state = some .quarantined := by rw [hst]; rfl
    have hag : ∀ y ∈ d.test.agenda, y.index = i := by simp [hagenda]
    obtain ⟨e, he, htorn, hrec, hreas, _⟩ := quarantine_leaving (c := .trip) (latched_ok l hok) hr hc hq hag ht
    have hexec := exec_trip hd hdue hx hb hns hlow (by simp [hsw]) (by simp [hsw]) hr he
    have htear : e = ((d.latched l).quarantining i .trip).teardown i r.id .quarantine :=
      Option.some_inj.1 (he.symm.trans (quarantine_taken hr ht))
    obtain ⟨hatt, hpermit, hcom, hfree⟩ := teardown_pulsing (leaving_quarantining (d := d.latched l) (c := .trip) hr hc hq hag)
      (t := r.id) (w := .quarantine) rfl hy ha hat hp hk hslot
    rw [← htear] at hatt hpermit hcom hfree
    have hreport : e.reportPulseEnd l = e := by
      unfold reportPulseEnd
      rw [hatt]
    rw [hreport, ite_self] at hexec
    refine ⟨e, hexec, ⟨_, hrec, rfl, rfl, rfl, rfl, r.enter_standing _ _⟩, ?_, hreas, hatt, hpermit, hcom, hfree⟩
    rw [htorn.tripped l _ (line?_latched hx) rfl]
    rfl
  · intro d i r c q hok hr
    refine ⟨fun hn => ?_, fun hc hq ha hreason ht => ?_⟩
    · unfold quarantineD quarantine
      rw [hn]
      rfl
    · obtain ⟨e, he, htorn, hrec, hreas, hstill⟩ := quarantine_leaving hok hr hc hq ha ht
      have hD : d.quarantineD i r.id c = e := by
        unfold quarantineD
        rw [he]
        rfl
      intro e'
      have he' : e' = e := hD
      rw [he']
      exact ⟨⟨_, hrec, rfl, hreason, rfl, rfl, rfl, r.enter_standing _ _⟩, htorn.noLease, hreas, hstill, htorn.released,
        htorn.free, htorn.noAgenda⟩

end Sys2Proof.Machine
end

section
/-! RETIRE and PURGE (R22, R23). -/

namespace Sys2Proof.Machine

open Device

namespace Device

variable {d : Device} {i : Nat} {r : Record}

/-- The device as the teardown of a retirement finds it: the record out of service. -/
def retiring (d : Device) (i : Nat) : Device :=
  d.modRec i fun r => { r with state := .quarantined, slot := none, lease := false, idle := 0 }

theorem rec?_retiring (hr : d.rec? i = some r) :
    (d.retiring i).rec? i = some { r with state := .quarantined, slot := none, lease := false, idle := 0 } := by
  rw [retiring, rec?_modRec_same, hr]
  rfl

theorem leaving_retiring (hr : d.rec? i = some r) (hc : d.lease.claims = []) (hq : d.wake.queue = [])
    (ha : ∀ y ∈ d.test.agenda, y.index = i) : Leaving i (d.retiring i) := by
  refine ⟨hc, hq, ha, fun r' hr' => ?_⟩
  obtain rfl := Option.some_inj.1 ((rec?_retiring hr).symm.trans hr')
  exact ⟨RecState.noConfusion, rfl⟩

/-- What a retirement does after the teardown: to the record's line, the roster and the attention entries. -/
theorem retireRecord_eq {f : Device} (hr : d.rec? i = some r) (hf : (d.retiring i).teardown i r.id .retire = f)
    (hrec : f.rec? i = some { r with state := .quarantined, slot := none, lease := false, idle := 0 })
    (hline : ∀ l x, r.line = some l → f.line? l = some x → x.switch = .off ∨ x.switch = .tripped) :
    ∃ ls, d.retireRecord i = { f with
        lines := ls
        roster := ⟨f.roster.records.set i none, min (f.roster.unattributed + r.charge) maxCharge⟩
        port := { f.port with records := f.port.records.set i .empty } }
      ∧ ∀ (l : Nat) (x : Line), r.line = some l → ls[l]? = some x → x.binding = none ∧ x.switch = .off := by
  unfold retireRecord
  simp only [hr]
  rw [← retiring.eq_1, hf]
  rcases hl : r.line with _ | l
  · rw [onLineOf_none hrec hl]
    exact ⟨f.lines, rfl, fun l x h => nomatch h⟩
  · rw [onLineOf_some hrec hl, orderUnlatch_eq]
    refine ⟨_, rfl, fun m x hm hx => ?_⟩
    obtain rfl := Option.some_inj.1 hm
    have hx' : ((f.modLine l fun x => { x with switch := if x.switch = .tripped then .off else x.switch }).modLine l
        fun x => { x with binding := none }).line? l = some x := hx
    rw [line?_modLine_same, line?_modLine_same, Option.map_map, Option.map_eq_some_iff] at hx'
    obtain ⟨y, hy, rfl⟩ := hx'
    refine ⟨rfl, ?_⟩
    rcases hline l y hl hy with h | h <;> simp [h]

/-- A retirement where nothing else waits. -/
structure Retired (i : Nat) (r : Record) (d e : Device) : Prop where
  gone     : e.rec? i = none
  others   : ∀ j, j ≠ i → e.rec? j = d.rec? j
  noLease  : e.leaseOf i = none
  reasons  : e.reasonsOf i = .empty
  charge   : e.roster.unattributed = min (d.roster.unattributed + r.charge) 1099511627775
  line     : ∀ l x, r.line = some l → e.line? l = some x → x.binding = none ∧ x.switch = .off
  released : ∀ n, d.heldSlot i r.id = some n → (e.slot? n).map Slot.use = some .releasing
  free     : ∀ c, d.channelOf i = some c → e.test? c = none
  quiet    : e.quiet
  settings : e.settings = d.settings
  mode     : e.mode = d.mode
  reserve  : e.reserve = d.reserve

theorem retired (hr : d.rec? i = some r) (hc : d.lease.claims = []) (hq : d.wake.queue = [])
    (ha : ∀ y ∈ d.test.agenda, y.index = i) : Retired i r d (d.retireRecord i) := by
  have hleave := leaving_retiring hr hc hq ha
  have ht := tornDown hleave (w := .retire) rfl r.id
  have hstill := (Served.teardown (d.retiring i) i r.id .retire).1
  have hrec := (ht.rec? i).trans (rec?_retiring hr)
  obtain ⟨ls, he, hls⟩ := retireRecord_eq hr rfl hrec fun l x hl => ht.lineOff l x (by rw [lineOf_eq (rec?_retiring hr)]; exact hl)
  have hl' := ht.leaving hleave
  generalize (d.retiring i).teardown i r.id .retire = f at *
  rw [he]
  refine ⟨?_, fun j hj => ?_, ht.noLease, ?_, ?_, hls, ht.released, ht.free, ⟨hl'.claims, hl'.queue, ht.noAgenda⟩, ?_, ?_, ?_⟩
  · exact (rec?_putRec_same (d := f) (rec?_length hrec) none :)
  · refine (rec?_putRec_other (d := f) hj.symm none :).trans ?_
    rw [ht.rec?, retiring, rec?_modRec_other hj.symm]
  · simp only [reasonsOf, List.getD, List.getElem?_set_self']
    cases f.port.records[i]? <;> rfl
  · exact (congrArg (fun x : Roster => min (x.unattributed + r.charge) 1099511627775) ht.roster :)
  · exact (congrArg Device.settings hstill :)
  · exact (congrArg Device.mode hstill :)
  · exact (congrArg Device.reserve hstill :)

/-- Records retired one after another, where nothing waits. -/
theorem retired_all : ∀ (ls : List Nat) (d : Device), d.quiet → (∀ i ∈ ls, ∃ r, d.rec? i = some r) → ls.Nodup →
    (∀ i ∈ ls, (ls.foldl retireRecord d).rec? i = none)
    ∧ ∀ i, i ∉ ls → (ls.foldl retireRecord d).rec? i = d.rec? i
  | [], _, _, _, _ => ⟨fun _ h => (nomatch h), fun _ _ => rfl⟩
  | j :: ls, d, hq, hr, hn => by
    obtain ⟨r, hj⟩ := hr j (by simp)
    obtain ⟨hnj, hnls⟩ := List.nodup_cons.1 hn
    obtain ⟨hc, hw, ha⟩ := hq
    have h := retired hj hc hw (by simp [ha])
    have hrest : ∀ i ∈ ls, (d.retireRecord j).rec? i = d.rec? i := fun i hi =>
      h.others i fun e => hnj (e ▸ hi)
    obtain ⟨h1, h2⟩ := retired_all ls _ h.quiet (fun i hi => by
      rw [hrest i hi]
      exact hr i (List.mem_cons_of_mem _ hi)) hnls
    refine ⟨fun i hi => ?_, fun i hi => ?_⟩
    · rcases List.mem_cons.1 hi with rfl | hi
      · exact (h2 i hnj).trans h.gone
      · exact h1 i hi
    · obtain ⟨hij, hil⟩ := not_or.1 (mt List.mem_cons.2 hi)
      exact (h2 i hil).trans (h.others i hij)

end Device

/-- Settles O56: each retirement is a teardown where nothing waits (`retired`), and PURGE repeats it (`retired_all`). -/
theorem retireAndPurge : Obligations.RetireAndPurge := by
  unfold Obligations.RetireAndPurge
  refine ⟨fun s d p k i r hs hok hc hq ha hk hr => ?_, fun s d hs => ?_⟩
  · have hrec : d.rec? i = some r := rec?_of_keyed hr
    have hcarry : carryRetire p (d.working 0x12 p) = ((d.working 0x12 p).retireRecord i, .ok, []) :=
      withKey_found hk ((working_keyed d _ p k).trans hr) _
    have h := retired (d := d.working 0x12 p) hrec hc hq ha
    exact ⟨_, State.request_takes hs hcarry, h.gone, h.others, h.noLease, h.reasons, h.charge, h.line, h.released, h.free,
      h.quiet.2.2, h.settings, h.mode, h.reserve⟩
  · intro all e
    have hcarry : carryPurge [] (d.working 0x13 []) = (e, .ok, [BitVec.ofNat 8 all.length]) := by
      rw [← bytesBE_one]
      rfl
    refine ⟨State.request_takes hs hcarry, fun hquiet i hi => ?_⟩
    have hall : ∀ j, j ∈ all ↔ j < 80 ∧ d.inState j .quarantined = true := by simp [all]
    obtain ⟨h1, h2⟩ := retired_all all (d.working 0x13 []) hquiet (fun j hj => by
      obtain ⟨r, hr, _⟩ := inState_iff.1 ((hall j).1 hj).2
      exact ⟨r, hr⟩) (List.nodup_range.filter _)
    exact ⟨fun hin => h1 i ((hall i).2 ⟨hi, hin⟩), fun hout => h2 i fun hin => by simp [((hall i).1 hin).2] at hout⟩

end Sys2Proof.Machine
end

section
/-! The service of the claim queue (R118), and what an examination leaves of the Lease Manager (R85, R156). -/

namespace Sys2Proof.Machine

open Device

/-! ## Examinations -/

/-- An examination leaves the leases, the claims and the controller; at most it grants a pulse permit (R126). -/
structure Examined (d e : Device) : Prop where
  leases    : e.lease.leases = d.lease.leases
  claims    : e.lease.claims = d.lease.claims
  mode      : e.mode = d.mode
  committed : d.lease.committed ≤ e.lease.committed

theorem Device.tripIfAsserted_lease (d : Device) (l : Nat) :
    (d.tripIfAsserted l).lease = d.lease ∧ (d.tripIfAsserted l).mode = d.mode := by
  unfold tripIfAsserted
  split
  · split <;> exact ⟨rfl, rfl⟩
  · exact ⟨rfl, rfl⟩

namespace Examined

variable {d e f : Device}

theorem refl (d : Device) : Examined d d := ⟨rfl, rfl, rfl, le_rfl⟩

theorem trans (h : Examined d e) (g : Examined e f) : Examined d f :=
  ⟨g.leases.trans h.leases, g.claims.trans h.claims, g.mode.trans h.mode, h.committed.trans g.committed⟩

/-- A handling that leaves the Lease Manager and the controller. -/
theorem of_eq (hl : e.lease = d.lease) (hm : e.mode = d.mode) : Examined d e :=
  ⟨by rw [hl], by rw [hl], hm, by rw [hl]⟩

theorem transition {i : Nat} {t : TermId} {c : Cause} (h : d.transition i t c = some e) : Examined d e := by
  obtain ⟨r, st, -, -, -, rfl, -⟩ := Sound.transition_rec h
  exact of_eq rfl rfl

theorem post (d : Device) (i : Nat) (t : TermId) (c : Cmd) : Examined d (d.post i t c) := of_eq (post_lease ..) (post_mode ..)

theorem grantPermit (d : Device) : Examined d d.grantPermit := ⟨rfl, rfl, rfl, Nat.le_add_right _ _⟩

theorem orderPulse (d : Device) (l : Nat) (o : Claimant) : Examined d (d.orderPulse l o) := by
  unfold Device.orderPulse
  split
  · split
    · obtain ⟨hl, hm⟩ := tripIfAsserted_lease (d.modLine l fun x => { x with switch := .pulse d.settings.pulseLength o }) l
      exact of_eq hl hm
    · exact refl d
  · exact refl d

theorem judgeEviction (d : Device) (k : Nat) : Examined d (d.judgeEviction k) := by
  unfold Device.judgeEviction
  split
  · exact refl d
  · split
    · exact (post _ _ _ _).trans (of_eq rfl rfl)
    · exact refl d

theorem startTransition {w : WakeEntry} {n : Nat} (h : d.startTransition w n = some e) : Examined d e := by
  unfold Device.startTransition at h
  split at h
  · obtain ⟨g, hg, rfl⟩ := Option.map_eq_some_iff.1 h
    exact (transition hg).trans (of_eq rfl rfl)
  · exact Option.some_inj.1 h ▸ refl d

theorem startAttempt (d : Device) (w : WakeEntry) (v : HeadView) (n : Nat) : Examined d (d.startAttempt w v n) := by
  have hset : ∀ (g : Device) (a : Attempt), Examined g (((g.reserveSlot n w.target.claimant).dropEntry w).setAttempt a) :=
    fun g a => of_eq (by rw [setAttempt_lease, dropEntry_lease, reserveSlot_lease])
      (by rw [setAttempt_mode, dropEntry_mode, reserveSlot_mode])
  have hpermit : Examined d (if v.method = .pulse then d.grantPermit else d) := by
    split
    · exact grantPermit d
    · exact refl d
  unfold Device.startAttempt
  generalize (if v.method = .pulse then d.grantPermit else d) = g at hpermit ⊢
  dsimp only
  split
  · exact (hpermit.trans (hset _ _)).trans (orderPulse _ _ _)
  · exact hpermit.trans (hset _ _)

theorem examineLoop : ∀ (k : Nat) (d : Device), Examined d (d.examineLoop k)
  | 0, d => refl d
  | k + 1, d => by
    have hdrop : ∀ w, Examined d ((d.dropEntry w).examineLoop k) := fun w =>
      (of_eq rfl rfl : Examined d (d.dropEntry w)).trans (examineLoop k _)
    unfold Device.examineLoop
    split
    · exact refl d
    split
    · exact refl d
    split
    · exact hdrop _
    split
    · exact refl d
    split
    · exact refl d
    split
    · exact judgeEviction d _
    split
    · exact refl d
    split
    · exact hdrop _
    · rename_i h
      exact (startTransition h).trans (startAttempt _ _ _ _)

theorem examineWake (d : Device) : Examined d d.examineWake := examineLoop _ d

theorem requestEntry (d : Device) (i : Nat) (t : TermId) (p : Purpose) : Examined d (d.requestEntry i t p) := by
  have hjoin : Examined d (d.joinEntry i t p) := by
    unfold joinEntry
    split
    · exact of_eq rfl rfl
    · exact refl d
  unfold Device.requestEntry headCheck
  split
  · exact hjoin
  · exact hjoin.trans (examineWake _)

theorem startTest (d : Device) (w : AgendaEntry) (c : Nat) : Examined d (d.startTest w c) := by
  unfold Device.startTest
  split
  · exact refl d
  · rename_i h
    refine ((transition h).trans ?_).trans (post _ _ _ _)
    exact of_eq (by rw [removeAgenda_lease, putChannel_lease]) (by rw [removeAgenda_mode, putChannel_mode])

theorem walkEntry (d : Device) (w : AgendaEntry) : Examined d (d.walkEntry w) := by
  unfold Device.walkEntry
  split
  · split
    · exact startTest _ _ _
    · exact refl d
  · exact refl d

theorem testWake (d : Device) : Examined d d.testWake := by
  unfold Device.testWake
  split
  · split
    · split
      · exact refl d
      · rename_i w _ _
        exact (of_eq rfl rfl : Examined d (d.setInHand w.index w.id)).trans (requestEntry _ _ _ _)
    · exact refl d
  · exact refl d

theorem walk : ∀ (es : List AgendaEntry) (d : Device), Examined d (es.foldl Device.walkEntry d)
  | [], d => refl d
  | w :: es, d => (walkEntry d w).trans (walk es _)

theorem examineAgenda (d : Device) : Examined d d.examineAgenda := by
  unfold Device.examineAgenda
  split
  · exact refl d
  · exact (walk _ d).trans (testWake _)

theorem examineIfGranted (d : Device) (cs : List ClaimEntry) : Examined d (d.examineIfGranted cs) := by
  unfold Device.examineIfGranted
  split
  · exact examineAgenda d
  · exact refl d

/-- What a service leaves is what its grants leave, but for a permit. -/
theorem serve (d : Device) : Examined (d.serveLoop d.lease.claims.length) d.serve :=
  (examineWake _).trans (examineIfGranted _ _)

end Examined

/-! ## The service of the claim queue -/

namespace Device

variable {d : Device}

/-- A grant takes the claims of its record out of the queue, whether the Roster takes it or not (R112). -/
theorem grant_claims (d : Device) (i : Nat) (t : TermId) (k : Nat) :
    (d.grant i t k).lease.claims = d.lease.claims.filter fun c => c.index != i := by
  have hsoft : ∀ (e : Device) (l : Nat), (e.orderSoftstart l).lease = e.lease := by
    intro e l
    unfold orderSoftstart
    split
    · split
      · exact (tripIfAsserted_lease _ l).1
      · rfl
    · rfl
  have hline : ∀ e : Device, (e.onLineOf i orderSoftstart).lease = e.lease := by
    intro e
    unfold onLineOf
    split
    · exact hsoft e _
    · rfl
  unfold grant
  split
  · rfl
  · rename_i h
    obtain ⟨r, st, -, -, -, rfl, -⟩ := Sound.transition_rec h
    simp only [post_lease, hline]
    rfl

/-- The head of the claim queue judged against the headroom (R118). -/
def judgeHead (d : Device) : Device := match d.lease.claims with
  | c :: _ => if c.steps ≤ d.mode.ceiling - d.lease.committed then d.grant c.index c.id c.steps else d
  | [] => d

/-- A service is the head judged again and again. -/
theorem serveLoop_eq : ∀ (k : Nat) (d : Device), d.serveLoop k = judgeHead^[k] d
  | 0, _ => rfl
  | k + 1, d => by
    have hstop : d.judgeHead = d → d = judgeHead^[k + 1] d := fun h => (Function.iterate_fixed h (k + 1)).symm
    unfold serveLoop
    split
    · rename_i h
      exact hstop (by rw [judgeHead, h])
    · rename_i c cs h
      by_cases hc : c.steps ≤ d.headroom
      · have hj : d.judgeHead = d.grant c.index c.id c.steps := by
          unfold judgeHead
          rw [h]
          exact if_pos hc
        rw [if_pos hc, Function.iterate_succ_apply, hj, serveLoop_eq k]
      · rw [if_neg hc]
        refine hstop ?_
        unfold judgeHead
        rw [h]
        exact if_neg hc

/-- With a grant for every claim to spare, the service leaves no head that fits. -/
theorem serveLoop_unfit : ∀ (k : Nat) (d : Device), d.lease.claims.length ≤ k →
    ∀ c, (d.serveLoop k).lease.claims.head? = some c → (d.serveLoop k).headroom < c.steps
  | 0, d, hk, c, hc => by
    have hnil : d.lease.claims = [] := List.length_eq_zero_iff.1 (Nat.le_zero.1 hk)
    rw [serveLoop, hnil] at hc
    cases hc
  | k + 1, d, hk, c, hc => by
    unfold serveLoop at hc ⊢
    split at hc
    · rename_i h
      rw [h] at hc
      cases hc
    · rename_i x xs h
      by_cases hx : x.steps ≤ d.headroom
      · have hlen : (d.grant x.index x.id x.steps).lease.claims.length ≤ k := by
          rw [grant_claims, h, List.filter_cons_of_neg (by simp)]
          rw [h, List.length_cons] at hk
          exact (List.length_filter_le _ _).trans (by omega)
        rw [if_pos hx] at hc ⊢
        exact serveLoop_unfit k _ hlen c hc
      · rw [if_neg hx] at hc ⊢
        rw [h] at hc
        obtain rfl := Option.some_inj.1 hc
        omega

theorem serve_head_unfit {c : ClaimEntry} (h : d.serve.lease.claims.head? = some c) : d.serve.headroom < c.steps := by
  have hs := Examined.serve d
  rw [hs.claims] at h
  have hloop := serveLoop_unfit _ d le_rfl c h
  have hc := hs.committed
  unfold headroom at hloop ⊢
  rw [hs.mode]
  omega

theorem serve_eq (d : Device) : d.serve = ((judgeHead^[d.lease.claims.length] d).examineWake).examineIfGranted d.lease.claims := by
  rw [← serveLoop_eq]
  rfl

end Device
end Sys2Proof.Machine
end

section
/-! Shedding (R127): what lease ends and deferrals leave, and which leases the fit step cuts. -/

namespace Sys2Proof.Machine

open Device

/-! ## Posts -/

/-- A post leaves the command in the holder's queue, in place of one of its kind or at the tail (R61 to R63). -/
theorem Holder.mem_post (h : Holder) (c : Cmd) : ∃ e ∈ (h.post c).queue, e.cmd = c := by
  unfold Holder.post
  split
  · rename_i hk
    obtain ⟨e, he, hc⟩ := List.any_eq_true.1 hk
    refine ⟨_, List.mem_map_of_mem he, ?_⟩
    rw [if_pos (by simpa using hc)]
  · exact ⟨_, List.mem_append_right _ (List.mem_singleton.2 rfl), rfl⟩

theorem Holder.post_names (h : Holder) (c : Cmd) : (h.post c).index = h.index ∧ (h.post c).id = h.id := by
  unfold Holder.post
  split <;> exact ⟨rfl, rfl⟩

namespace Device

variable {d e : Device} {i j n : Nat} {t u : TermId} {c : Cmd}

theorem heldSlot_congr (h : e.riser = d.riser) (i : Nat) (t : TermId) : e.heldSlot i t = d.heldSlot i t := by
  unfold heldSlot
  rw [h]

theorem slot?_congr (h : e.riser = d.riser) (n : Nat) : e.slot? n = d.slot? n := by
  unfold slot?
  rw [h]

theorem post_riser_congr (h : e.riser = d.riser) (i : Nat) (t : TermId) (c : Cmd) :
    (e.post i t c).riser = (d.post i t c).riser := by
  unfold post
  rw [heldSlot_congr h]
  split
  · unfold modHolder modSlot
    split
    · exact h
    · simp only [h]
  · exact h

/-- A post takes no slot and gives none. -/
theorem heldSlot_post (d : Device) (j : Nat) (u : TermId) (c : Cmd) (i : Nat) (t : TermId) :
    (d.post j u c).heldSlot i t = d.heldSlot i t := by
  unfold post
  split
  · refine heldSlot_modSlot fun s => ?_
    obtain ⟨_, use⟩ := s
    cases use with
    | held h =>
      obtain ⟨hi, ht⟩ := h.post_names c
      simp [Slot.heldBy, hi, ht]
    | _ => rfl
  · rfl

theorem post_queued (h : d.heldSlot i t = some n) : (d.post i t c).queued n c := by
  obtain ⟨⟨⟨hold, use⟩, g, hs, hu, _⟩, _⟩ := heldSlot_some_iff.1 h
  simp only at hu
  subst hu
  obtain ⟨e, he, hc⟩ := g.mem_post c
  refine ⟨hold, g.post c, e, ?_, he, hc⟩
  unfold post
  simp only [h, modHolder, slot?_modSlot, if_true, hs, Option.map_some]

/-- A post to another record leaves the queue of a slot. -/
theorem slot?_post_other (h : d.heldSlot i t = some n) (hij : j ≠ i) : (d.post j u c).slot? n = d.slot? n := by
  unfold post
  split
  · rename_i m hm
    obtain ⟨⟨x, g, hx, hg, hgi, _⟩, _⟩ := heldSlot_some_iff.1 h
    obtain ⟨⟨y, k, hy, hk, hkj, _⟩, _⟩ := heldSlot_some_iff.1 hm
    have hne : m ≠ n := by
      rintro rfl
      rw [hx] at hy
      obtain rfl := Option.some_inj.1 hy
      rw [hg] at hk
      obtain rfl := SlotUse.held.inj hk
      exact hij (hkj.symm.trans hgi)
    exact (slot?_modSlot d m n _).trans (if_neg hne)
  · rfl

/-- A command posted to records one after another. -/
def postAll {α : Type} (d : Device) (c : Cmd) (index : α → Nat) (id : α → TermId) (as : List α) : Device :=
  as.foldl (fun d a => d.post (index a) (id a) c) d

theorem postAll_cons {α : Type} (index : α → Nat) (id : α → TermId) (a : α) (as : List α) :
    d.postAll c index id (a :: as) = (d.post (index a) (id a) c).postAll c index id as := rfl

theorem postAll_other {α : Type} {index : α → Nat} {id : α → TermId} {as : List α} (h : d.heldSlot i t = some n)
    (ha : ∀ a ∈ as, index a ≠ i) : (d.postAll c index id as).slot? n = d.slot? n := by
  induction as generalizing d with
  | nil => rfl
  | cons a as ih =>
    rw [postAll_cons, ih ((heldSlot_post ..).trans h) fun b hb => ha b (List.mem_cons_of_mem _ hb)]
    exact slot?_post_other h (ha a List.mem_cons_self)

/-- Where the records are different ones, each has the command in its queue. -/
theorem postAll_queued {α : Type} {index : α → Nat} {id : α → TermId} {as : List α} {a : α} (hn : (as.map index).Nodup)
    (ha : a ∈ as) (h : d.heldSlot (index a) (id a) = some n) : (d.postAll c index id as).queued n c := by
  induction as generalizing d with
  | nil => cases ha
  | cons b as ih =>
    rw [List.map_cons, List.nodup_cons] at hn
    obtain ⟨hb, hn⟩ := hn
    have h' : (d.post (index b) (id b) c).heldSlot (index a) (id a) = some n := (heldSlot_post ..).trans h
    rw [postAll_cons]
    rcases List.mem_cons.1 ha with rfl | ha
    · obtain ⟨hold, g, e, hs, hq⟩ := post_queued (c := c) h
      have hothers : ∀ x ∈ as, index x ≠ index a := fun x hx hxa => hb (List.mem_map.2 ⟨x, hx, hxa⟩)
      exact ⟨hold, g, e, (postAll_other h' hothers).trans hs, hq⟩
    · exact ih hn ha h'

end Device

/-! ## Dismissals: what step 2 and step 3 of shedding share -/

/-- A handling that takes the entries of the barred ones out, one after another, and posts a command to each. -/
structure Dismisses {α : Type} (f : Device → α → Device) (c : Cmd) (index : α → Nat) (id : α → TermId) (bars : Level → α → Bool) :
    Prop where
  mode : ∀ d a, (f d a).mode = d.mode
  skip : ∀ d a, bars d.mode.level a = false → f d a = d
  post : ∀ d a, bars d.mode.level a = true → (f d a).riser = (d.post (index a) (id a) c).riser

namespace Dismisses

variable {α : Type} {f : Device → α → Device} {c : Cmd} {index : α → Nat} {id : α → TermId} {bars : Level → α → Bool}

theorem mode_foldl (h : Dismisses f c index id bars) : ∀ (as : List α) (d : Device), (as.foldl f d).mode = d.mode
  | [], _ => rfl
  | a :: as, d => (mode_foldl h as (f d a)).trans (h.mode d a)

theorem riser_foldl (h : Dismisses f c index id bars) : ∀ (as : List α) (d e : Device), e.riser = d.riser →
    (as.foldl f e).riser = (d.postAll c index id (as.filter (bars e.mode.level))).riser
  | [], _, _, hr => hr
  | a :: as, d, e, hr => by
    rw [List.foldl_cons, List.filter_cons]
    cases hb : bars e.mode.level a
    · rw [h.skip e a hb]
      exact riser_foldl h as d e hr
    · have hstep : (f e a).riser = (d.post (index a) (id a) c).riser := (h.post e a hb).trans (post_riser_congr hr ..)
      refine (riser_foldl h as _ _ hstep).trans ?_
      rw [h.mode]
      rfl

theorem queued_foldl (h : Dismisses f c index id bars) {as : List α} {d : Device} {a : α} {n : Nat}
    (hn : (as.map index).Nodup) (ha : a ∈ as) (hb : bars d.mode.level a = true)
    (hs : d.heldSlot (index a) (id a) = some n) : (as.foldl f d).queued n c := by
  have hn' : ((as.filter (bars d.mode.level)).map index).Nodup := hn.sublist (List.filter_sublist.map index)
  obtain ⟨hold, g, e, hslot, hq⟩ := postAll_queued (c := c) hn' (List.mem_filter.2 ⟨ha, hb⟩) hs
  exact ⟨hold, g, e, (slot?_congr (h.riser_foldl as d d rfl) n).trans hslot, hq⟩

/-- A table of the device that each dismissal takes the entries of its index out of. -/
theorem table_foldl (h : Dismisses f c index id bars) {β : Type} (table : Device → List β) (at_ : β → Nat)
    (ht : ∀ d a, bars d.mode.level a = true → table (f d a) = (table d).filter fun b => at_ b != index a) :
    ∀ (as : List α) (d : Device), table (as.foldl f d) =
      (table d).filter fun b => as.all fun a => !bars d.mode.level a || at_ b != index a
  | [], d => by simp
  | a :: as, d => by
    rw [List.foldl_cons, table_foldl h table at_ ht as, h.mode]
    cases hb : bars d.mode.level a
    · rw [h.skip d a hb]
      simp [hb]
    · rw [ht d a hb, List.filter_filter]
      refine List.filter_congr fun b _ => ?_
      simp [hb, Bool.and_comm]

/-- Where no two entries share an index, the barred ones go and the others stay. -/
theorem barred_filter {as : List α} (hn : (as.map index).Nodup) (p : α → Bool) :
    (as.filter fun b => as.all fun a => !p a || index b != index a) = as.filter fun b => !p b := by
  refine List.filter_congr fun b hb => ?_
  rw [Bool.eq_iff_iff, List.all_eq_true]
  constructor
  · intro h
    simpa using h b hb
  · intro h a ha
    cases hp : p a
    · rfl
    · have hab : b ≠ a := by
        rintro rfl
        rw [hp] at h
        cases h
      simpa using fun hi => hab (List.inj_on_of_nodup_map hn hb ha hi)

end Dismisses
end Sys2Proof.Machine
end

section
/-! Shedding (R127) step by step, and the obligation on it. -/

namespace Sys2Proof.Machine

open Device

namespace Device

variable {d : Device}

/-! ## Steps 2 and 3: leases and claims of barred classes -/

theorem leaseEndRecord_parts (d : Device) (i : Nat) (t : TermId) : (d.leaseEndRecord i t).lease = d.lease
    ∧ (d.leaseEndRecord i t).mode = d.mode ∧ (d.leaseEndRecord i t).riser = d.riser := by
  unfold leaseEndRecord request
  split
  · rcases h : d.transition i t .leaseEnded with _ | e
    · exact ⟨rfl, rfl, rfl⟩
    · obtain ⟨r, st, -, -, -, rfl, -⟩ := Sound.transition_rec h
      exact ⟨rfl, rfl, rfl⟩
  · exact ⟨rfl, rfl, rfl⟩

theorem onLineOf_orderOff_parts (d : Device) (i : Nat) : (d.onLineOf i orderOff).lease = d.lease
    ∧ (d.onLineOf i orderOff).mode = d.mode ∧ (d.onLineOf i orderOff).riser = d.riser := by
  unfold onLineOf
  split <;> exact ⟨rfl, rfl, rfl⟩

/-- Steps 1 to 4 of a lease end, but for the CUT (R124). -/
theorem endLeaseQuiet_post (d : Device) (y : Lease) {w : LeaseEnd} {c : CutReason} (hw : w.cut = some c) :
    ∃ g : Device, d.endLeaseQuiet y w = g.post y.index y.id (.cut c) ∧ g.lease = (d.removeLease y).lease ∧ g.mode = d.mode
      ∧ g.riser = d.riser := by
  have hline : ∀ e : Device, e.lease = (d.removeLease y).lease ∧ e.mode = d.mode ∧ e.riser = d.riser →
      (e.leaseEndRecord y.index y.id).lease = (d.removeLease y).lease ∧ (e.leaseEndRecord y.index y.id).mode = d.mode
      ∧ (e.leaseEndRecord y.index y.id).riser = d.riser := by
    rintro e ⟨hl, hm, hr⟩
    obtain ⟨hl', hm', hr'⟩ := leaseEndRecord_parts e y.index y.id
    exact ⟨hl'.trans hl, hm'.trans hm, hr'.trans hr⟩
  unfold endLeaseQuiet
  simp only [hw]
  refine ⟨_, rfl, hline _ ?_⟩
  split
  · exact onLineOf_orderOff_parts (d.removeLease y) y.index
  · exact ⟨rfl, rfl, rfl⟩

theorem endLeaseQuiet_shed (d : Device) (y : Lease) : (d.endLeaseQuiet y .shed).lease = (d.removeLease y).lease
    ∧ (d.endLeaseQuiet y .shed).mode = d.mode
    ∧ (d.endLeaseQuiet y .shed).riser = (d.post y.index y.id (.cut .shed)).riser := by
  obtain ⟨g, hg, hl, hm, hr⟩ := endLeaseQuiet_post d y (w := .shed) rfl
  rw [hg, post_lease, post_mode]
  exact ⟨hl, hm, post_riser_congr hr ..⟩

end Device

theorem dismisses_leases : Dismisses (fun (d : Device) (y : Lease) => if d.mode.level.bars y.cls then d.endLeaseQuiet y .shed else d)
    (.cut .shed) Lease.index Lease.id fun l y => l.bars y.cls where
  mode d y := by
    split
    · exact (endLeaseQuiet_shed d y).2.1
    · rfl
  skip d y h := by rw [h, if_neg Bool.false_ne_true]
  post d y h := by
    rw [h, if_pos rfl]
    exact (endLeaseQuiet_shed d y).2.2

theorem dismisses_claims : Dismisses
    (fun (d : Device) (c : ClaimEntry) => if d.mode.level.bars c.cls then d.deferClaim c .classBarred else d)
    (.defer .classBarred) ClaimEntry.index ClaimEntry.id fun l c => l.bars c.cls where
  mode d c := by
    split
    · exact post_mode ..
    · rfl
  skip d c h := by rw [h, if_neg Bool.false_ne_true]
  post d c h := by
    rw [h, if_pos rfl]
    exact post_riser_congr (removeClaim_riser d c.index) ..

namespace Device

variable {d : Device}

theorem shedLeases_leases (d : Device) : d.shedLeases.lease.leases =
    d.lease.leases.filter fun y => d.lease.leases.all fun z => !d.mode.level.bars z.cls || y.index != z.index :=
  dismisses_leases.table_foldl (fun d => d.lease.leases) Lease.index (fun d y h => by
    rw [h, if_pos rfl, (endLeaseQuiet_shed d y).1]
    rfl) _ d

theorem shedClaims_claims (d : Device) : d.shedClaims.lease.claims =
    d.lease.claims.filter fun x => d.lease.claims.all fun z => !d.mode.level.bars z.cls || x.index != z.index :=
  dismisses_claims.table_foldl (fun d => d.lease.claims) ClaimEntry.index (fun d c h => by
    rw [h, if_pos rfl, deferClaim, post_lease]
    rfl) _ d

theorem shedLeases_claims (d : Device) : d.shedLeases.lease.claims = d.lease.claims := by
  unfold shedLeases
  generalize d.lease.leases = ys
  induction ys generalizing d with
  | nil => rfl
  | cons y ys ih =>
    rw [List.foldl_cons, ih]
    split
    · rw [(endLeaseQuiet_shed d y).1]
      rfl
    · rfl

theorem shedLeases_mode (d : Device) : d.shedLeases.mode = d.mode := dismisses_leases.mode_foldl _ d

/-! ## Step 4: the fit -/

end Device

theorem Lease.cutBefore_iff (a b : Lease) : a.cutBefore b = true ↔ b.cls.rank < a.cls.rank
    ∨ (b.cls.rank = a.cls.rank ∧ (b.order < a.order ∨ (b.order = a.order ∧ b.index < a.index))) := by
  unfold Lease.cutBefore
  split
  · simp
    omega
  · split
    · simp
      omega
    · simp
      omega

/-- No lease of these is cut before this one. -/
theorem pick_last (ys : List Lease) (b : Lease) : ∃ y, ys.foldl (fun best l => match best with
      | some b => if l.cutBefore b then some l else some b
      | none => some l) (some b) = some y ∧ y ∈ b :: ys ∧ ∀ z ∈ b :: ys, z.cutBefore y = false := by
  induction ys generalizing b with
  | nil =>
    refine ⟨b, rfl, List.mem_singleton.2 rfl, fun z hz => ?_⟩
    obtain rfl := List.mem_singleton.1 hz
    rw [← Bool.not_eq_true, Lease.cutBefore_iff]
    omega
  | cons x ys ih =>
    by_cases hx : x.cutBefore b = true
    · obtain ⟨y, hy, hmem, hlast⟩ := ih x
      refine ⟨y, by simpa [hx] using hy, List.mem_cons_of_mem _ hmem, fun z hz => ?_⟩
      rcases List.mem_cons.1 hz with rfl | hz
      · have hxy := hlast x List.mem_cons_self
        rw [← Bool.not_eq_true, Lease.cutBefore_iff] at hxy ⊢
        rw [Lease.cutBefore_iff] at hx
        omega
      · exact hlast z hz
    · obtain ⟨y, hy, hmem, hlast⟩ := ih b
      have hsub : ∀ z, z ∈ b :: ys → z ∈ b :: x :: ys := fun z hz => by
        rcases List.mem_cons.1 hz with rfl | hz
        · exact List.mem_cons_self
        · exact List.mem_cons_of_mem _ (List.mem_cons_of_mem _ hz)
      refine ⟨y, by simpa [hx] using hy, hsub y hmem, fun z hz => ?_⟩
      rcases List.mem_cons.1 hz with rfl | hz
      · exact hlast z List.mem_cons_self
      rcases List.mem_cons.1 hz with rfl | hz
      · have hby := hlast b List.mem_cons_self
        rw [← Bool.not_eq_true, Lease.cutBefore_iff] at hby ⊢
        rw [Lease.cutBefore_iff] at hx
        omega
      · exact hlast z (List.mem_cons_of_mem _ hz)

namespace Device

variable {d : Device}

theorem nextCut_none (h : d.lease.leases = []) : d.nextCut = none := by
  unfold nextCut
  rw [h]
  rfl

theorem nextCut_some (h : d.lease.leases ≠ []) : ∃ y, d.nextCut = some y ∧ y ∈ d.lease.leases
    ∧ ∀ z ∈ d.lease.leases, z.cutBefore y = false := by
  obtain ⟨b, ys, hys⟩ := List.exists_cons_of_ne_nil h
  obtain ⟨y, hy, hmem, hlast⟩ := pick_last ys b
  unfold nextCut
  rw [hys]
  exact ⟨y, hy, hmem, hlast⟩

theorem fitLoop_fits (h : d.lease.committed ≤ d.mode.ceiling ∨ d.lease.leases = []) (k : Nat) : d.fitLoop k = d := by
  cases k with
  | zero => rfl
  | succ k =>
    unfold fitLoop
    rcases h with h | h
    · rw [if_neg (by omega)]
    · rw [nextCut_none h, ite_self]

theorem fitLoop_cuts {y : Lease} (h : d.mode.ceiling < d.lease.committed) (hy : d.nextCut = some y) (k : Nat) :
    d.fitLoop (k + 1) = (d.endLeaseQuiet y .shed).fitLoop k := by
  rw [fitLoop, if_pos h, hy]

/-- The fit makes no lease and touches no claim. -/
theorem fitLoop_parts : ∀ (k : Nat) (d : Device), (∀ y ∈ (d.fitLoop k).lease.leases, y ∈ d.lease.leases)
    ∧ (d.fitLoop k).lease.claims = d.lease.claims
  | 0, _ => ⟨fun _ h => h, rfl⟩
  | k + 1, d => by
    unfold fitLoop
    split
    · split
      · rename_i x _
        obtain ⟨hy, hc⟩ := fitLoop_parts k (d.endLeaseQuiet x .shed)
        rw [(endLeaseQuiet_shed d x).1] at hy hc
        exact ⟨fun y h => (List.mem_filter.1 (hy y h)).1, hc⟩
      · exact ⟨fun _ h => h, rfl⟩
    · exact ⟨fun _ h => h, rfl⟩

/-! ## Step 1: the permit -/

/-- The device without its permit and the permit's steps. -/
def withoutPermit (d : Device) (k : Nat) : Device :=
  { d with lease := { d.lease with permit := none, committed := d.lease.committed - k } }

theorem shedPermit_none (h : d.lease.permit = none) : d.shedPermit = d := by
  unfold shedPermit
  rw [h]

theorem shedPermit_some {k : Nat} (h : d.lease.permit = some k) : d.shedPermit = (d.withoutPermit k).abandonReturned := by
  unfold shedPermit clearPermit
  rw [h]
  rfl

/-- The attempt's slot free, the attempt gone and its target back in the queue as returned (R91). -/
def returnTo (d : Device) (a : Attempt) : Device :=
  { d.freeSlot a.slot with wake := { (d.freeSlot a.slot).wake with
    queue := (d.freeSlot a.slot).wake.queue ++ [⟨a.target, (d.freeSlot a.slot).wake.arrival, true⟩]
    arrival := min ((d.freeSlot a.slot).wake.arrival + 1) 0xFFFFFFFF
    attempt := none } }

theorem abandonReturned_discovery {a : Attempt} {l : Nat} (ha : d.wake.attempt = some a) (hp : a.permit = true)
    (ht : a.target = .discovery l) : d.abandonReturned = (d.orderOff l).returnTo a := by
  unfold abandonReturned
  simp only [ha, hp, ht, if_true, targetLine]
  unfold returnTo
  rw [ht]
  rfl

theorem freeSlot_modRec (d : Device) (i n : Nat) (f : Record → Record) : (d.modRec i f).freeSlot n = (d.freeSlot n).modRec i f := by
  unfold freeSlot modSlot
  split <;> rfl

theorem abandonReturned_record {a : Attempt} {i : Nat} {t : TermId} {p : Purpose} {r : Record} (ha : d.wake.attempt = some a)
    (hp : a.permit = true) (ht : a.target = .record i t p) (hr : d.rec? i = some r) (hid : r.id = t) (hs : r.state = .waking) :
    d.abandonReturned = (((match r.line with
      | some l => d.orderOff l
      | none => d).modRec i fun r => r.enter .attemptAbandoned .dormant).returnTo a) := by
  have hline : d.lineOf i = r.line := lineOf_eq hr
  unfold abandonReturned
  simp only [ha, hp, ht, if_true, targetLine, hline]
  have hback : ∀ e : Device, e.rec? i = some r → (match (e.freeSlot a.slot).clearAttempt.transition i t .attemptAbandoned with
      | some d' => d'.joinWake (.record i t p) true
      | none => (e.freeSlot a.slot).clearAttempt) = (e.modRec i fun r => r.enter .attemptAbandoned .dormant).returnTo a := by
    intro e he
    have he' : (e.freeSlot a.slot).clearAttempt.rec? i = some r := by
      unfold rec? at he ⊢
      rw [clearAttempt_roster, freeSlot_roster, he]
    rw [transition_taken he' hid (show Cause.target .attemptAbandoned r.state = some .dormant by rw [hs]; rfl)]
    unfold returnTo
    rw [freeSlot_modRec, ht]
    rfl
  cases r.line with
  | none => exact hback d hr
  | some l => exact hback (d.orderOff l) hr

theorem abandonReturned_parts (d : Device) : d.abandonReturned.lease = d.lease ∧ d.abandonReturned.mode = d.mode := by
  have hfree : ∀ (e : Device) (n : Nat), e.lease = d.lease → e.mode = d.mode →
      (e.freeSlot n).clearAttempt.lease = d.lease ∧ (e.freeSlot n).clearAttempt.mode = d.mode := by
    intro e n hl hm
    rw [clearAttempt_lease, freeSlot_lease, clearAttempt_mode, freeSlot_mode]
    exact ⟨hl, hm⟩
  unfold abandonReturned
  split
  · rename_i a _
    split
    · have hoff : ((match d.targetLine a.target with
          | some l => d.orderOff l
          | none => d).freeSlot a.slot).clearAttempt.lease = d.lease ∧ ((match d.targetLine a.target with
          | some l => d.orderOff l
          | none => d).freeSlot a.slot).clearAttempt.mode = d.mode := by
        split <;> exact hfree _ _ rfl rfl
      dsimp only
      split
      · split
        · rename_i h
          obtain ⟨r, st, -, -, -, rfl, -⟩ := Sound.transition_rec h
          exact hoff
        · exact hoff
      · exact hoff
    · exact ⟨rfl, rfl⟩
  · exact ⟨rfl, rfl⟩

theorem shedPermit_parts (d : Device) : d.shedPermit.lease.leases = d.lease.leases
    ∧ d.shedPermit.lease.claims = d.lease.claims ∧ d.shedPermit.mode = d.mode := by
  rcases h : d.lease.permit with _ | k
  · rw [shedPermit_none h]
    exact ⟨rfl, rfl, rfl⟩
  · obtain ⟨hl, hm⟩ := abandonReturned_parts (d.withoutPermit k)
    rw [shedPermit_some h, hl, hm]
    exact ⟨rfl, rfl, rfl⟩

/-! ## Shedding whole -/

/-- With no claim queued, shedding leaves only leases that were there, of classes that the level does not bar. -/
theorem shed_leases {y : Lease} (hc : d.lease.claims = []) (hy : y ∈ d.shed.lease.leases) :
    y ∈ d.lease.leases ∧ d.mode.level.bars y.cls = false := by
  obtain ⟨hpl, hpc, hpm⟩ := shedPermit_parts d
  have hclaims : d.shedPermit.shedLeases.lease.claims = [] := by rw [shedLeases_claims, hpc, hc]
  have hsc : d.shedPermit.shedLeases.shedClaims = d.shedPermit.shedLeases := by
    unfold shedClaims
    rw [hclaims]
    rfl
  unfold shed at hy
  simp only [hsc] at hy
  obtain ⟨hfit, hfc⟩ := fitLoop_parts d.shedPermit.shedLeases.lease.leases.length d.shedPermit.shedLeases
  rw [(Examined.serve _).leases, serveLoop_none _ (hfc.trans hclaims)] at hy
  have hleft := hfit y hy
  rw [shedLeases_leases, hpl, hpm, List.mem_filter, List.all_eq_true] at hleft
  obtain ⟨hmem, hall⟩ := hleft
  exact ⟨hmem, by simpa using hall y hmem⟩

end Device

/-- Settles O39: the service by `judgeHead`, shedding by its four steps. -/
theorem serviceAndShedding : Obligations.ServiceAndShedding := by
  unfold Obligations.ServiceAndShedding
  refine ⟨fun d => ?_, fun d c hc => serve_head_unfit hc, fun d => ⟨rfl, rfl, rfl, rfl⟩, fun d y hc hy => ?_, fun d => rfl,
    fun d => ⟨shedPermit_none, fun k a hk ha hp => ?_⟩, fun d => ?_, fun d k => ?_, fun d y why hy => ?_⟩
  · intro judged e
    have hjudged : judged = judgeHead := by
      funext x
      unfold judgeHead
      rfl
    have he : e = (judgeHead^[d.lease.claims.length] d).examineWake := by rw [← hjudged]
    have hiff : (d.lease.claims.any fun c => e.inAgenda c.index && e.inState c.index .fed) = true ↔
        ∃ c ∈ d.lease.claims, (∃ x ∈ e.test.agenda, x.index = c.index) ∧ (e.rec? c.index).map Record.state = some .fed := by
      simp only [List.any_eq_true, Bool.and_eq_true, inAgenda_iff, inState_iff, Option.map_eq_some_iff]
    rw [serve_eq, ← he]
    exact if_congr hiff rfl rfl
  · obtain ⟨hmem, hbars⟩ := shed_leases hc hy
    refine ⟨hmem, ?_⟩
    cases hl : d.mode.level <;> cases hk : y.cls <;> simp_all [Level.bars]
  · have hoff : ∀ (x : Device) (l : Nat), x.modLine l (fun y => { y with switch := if y.switch = .tripped then .tripped else .off })
        = x.orderOff l := fun x l => (orderOff_eq x l).symm
    intro e off returned
    refine ⟨fun l ht => ?_, fun i t p r ht hr hid hs => ?_⟩
    · rw [shedPermit_some hk, abandonReturned_discovery (d := d.withoutPermit k) ha hp ht, ← hoff]
      rfl
    · rw [shedPermit_some hk, abandonReturned_record (d := d.withoutPermit k) ha hp ht hr hid hs]
      simp only [off, hoff]
      rfl
  · intro barred
    have hbarred : ∀ c, barred c = d.mode.level.bars c := Level.bars_spelt d.mode.level
    simp only [hbarred]
    refine ⟨fun hn => ⟨?_, fun y n hy hb hs => ?_⟩, fun hn => ⟨?_, fun c n hc hb hs => ?_⟩⟩
    · rw [shedLeases_leases]
      exact Dismisses.barred_filter hn fun y => d.mode.level.bars y.cls
    · exact dismisses_leases.queued_foldl hn hy hb hs
    · rw [shedClaims_claims]
      exact Dismisses.barred_filter hn fun c => d.mode.level.bars c.cls
    · exact dismisses_claims.queued_foldl hn hc hb hs
  · refine ⟨fun h => fitLoop_fits h k, fun h => ?_, fun y hlt hy => ?_⟩
    · obtain ⟨y, hy, _⟩ := nextCut_some h
      exact ⟨y, hy⟩
    · have hne : d.lease.leases ≠ [] := fun hnil => by rw [nextCut_none hnil] at hy; cases hy
      obtain ⟨x, hx, hmem, hlast⟩ := nextCut_some hne
      obtain rfl := Option.some_inj.1 (hy.symm.trans hx)
      refine ⟨fitLoop_cuts hlt hy k, hmem, fun z hz => ?_⟩
      have hz' := hlast z hz
      rw [← Bool.not_eq_true, Lease.cutBefore_iff] at hz'
      omega
  · unfold endLease
    rw [hy]

end Sys2Proof.Machine
end

section
/-! The law of the committed sum (R47, R105, R106): what it says of a device, and what each small update does to it. -/

namespace Sys2Proof.Machine

open Device

/-- A state in which a record may hold a lease (R105). -/
def RecState.serves (s : RecState) : Bool := s == .fed || s == .testing

/-- The causes that take a FED or TESTING record out of service, so that a lease of it has to end (table 1-4). -/
def Cause.dismisses : Cause → Bool
  | .trip | .leaseEnded | .secondStrike | .testEndedNoLease | .lost | .restartTeardown => true
  | _ => false

/-- The causes that take a record out of QUARANTINED (table 1-4). -/
def Cause.readmits : Cause → Bool
  | .amendRemovedLine | .reinstate => true
  | _ => false

theorem Cause.target_serves {c : Cause} {s st : RecState} (h : c.target s = some st) (hc : c.dismisses = false)
    (hs : s.serves = true) : st.serves = true := by
  revert h hc hs
  cases c <;> cases s <;> simp only [Cause.target, Cause.dismisses, reduceCtorEq, false_implies, Option.some.injEq,
    Bool.true_eq_false, implies_true] <;> rintro rfl <;> simp [RecState.serves]

theorem Cause.target_quarantined {c : Cause} {st : RecState} (h : c.target .quarantined = some st) : c.readmits = true := by
  revert h
  cases c <;> simp [Cause.target, Cause.readmits]

/-- The record at an index may hold a lease, and has this terminal ID (R105). -/
def Device.serving (d : Device) (i : Nat) (t : TermId) : Bool := match d.rec? i with
  | some r => r.id == t && r.state.serves
  | none => false

theorem Device.serving_iff {d : Device} {i : Nat} {t : TermId} :
    d.serving i t = true ↔ ∃ r, d.rec? i = some r ∧ r.id = t ∧ r.state.serves = true := by
  unfold Device.serving
  cases d.rec? i <;> simp

theorem Device.leaseServed_eq (d : Device) (l : Lease) : d.leaseServed l = d.serving l.index l.id := by
  unfold Device.leaseServed Device.serving
  cases d.rec? l.index with
  | none => rfl
  | some r => rfl

/-- The law of the committed sum but for the ceiling over it; `out`: a record on its way out of service, whose lease is still to
end. -/
structure Books (out : Option Nat) (d : Device) : Prop where
  sum     : d.lease.committed = d.leaseSteps + d.lease.permit.getD 0
  ceiling : d.mode.ceiling = d.settings.ceilingOf d.mode.level
  ordered : d.settings.ordered = true
  nodup   : (d.lease.leases.map Lease.index).Nodup
  served  : ∀ l ∈ d.lease.leases, out ≠ some l.index → d.serving l.index l.id = true

theorem committedOk_iff {d : Device} : d.committedOk ↔ Books none d ∧ d.lease.committed ≤ d.mode.ceiling := by
  have hserved : d.lease.leases.all d.leaseServed = true ↔ ∀ l ∈ d.lease.leases, none ≠ some l.index → d.serving l.index l.id = true := by
    simp [List.all_eq_true, leaseServed_eq]
  constructor
  · rintro ⟨hsum, hle, hceil, hord, hnodup, hs⟩
    exact ⟨⟨hsum, hceil, hord, hnodup, hserved.1 hs⟩, hle⟩
  · rintro ⟨⟨hsum, hceil, hord, hnodup, hs⟩, hle⟩
    exact ⟨hsum, hle, hceil, hord, hnodup, hserved.2 hs⟩

/-- The law but for one record on its way out of service. -/
def Device.lawBut (i : Nat) (d : Device) : Prop := Books (some i) d ∧ d.lease.committed ≤ d.mode.ceiling

namespace Books

variable {o : Option Nat} {d e : Device} {i : Nat} {t : TermId}

theorem weaken (h : Books none d) : Books o d := { h with served := fun l hl _ => h.served l hl (by simp) }

/-- A record without a lease may leave service. -/
theorem strengthen (h : Books (some i) d) (hl : d.leaseOf i = none) : Books none d :=
  { h with served := fun l hm _ => h.served l hm fun he => leaseOf_none_iff.1 hl l hm (Option.some_inj.1 he).symm }

end Books

/-- A handling that leaves the leases, the ceiling, the level and the settings, under which a record in service stays in service and a
QUARANTINED one stays QUARANTINED. -/
structure Steady (d e : Device) : Prop where
  lease    : e.lease = d.lease
  ceiling  : e.mode.ceiling = d.mode.ceiling
  level    : e.mode.level = d.mode.level
  settings : e.settings = d.settings
  records  : ∀ i r, d.rec? i = some r → ∃ q, e.rec? i = some q ∧ q.id = r.id ∧ (r.state.serves = true → q.state.serves = true)
    ∧ (r.state = .quarantined → q.state = .quarantined)

namespace Steady

variable {d e f : Device}

theorem of_same (hl : e.lease = d.lease := by simp) (hc : e.mode.ceiling = d.mode.ceiling := by simp)
    (hv : e.mode.level = d.mode.level := by simp) (hs : e.settings = d.settings := by simp)
    (hr : e.roster.records = d.roster.records := by simp) : Steady d e :=
  ⟨hl, hc, hv, hs, fun i r h => ⟨r, (rec?_congr hr i).trans h, rfl, id, id⟩⟩

theorem refl (d : Device) : Steady d d := of_same rfl rfl rfl rfl rfl

theorem trans (h : Steady d e) (g : Steady e f) : Steady d f where
  lease := g.lease.trans h.lease
  ceiling := g.ceiling.trans h.ceiling
  level := g.level.trans h.level
  settings := g.settings.trans h.settings
  records i r hr := by
    obtain ⟨q, hq, hid, hs, hn⟩ := h.records i r hr
    obtain ⟨p, hp, hid', hs', hn'⟩ := g.records i q hq
    exact ⟨p, hp, hid'.trans hid, hs' ∘ hs, hn' ∘ hn⟩

theorem serving (h : Steady d e) {i : Nat} {t : TermId} (hs : d.serving i t = true) : e.serving i t = true := by
  obtain ⟨r, hr, hid, hsv⟩ := serving_iff.1 hs
  obtain ⟨q, hq, hqid, hqs, -⟩ := h.records i r hr
  exact serving_iff.2 ⟨q, hq, hqid.trans hid, hqs hsv⟩

theorem barred (h : Steady d e) {i : Nat} (hq : d.inState i .quarantined = true) : e.inState i .quarantined = true := by
  obtain ⟨r, hr, hst⟩ := inState_iff.1 hq
  obtain ⟨q, hq, -, -, hqq⟩ := h.records i r hr
  exact inState_iff.2 ⟨q, hq, hqq hst⟩

/-- Every record changed alike, but for its ID and its state. -/
theorem mapRecords {g : Record → Record} (hl : e.lease = d.lease) (hc : e.mode.ceiling = d.mode.ceiling)
    (hv : e.mode.level = d.mode.level) (hs : e.settings = d.settings) (hr : ∀ i, e.rec? i = (d.rec? i).map g)
    (hg : ∀ r, (g r).id = r.id ∧ (g r).state = r.state) : Steady d e := by
  refine ⟨hl, hc, hv, hs, fun i r h => ⟨g r, by rw [hr, h]; rfl, (hg r).1, ?_⟩⟩
  rw [(hg r).2]
  exact ⟨id, id⟩

theorem modRec (d : Device) (i : Nat) (g : Record → Record)
    (hg : ∀ r, (g r).id = r.id ∧ (g r).state = r.state := by exact fun r => ⟨rfl, rfl⟩) : Steady d (d.modRec i g) := by
  refine ⟨rfl, rfl, rfl, rfl, fun j r h => ?_⟩
  by_cases hij : i = j
  · subst hij
    refine ⟨g r, by rw [rec?_modRec_same, h]; rfl, (hg r).1, ?_⟩
    rw [(hg r).2]
    exact ⟨id, id⟩
  · exact ⟨r, (rec?_modRec_other hij g).trans h, rfl, id, id⟩

end Steady

theorem Record.enter_names (r : Record) (c : Cause) (st : RecState) : (r.enter c st).id = r.id ∧ (r.enter c st).state = st := by
  cases st <;> exact ⟨rfl, rfl⟩

/-- What a transition leaves as it is, and that it leaves QUARANTINED by `readmits` alone. -/
theorem transition_barred {d e : Device} {i : Nat} {t : TermId} {c : Cause} (h : d.transition i t c = some e)
    (hq : c.readmits = false) {j : Nat} (hj : d.inState j .quarantined = true) : e.inState j .quarantined = true := by
  obtain ⟨r, st, hr, -, hst, rfl, -⟩ := Sound.transition_rec h
  obtain ⟨q, hq', hqs⟩ := inState_iff.1 hj
  by_cases hij : i = j
  · subst hij
    obtain rfl := Option.some_inj.1 (hr.symm.trans hq')
    rw [hqs] at hst
    rw [Cause.target_quarantined hst] at hq
    cases hq
  · exact inState_iff.2 ⟨q, (rec?_putRec_other hij _).trans hq', hqs⟩

theorem Steady.transition {d e : Device} {i : Nat} {t : TermId} {c : Cause} (h : d.transition i t c = some e)
    (hc : c.dismisses = false := by rfl) (hq : c.readmits = false := by rfl) : Steady d e := by
  have hbarred : ∀ j, d.inState j .quarantined = true → e.inState j .quarantined = true := fun j => transition_barred h hq
  obtain ⟨r, st, hr, -, hst, rfl, hr'⟩ := Sound.transition_rec h
  refine ⟨rfl, rfl, rfl, rfl, fun j q hj => ?_⟩
  by_cases hij : i = j
  · subst hij
    obtain rfl := Option.some_inj.1 (hr.symm.trans hj)
    obtain ⟨hid, hstate⟩ := Record.enter_names r c st
    refine ⟨_, hr', hid, fun hs => ?_, fun hs => ?_⟩
    · rw [hstate]
      exact Cause.target_serves hst hc hs
    · obtain ⟨p, hp, hps⟩ := inState_iff.1 (hbarred i (inState_iff.2 ⟨r, hr, hs⟩))
      rwa [← Option.some_inj.1 (hr'.symm.trans hp)] at hps
  · exact ⟨q, (rec?_putRec_other hij _).trans hj, rfl, id, id⟩

theorem Steady.request (d : Device) (i : Nat) (t : TermId) {c : Cause} (hc : c.dismisses = false := by rfl)
    (hq : c.readmits = false := by rfl) : Steady d (d.request i t c) := by
  unfold Device.request
  rcases h : d.transition i t c with _ | e
  · exact refl d
  · exact transition h hc hq

namespace Books

variable {o : Option Nat} {d e : Device} {i : Nat} {t : TermId}

theorem steady (h : Books o d) (hs : Steady d e) : Books o e where
  sum := by unfold Device.leaseSteps; rw [hs.lease]; exact h.sum
  ceiling := by rw [hs.ceiling, hs.settings, hs.level]; exact h.ceiling
  ordered := by rw [hs.settings]; exact h.ordered
  nodup := by rw [hs.lease]; exact h.nodup
  served l hl ho := hs.serving (h.served l (hs.lease ▸ hl) ho)

/-- The record on its way out may go to any state. -/
theorem leave (h : Books (some i) d) (hl : e.lease = d.lease) (hm : e.mode = d.mode) (hs : e.settings = d.settings)
    (hr : ∀ j, i ≠ j → e.rec? j = d.rec? j) : Books (some i) e where
  sum := by unfold Device.leaseSteps; rw [hl]; exact h.sum
  ceiling := by rw [hm, hs]; exact h.ceiling
  ordered := by rw [hs]; exact h.ordered
  nodup := by rw [hl]; exact h.nodup
  served l hml ho := by
    have := h.served l (hl ▸ hml) ho
    unfold Device.serving at this ⊢
    rwa [hr _ fun he => ho (congrArg some he)]

theorem transition {c : Cause} (h : Books (some i) d) (ht : d.transition i t c = some e) : Books (some i) e := by
  obtain ⟨r, st, -, -, -, rfl, -⟩ := Sound.transition_rec ht
  exact leave h rfl rfl rfl fun j hij => rec?_putRec_other hij _

end Books

/-! ## The steps of the leases -/

theorem sum_steps_filter {ys : List Lease} {y : Lease} (hn : (ys.map Lease.index).Nodup) (hy : y ∈ ys) :
    ((ys.filter fun x => x.index != y.index).map Lease.steps).sum + y.steps = (ys.map Lease.steps).sum := by
  induction ys with
  | nil => cases hy
  | cons x ys ih =>
    rw [List.map_cons, List.nodup_cons] at hn
    obtain ⟨hx, hn⟩ := hn
    rcases List.mem_cons.1 hy with rfl | hy
    · have hrest : ys.filter (fun x => x.index != y.index) = ys :=
        List.filter_eq_self.2 fun z hz => by simpa using fun he => hx (List.mem_map.2 ⟨z, hz, he⟩)
      rw [List.filter_cons_of_neg (by simp), hrest, List.map_cons, List.sum_cons]
      omega
    · have hne : x.index ≠ y.index := fun he => hx (List.mem_map.2 ⟨y, hy, he.symm⟩)
      have := ih hn hy
      rw [List.filter_cons_of_pos (by simpa using hne)]
      simp only [List.map_cons, List.sum_cons]
      omega

theorem sum_steps_modify {ys : List Lease} {y : Lease} (f : Lease → Lease) (hn : (ys.map Lease.index).Nodup) (hy : y ∈ ys) :
    ((ys.map fun x => if x.index = y.index then f x else x).map Lease.steps).sum + y.steps
      = (ys.map Lease.steps).sum + (f y).steps := by
  induction ys with
  | nil => cases hy
  | cons x ys ih =>
    rw [List.map_cons, List.nodup_cons] at hn
    obtain ⟨hx, hn⟩ := hn
    rcases List.mem_cons.1 hy with rfl | hy
    · have hrest : ys.map (fun x => if x.index = y.index then f x else x) = ys := by
        refine (List.map_congr_left fun z hz => ?_).trans ys.map_id
        exact if_neg fun he => hx (List.mem_map.2 ⟨z, hz, he⟩)
      simp only [List.map_cons, hrest, if_true, List.sum_cons]
      omega
    · have hne : x.index ≠ y.index := fun he => hx (List.mem_map.2 ⟨y, hy, he.symm⟩)
      have := ih hn hy
      simp only [List.map_cons, if_neg hne, List.sum_cons]
      omega

end Sys2Proof.Machine
end

section
/-! Every handling in the service of records keeps the law of the committed sum: one lemma per operation. -/

namespace Sys2Proof.Machine

open Device

/-- A handling keeps the law of the committed sum, and what is QUARANTINED stays so. -/
structure Lawful (d e : Device) : Prop where
  law    : d.committedOk → e.committedOk
  barred : ∀ i, d.inState i .quarantined = true → e.inState i .quarantined = true

namespace Lawful

variable {d e f : Device}

theorem refl (d : Device) : Lawful d d := ⟨id, fun _ => id⟩

theorem trans (h : Lawful d e) (g : Lawful e f) : Lawful d f := ⟨g.law ∘ h.law, fun i => g.barred i ∘ h.barred i⟩

theorem foldl {α : Type} {g : Device → α → Device} (h : ∀ d a, Lawful d (g d a)) :
    ∀ (as : List α) (d : Device), Lawful d (as.foldl g d)
  | [], d => refl d
  | a :: as, d => (h d a).trans (foldl h as (g d a))

/-! ## One lemma per kind of update -/

theorem steady (h : Steady d e) : Lawful d e where
  law hd := by
    obtain ⟨hb, hle⟩ := committedOk_iff.1 hd
    exact committedOk_iff.2 ⟨hb.steady h, by rwa [h.lease, h.ceiling]⟩
  barred _ := h.barred

/-- An update of neither the Lease Manager, nor the ceiling and level, nor the records. -/
theorem of_same (hl : e.lease = d.lease := by simp) (hc : e.mode.ceiling = d.mode.ceiling := by simp)
    (hv : e.mode.level = d.mode.level := by simp) (hs : e.settings = d.settings := by simp)
    (hr : e.roster.records = d.roster.records := by simp) : Lawful d e := steady (.of_same hl hc hv hs hr)

theorem modRec (d : Device) (i : Nat) (g : Record → Record)
    (hg : ∀ r, (g r).id = r.id ∧ (g r).state = r.state := by exact fun r => ⟨rfl, rfl⟩) : Lawful d (d.modRec i g) :=
  steady (.modRec d i g hg)

theorem transition {i : Nat} {t : TermId} {c : Cause} (h : d.transition i t c = some e) (hc : c.dismisses = false := by rfl)
    (hq : c.readmits = false := by rfl) : Lawful d e := steady (.transition h hc hq)

theorem request (d : Device) (i : Nat) (t : TermId) {c : Cause} (hc : c.dismisses = false := by rfl)
    (hq : c.readmits = false := by rfl) : Lawful d (d.request i t c) := steady (.request d i t hc hq)

/-- An update of the Lease Manager that leaves the granted steps, the permit and the committed sum. -/
theorem ofLease {m : LeaseMgr} (hk : m.leases.map (fun l => (l.index, l.id, l.steps))
      = d.lease.leases.map (fun l => (l.index, l.id, l.steps)))
    (hp : m.permit = d.lease.permit) (hc : m.committed = d.lease.committed) : Lawful d { d with lease := m } where
  law h := by
    obtain ⟨⟨hsum, hceil, hord, hnodup, hserved⟩, hle⟩ := committedOk_iff.1 h
    have hsteps : m.leases.map Lease.steps = d.lease.leases.map Lease.steps := by
      have h := congrArg (List.map fun k : Nat × TermId × Nat => k.2.2) hk
      rw [List.map_map, List.map_map] at h
      exact h
    have hindex : m.leases.map Lease.index = d.lease.leases.map Lease.index := by
      have h := congrArg (List.map fun k : Nat × TermId × Nat => k.1) hk
      rw [List.map_map, List.map_map] at h
      exact h
    refine committedOk_iff.2 ⟨⟨?_, hceil, hord, ?_, fun l hl _ => ?_⟩, ?_⟩
    · show m.committed = (m.leases.map Lease.steps).sum + m.permit.getD 0
      rw [hsteps, hp, hc]
      exact hsum
    · show (m.leases.map Lease.index).Nodup
      rw [hindex]
      exact hnodup
    · have hl' : (l.index, l.id, l.steps) ∈ d.lease.leases.map (fun l => (l.index, l.id, l.steps)) :=
        hk ▸ List.mem_map.2 ⟨l, hl, rfl⟩
      obtain ⟨y, hy, hyl⟩ := List.mem_map.1 hl'
      simp only [Prod.mk.injEq] at hyl
      have := hserved y hy (by simp)
      rwa [hyl.1, hyl.2.1] at this
    · show m.committed ≤ d.mode.ceiling
      rw [hc]
      exact hle
  barred _ := id

theorem modLease (d : Device) (i : Nat) {g : Lease → Lease} (hg : ∀ l, (g l).index = l.index ∧ (g l).id = l.id ∧ (g l).steps = l.steps) :
    Lawful d (d.modLease i g) := by
  refine ofLease ?_ rfl rfl
  rw [List.map_map]
  refine List.map_congr_left fun l _ => ?_
  obtain ⟨hi, ht, hs⟩ := hg l
  by_cases h : l.index = i <;> simp [h, hi, ht, hs]

/-- A permit granted where one can be granted (R126). -/
theorem grantPermit (h : d.permitOk = true) : Lawful d d.grantPermit where
  law hd := by
    obtain ⟨⟨hsum, hceil, hord, hnodup, hserved⟩, hle⟩ := committedOk_iff.1 hd
    obtain ⟨hnone, hfit⟩ : d.lease.permit = none ∧ d.settings.pulseAllowance ≤ d.headroom := by simpa [permitOk] using h
    unfold headroom at hfit
    rw [hnone, Option.getD_none] at hsum
    refine committedOk_iff.2 ⟨⟨?_, hceil, hord, hnodup, hserved⟩, ?_⟩
    · show d.lease.committed + d.settings.pulseAllowance = d.leaseSteps + d.settings.pulseAllowance
      omega
    · show d.lease.committed + d.settings.pulseAllowance ≤ d.mode.ceiling
      omega
  barred _ := id

theorem clearPermit (d : Device) : Lawful d d.clearPermit where
  law h := by
    unfold Device.clearPermit
    split
    · rename_i n hn
      obtain ⟨⟨hsum, hceil, hord, hnodup, hserved⟩, hle⟩ := committedOk_iff.1 h
      rw [hn, Option.getD_some] at hsum
      refine committedOk_iff.2 ⟨⟨?_, hceil, hord, hnodup, hserved⟩, ?_⟩
      · show d.lease.committed - n = d.leaseSteps + 0
        omega
      · show d.lease.committed - n ≤ d.mode.ceiling
        omega
    · exact h
  barred i h := by
    rw [inState_iff] at h ⊢
    rwa [rec?_congr (congrArg Roster.records (clearPermit_roster d))]

/-! ## Lines, slots, small updates -/

theorem tripIfAsserted (d : Device) (l : Nat) : Lawful d (d.tripIfAsserted l) := by
  unfold Device.tripIfAsserted
  split
  · split
    · exact of_same
    · exact refl d
  · exact refl d

theorem orderOff (d : Device) (l : Nat) : Lawful d (d.orderOff l) := of_same

theorem orderUnlatch (d : Device) (l : Nat) : Lawful d (d.orderUnlatch l) := of_same

theorem modLine (d : Device) (l : Nat) (g : Line → Line) : Lawful d (d.modLine l g) := of_same

theorem orderSoftstart (d : Device) (l : Nat) : Lawful d (d.orderSoftstart l) := by
  unfold Device.orderSoftstart
  split
  · split
    · exact (modLine d l _).trans (tripIfAsserted _ _)
    · exact refl d
  · exact refl d

theorem orderPulse (d : Device) (l : Nat) (o : Claimant) : Lawful d (d.orderPulse l o) := by
  unfold Device.orderPulse
  split
  · split
    · exact (modLine d l _).trans (tripIfAsserted _ _)
    · exact refl d
  · exact refl d

theorem onLineOf (d : Device) (i : Nat) {order : Device → Nat → Device} (h : ∀ d l, Lawful d (order d l)) :
    Lawful d (d.onLineOf i order) := by
  unfold Device.onLineOf
  split
  · exact h _ _
  · exact refl d

theorem post (d : Device) (i : Nat) (t : TermId) (c : Cmd) : Lawful d (d.post i t c) := of_same

theorem freeSlot (d : Device) (n : Nat) : Lawful d (d.freeSlot n) := of_same

theorem releaseSlot (d : Device) (i : Nat) (t : TermId) : Lawful d (d.releaseSlot i t) := of_same

theorem raiseRec (d : Device) (i : Nat) (t : TermId) (g : RecReasons → RecReasons) : Lawful d (d.raiseRec i t g) := of_same

theorem raiseDev (d : Device) (g : DevReasons → DevReasons) : Lawful d (d.raiseDev g) := of_same

theorem modTest (d : Device) (i : Nat) (g : Test → Test) : Lawful d (d.modTest i g) := of_same

theorem putChannel (d : Device) (c : Nat) (t : Option Test) : Lawful d (d.putChannel c t) := of_same

theorem clearInHand (d : Device) (i : Nat) : Lawful d (d.clearInHand i) := of_same

theorem removeAgenda (d : Device) (i : Nat) : Lawful d (d.removeAgenda i) := of_same

theorem joinWake (d : Device) (t : WakeTarget) (b : Bool) : Lawful d (d.joinWake t b) := of_same

theorem dropEntry (d : Device) (w : WakeEntry) : Lawful d (d.dropEntry w) := of_same

theorem dropWakeRecord (d : Device) (i : Nat) : Lawful d (d.dropWakeRecord i) := of_same

theorem clearAttempt (d : Device) : Lawful d d.clearAttempt := of_same

theorem pulseOver (d : Device) : Lawful d d.pulseOver := of_same

theorem setEviction (d : Device) (o : Option (Nat × TermId)) : Lawful d (d.setEviction o) := of_same

theorem removeClaim (d : Device) (i : Nat) : Lawful d (d.removeClaim i) := ofLease rfl rfl rfl

/-! ## The wake queue and the agenda -/

theorem judgeEviction (d : Device) (k : Nat) : Lawful d (d.judgeEviction k) := by
  unfold Device.judgeEviction
  split
  · exact refl d
  · split
    · exact (post _ _ _ _).trans (setEviction _ _)
    · exact refl d

theorem startTransition {w : WakeEntry} {n : Nat} (h : d.startTransition w n = some e) :
    Lawful d e ∧ e.permitOk = d.permitOk := by
  unfold Device.startTransition at h
  split at h
  · obtain ⟨g, hg, rfl⟩ := Option.map_eq_some_iff.1 h
    refine ⟨(transition hg).trans (modRec _ _ _), ?_⟩
    obtain ⟨r, st, -, -, -, rfl, -⟩ := Sound.transition_rec hg
    rfl
  · obtain rfl := Option.some_inj.1 h
    exact ⟨refl d, rfl⟩

theorem startAttempt (w : WakeEntry) {v : HeadView} (n : Nat) (h : v.method = .pulse → d.permitOk = true) :
    Lawful d (d.startAttempt w v n) := by
  have hpermit : Lawful d (if v.method = .pulse then d.grantPermit else d) := by
    split
    · rename_i hv
      exact grantPermit (h hv)
    · exact refl d
  have hset : ∀ (g : Device) (a : Attempt), Lawful g (((g.reserveSlot n w.target.claimant).dropEntry w).setAttempt a) :=
    fun g a => of_same
  unfold Device.startAttempt
  generalize (if v.method = .pulse then d.grantPermit else d) = g at hpermit ⊢
  dsimp only
  split
  · exact (hpermit.trans (hset _ _)).trans (orderPulse _ _ _)
  · exact hpermit.trans (hset _ _)

theorem examineLoop : ∀ (k : Nat) (d : Device), Lawful d (d.examineLoop k)
  | 0, d => refl d
  | k + 1, d => by
    unfold Device.examineLoop
    split
    · exact refl d
    split
    · exact refl d
    split
    · exact (dropEntry d _).trans (examineLoop k _)
    split
    · exact refl d
    split
    · exact refl d
    split
    · exact judgeEviction d _
    split
    · exact refl d
    rename_i v _ _ _ _ _ hpermit
    split
    · exact (dropEntry d _).trans (examineLoop k _)
    · rename_i h
      obtain ⟨hstart, hok⟩ := startTransition h
      refine hstart.trans (startAttempt _ _ fun hv => ?_)
      rw [hok]
      simpa [hv] using hpermit

theorem examineWake (d : Device) : Lawful d d.examineWake := examineLoop _ d

theorem headCheck (h : Lawful d e) : Lawful d (d.headCheck e) := by
  unfold Device.headCheck
  split
  · exact h
  · exact h.trans (examineWake e)

theorem joinEntry (d : Device) (i : Nat) (t : TermId) (p : Purpose) : Lawful d (d.joinEntry i t p) := by
  unfold Device.joinEntry
  split
  · exact joinWake _ _ _
  · exact refl d

theorem requestEntry (d : Device) (i : Nat) (t : TermId) (p : Purpose) : Lawful d (d.requestEntry i t p) :=
  headCheck (joinEntry d i t p)

theorem completeEviction (d : Device) (i : Nat) (t : TermId) : Lawful d (d.completeEviction i t) := by
  unfold Device.completeEviction
  split
  · exact (setEviction _ _).trans (examineWake _)
  · exact refl d

theorem startTest (d : Device) (w : AgendaEntry) (c : Nat) : Lawful d (d.startTest w c) := by
  unfold Device.startTest
  split
  · exact refl d
  · rename_i h
    exact (transition h).trans ((putChannel _ _ _).trans ((removeAgenda _ _).trans (post _ _ _ _)))

theorem walkEntry (d : Device) (w : AgendaEntry) : Lawful d (d.walkEntry w) := by
  unfold Device.walkEntry
  split
  · split
    · exact startTest _ _ _
    · exact refl d
  · exact refl d

theorem testWake (d : Device) : Lawful d d.testWake := by
  unfold Device.testWake
  split
  · split
    · split
      · exact refl d
      · rename_i w _ _
        exact (of_same : Lawful d (d.setInHand w.index w.id)).trans (requestEntry _ _ _ _)
    · exact refl d
  · exact refl d

theorem examineAgenda (d : Device) : Lawful d d.examineAgenda := by
  unfold Device.examineAgenda
  split
  · exact refl d
  · exact (foldl walkEntry _ d).trans (testWake _)

/-! ## Grants and the service of the claim queue -/

/-- A grant that the headroom covers. The record goes from ATTACHED to FED, so it had no lease (R105, R112). -/
theorem grant (d : Device) (i : Nat) (t : TermId) {k : Nat} (hk : k ≤ d.headroom) : Lawful d (d.grant i t k) := by
  unfold Device.grant
  split
  · exact removeClaim d i
  · rename_i g hg
    refine Lawful.trans ?_ ((onLineOf _ i orderSoftstart).trans (post _ i t _))
    generalize ((d.rec? i).map Record.cls).getD .deferrable = cls
    have hstep := transition hg
    obtain ⟨r, st, hr, hid, hst, rfl, hr'⟩ := Sound.transition_rec hg
    obtain ⟨hattached, rfl⟩ : r.state = .attached ∧ st = .fed := by
      revert hst
      cases r.state <;> simp [Cause.target, eq_comm]
    refine ⟨fun h => ?_, hstep.barred⟩
    obtain ⟨⟨hsum, hceil, hord, hnodup, hserved⟩, hle⟩ := committedOk_iff.1 (hstep.law h)
    have hfree : ∀ l ∈ d.lease.leases, l.index ≠ i := by
      rintro l hl rfl
      obtain ⟨q, hq, -, hqs⟩ := serving_iff.1 ((committedOk_iff.1 h).1.served l hl (by simp))
      obtain rfl := Option.some_inj.1 (hr.symm.trans hq)
      rw [hattached] at hqs
      cases hqs
    refine committedOk_iff.2 ⟨⟨?_, hceil, hord, ?_, fun l hl ho => ?_⟩, ?_⟩
    · have hsum' : d.lease.committed = d.leaseSteps + d.lease.permit.getD 0 := hsum
      show d.lease.committed + k = ((d.lease.leases ++ [_]).map Lease.steps).sum + d.lease.permit.getD 0
      rw [List.map_append, List.sum_append, List.map_singleton, List.sum_singleton]
      show d.lease.committed + k = d.leaseSteps + k + d.lease.permit.getD 0
      omega
    · show ((d.lease.leases ++ [_]).map Lease.index).Nodup
      rw [List.map_append, List.nodup_append]
      refine ⟨hnodup, List.nodup_singleton _, fun x hx y hy => ?_⟩
      obtain ⟨l, hl, rfl⟩ := List.mem_map.1 hx
      rw [List.map_singleton, List.mem_singleton] at hy
      exact hy ▸ hfree l hl
    · rcases List.mem_append.1 hl with hl | hl
      · exact hserved l hl ho
      · obtain rfl := List.mem_singleton.1 hl
        exact serving_iff.2 ⟨_, hr', hid, rfl⟩
    · show d.lease.committed + k ≤ d.mode.ceiling
      have hle' : d.lease.committed ≤ d.mode.ceiling := hle
      unfold headroom at hk
      omega

theorem serveLoop : ∀ (k : Nat) (d : Device), Lawful d (d.serveLoop k)
  | 0, d => refl d
  | k + 1, d => by
    unfold Device.serveLoop
    split
    · exact refl d
    · split
      · rename_i hc
        exact (grant d _ _ hc).trans (serveLoop k _)
      · exact refl d

theorem examineIfGranted (d : Device) (cs : List ClaimEntry) : Lawful d (d.examineIfGranted cs) := by
  unfold Device.examineIfGranted
  split
  · exact examineAgenda d
  · exact refl d

theorem serve (d : Device) : Lawful d d.serve :=
  ((serveLoop _ d).trans (examineWake _)).trans (examineIfGranted _ _)

theorem deferClaim (d : Device) (c : ClaimEntry) (w : DeferReason) : Lawful d (d.deferClaim c w) :=
  (removeClaim d c.index).trans (post _ _ _ _)

theorem dropClaim (d : Device) (i : Nat) : Lawful d (d.dropClaim i) := by
  unfold Device.dropClaim
  split
  · exact (removeClaim d i).trans (serve _)
  · exact refl d

theorem returnPermit (d : Device) : Lawful d d.returnPermit := by
  unfold Device.returnPermit
  split
  · exact (clearPermit d).trans (serve _)
  · exact refl d

end Lawful
end Sys2Proof.Machine
end

section
/-! Lease ends, teardowns, shedding and resizes keep the law of the committed sum: each takes a lease's steps out of the sum with the
lease. -/

namespace Sys2Proof.Machine

open Device

/-! ## The end of one lease -/

namespace Device

variable {d : Device}

theorem onLineOf_orderOff_steady (d : Device) (i : Nat) : Steady d (d.onLineOf i Device.orderOff) := by
  unfold onLineOf
  split
  · exact .of_same
  · exact .refl d

theorem leaseOf_of_mem {l : Lease} (hn : (d.lease.leases.map Lease.index).Nodup) (hl : l ∈ d.lease.leases) :
    d.leaseOf l.index = some l := by
  rcases h : d.leaseOf l.index with _ | y
  · exact absurd rfl (leaseOf_none_iff.1 h l hl)
  · obtain ⟨hy, hi⟩ := leaseOf_some h
    exact congrArg some (List.inj_on_of_nodup_map hn hy hl hi)

theorem leaseOf_removeLease (d : Device) (l : Lease) : (d.removeLease l).leaseOf l.index = none :=
  leaseOf_none_iff.2 fun y hy => by simpa using (List.mem_filter.1 hy).2

end Device

/-- The lease table after a lease end: the lease is out, and its steps are out of the committed sum (R124 step 1). -/
theorem endLeaseQuiet_lease (d : Device) (l : Lease) (w : LeaseEnd) : (d.endLeaseQuiet l w).lease = (d.removeLease l).lease
    ∧ (d.endLeaseQuiet l w).mode = d.mode := by
  have hoff : ∀ e : Device, (if l.phase = .live then e.onLineOf l.index orderOff else e).lease = e.lease
      ∧ (if l.phase = .live then e.onLineOf l.index orderOff else e).mode = e.mode := by
    intro e
    split
    · exact ⟨(onLineOf_orderOff_parts e _).1, (onLineOf_orderOff_parts e _).2.1⟩
    · exact ⟨rfl, rfl⟩
  obtain ⟨hl, hm⟩ := hoff (d.removeLease l)
  obtain ⟨hl', hm', -⟩ := leaseEndRecord_parts (if l.phase = .live then (d.removeLease l).onLineOf l.index orderOff
    else d.removeLease l) l.index l.id
  unfold endLeaseQuiet
  dsimp only
  split
  · rw [post_lease, post_mode]
    exact ⟨hl'.trans hl, hm'.trans hm⟩
  · exact ⟨hl'.trans hl, hm'.trans hm⟩

namespace Books

variable {o : Option Nat} {d e : Device} {i : Nat}

/-- With its lease goes the last claim of a record on its way out. -/
theorem removeLease {l : Lease} (h : Books (some l.index) d) (hl : l ∈ d.lease.leases) : Books none (d.removeLease l) where
  sum := by
    have hsum := sum_steps_filter h.nodup hl
    have hd := h.sum
    unfold Device.leaseSteps at hd
    show d.lease.committed - l.steps = ((d.lease.leases.filter fun x => x.index != l.index).map Lease.steps).sum
      + d.lease.permit.getD 0
    omega
  ceiling := h.ceiling
  ordered := h.ordered
  nodup := h.nodup.sublist (List.filter_sublist.map _)
  served y hy _ := by
    obtain ⟨hy, hne⟩ := List.mem_filter.1 hy
    exact h.served y hy fun he => by simp [Option.some_inj.1 he] at hne

theorem leaseEndRecord {t : TermId} (h : Books none d) (hl : d.leaseOf i = none) : Books none (d.leaseEndRecord i t) := by
  have hend : Books (some i) (d.leaseEndRecord i t) := by
    unfold Device.leaseEndRecord Device.request
    split
    · rcases ht : d.transition i t .leaseEnded with _ | e
      · exact h.weaken
      · exact h.weaken.transition ht
    · exact (h.weaken.steady (.modRec d i fun r => { r with lease := false })).steady .of_same
  refine hend.strengthen ?_
  unfold leaseOf at hl ⊢
  rw [(leaseEndRecord_parts d i t).1]
  exact hl

theorem endLeaseQuiet {l : Lease} (h : Books (some l.index) d) (hl : l ∈ d.lease.leases) (w : LeaseEnd) :
    Books none (d.endLeaseQuiet l w) := by
  have hoff : Steady (d.removeLease l) (if l.phase = .live then (d.removeLease l).onLineOf l.index orderOff
      else d.removeLease l) := by
    split
    · exact onLineOf_orderOff_steady _ _
    · exact .refl _
  have hnone : (if l.phase = .live then (d.removeLease l).onLineOf l.index orderOff
      else d.removeLease l).leaseOf l.index = none := by
    have hgone := leaseOf_removeLease d l
    unfold leaseOf at hgone ⊢
    rw [hoff.lease]
    exact hgone
  have hrec := ((h.removeLease hl).steady hoff).leaseEndRecord (t := l.id) hnone
  unfold Device.endLeaseQuiet
  dsimp only
  split
  · exact hrec.steady .of_same
  · exact hrec

end Books

theorem endLeaseQuiet_barred (d : Device) (l : Lease) (w : LeaseEnd) {j : Nat} (hj : d.inState j .quarantined = true) :
    (d.endLeaseQuiet l w).inState j .quarantined = true := by
  have hoff : ∀ e : Device, e.inState j .quarantined = true →
      (if l.phase = .live then e.onLineOf l.index orderOff else e).inState j .quarantined = true := by
    intro e he
    split
    · exact (onLineOf_orderOff_steady e _).barred he
    · exact he
  have hrec : ∀ e : Device, e.inState j .quarantined = true → (e.leaseEndRecord l.index l.id).inState j .quarantined = true := by
    intro e he
    unfold leaseEndRecord request
    split
    · rcases ht : e.transition l.index l.id .leaseEnded with _ | g
      · exact he
      · exact transition_barred ht rfl he
    · exact ((Steady.modRec e l.index fun r => { r with lease := false }).trans .of_same).barred he
  have hend := hrec _ (hoff (d.removeLease l) hj)
  unfold endLeaseQuiet
  dsimp only
  split
  · exact (Lawful.post _ _ _ _).barred j hend
  · exact hend

/-! ## Records on their way out of service -/

/-- A handling after which the record of an index is out of service in good order: its lease, if it had one, is ended. -/
structure Settles (i : Nat) (d e : Device) : Prop where
  law    : d.lawBut i → e.committedOk
  barred : ∀ j, d.inState j .quarantined = true → e.inState j .quarantined = true

namespace Settles

variable {d e f : Device} {i : Nat}

theorem lawful (h : Settles i d e) : Lawful d e where
  law hd := by
    obtain ⟨hb, hle⟩ := committedOk_iff.1 hd
    exact h.law ⟨hb.weaken, hle⟩
  barred := h.barred

theorem trans (h : Settles i d e) (g : Lawful e f) : Settles i d f := ⟨g.law ∘ h.law, fun j => g.barred j ∘ h.barred j⟩

theorem after (h : Settles i e f) (g : Steady d e) : Settles i d f where
  law hd := h.law ⟨hd.1.steady g, by rw [g.lease, g.ceiling]; exact hd.2⟩
  barred j := h.barred j ∘ g.barred

theorem endLease (d : Device) (i : Nat) (w : LeaseEnd) : Settles i d (d.endLease i w) := by
  unfold Device.endLease
  rcases hl : d.leaseOf i with _ | l
  · exact ⟨fun h => committedOk_iff.2 ⟨h.1.strengthen hl, h.2⟩, fun _ => id⟩
  · obtain ⟨hmem, rfl⟩ := leaseOf_some hl
    refine trans ⟨fun h => ?_, fun j => endLeaseQuiet_barred d l w⟩ (Lawful.serve _)
    obtain ⟨hlease, hmode⟩ := endLeaseQuiet_lease d l w
    refine committedOk_iff.2 ⟨h.1.endLeaseQuiet hmem w, ?_⟩
    rw [hlease, hmode]
    exact (Nat.sub_le _ _).trans h.2

/-- A transition out of service, and what settles it. -/
theorem leave {t : TermId} {c : Cause} (h : d.transition i t c = some e) (hq : c.readmits = false) (g : Settles i e f) :
    Lawful d f where
  law hd := by
    obtain ⟨hb, hle⟩ := committedOk_iff.1 hd
    have hbooks : Books (some i) e := hb.weaken.transition h
    obtain ⟨r, st, -, -, -, rfl, -⟩ := Sound.transition_rec h
    exact g.law ⟨hbooks, hle⟩
  barred j := g.barred j ∘ transition_barred h hq

end Settles

theorem Lawful.endLease (d : Device) (i : Nat) (w : LeaseEnd) : Lawful d (d.endLease i w) := (Settles.endLease d i w).lawful

/-! ## Attempts -/

namespace Lawful

variable {d e f : Device}

theorem stopPulse (d : Device) : Lawful d d.stopPulse := by
  unfold Device.stopPulse
  split
  · split
    · dsimp only
      split
      · exact ((orderOff _ _).trans (pulseOver _)).trans (returnPermit _)
      · exact (pulseOver _).trans (returnPermit _)
    · exact refl d
  · exact refl d

theorem reportPulseEnd (d : Device) (l : Nat) : Lawful d (d.reportPulseEnd l) := by
  unfold Device.reportPulseEnd
  split
  · split
    · exact (pulseOver _).trans (returnPermit _)
    · exact refl d
  · exact refl d

theorem abandonAttempt (d : Device) : Lawful d d.abandonAttempt := by
  unfold Device.abandonAttempt
  split
  · exact (((stopPulse _).trans (freeSlot _ _)).trans (clearAttempt _)).trans (examineWake _)
  · exact refl d

end Lawful

theorem Steady.joinWake (d : Device) (t : WakeTarget) (b : Bool) : Steady d (d.joinWake t b) := .of_same

theorem Steady.abandonReturned (d : Device) : Steady d d.abandonReturned := by
  unfold Device.abandonReturned
  split
  · rename_i a _
    split
    · have hfree : Steady d ((match d.targetLine a.target with
          | some l => d.orderOff l
          | none => d).freeSlot a.slot).clearAttempt := by
        split
        · exact .of_same
        · exact .of_same
      dsimp only
      split
      · split
        · rename_i h
          exact (hfree.trans (.transition h)).trans (.joinWake _ _ _)
        · exact hfree
      · exact hfree.trans (.joinWake _ _ _)
    · exact .refl d
  · exact .refl d

/-! ## Teardowns -/

namespace Lawful

variable {d e f : Device}

theorem dropTest (d : Device) (i : Nat) : Lawful d (d.dropTest i) := by
  have hfree : Lawful d (match d.channelOf i with
      | some c => d.putChannel c none
      | none => d) := by
    split
    · exact putChannel _ _ _
    · exact refl d
  unfold Device.dropTest
  dsimp only
  split
  · exact (hfree.trans (removeAgenda _ _)).trans (examineAgenda _)
  · exact hfree.trans (removeAgenda _ _)

theorem dropWake (d : Device) (i : Nat) : Lawful d (d.dropWake i) := by
  unfold Device.dropWake
  dsimp only
  split
  · exact (headCheck (dropWakeRecord d i)).trans (abandonAttempt _)
  · exact headCheck (dropWakeRecord d i)

end Lawful

namespace Settles

variable {d e f : Device} {i : Nat} {t : TermId}

theorem teardown (d : Device) (i : Nat) (t : TermId) (w : LeaseEnd) : Settles i d (d.teardown i t w) := by
  unfold Device.teardown
  refine ((endLease d i w).trans (.dropClaim _ i)).trans ?_
  refine ((Lawful.dropTest _ i).trans (.dropWake _ i)).trans ?_
  exact ((Lawful.releaseSlot _ i t).trans (.onLineOf _ _ Lawful.orderOff)).trans (.completeEviction _ _ _)

end Settles

namespace Lawful

variable {d e f : Device} {i : Nat} {t : TermId}

theorem quarantine {c : Cause} (h : d.quarantine i t c = some e) (hq : c.readmits = false) : Lawful d e := by
  obtain ⟨g, hg, rfl⟩ := Option.map_eq_some_iff.1 h
  exact Settles.leave hg hq ((Settles.teardown _ i t _).after .of_same)

theorem quarantineD (d : Device) (i : Nat) (t : TermId) {c : Cause} (hq : c.readmits = false) : Lawful d (d.quarantineD i t c) := by
  unfold Device.quarantineD
  rcases h : d.quarantine i t c with _ | e
  · exact refl d
  · exact quarantine h hq

theorem abortLost (d : Device) (i : Nat) : Lawful d (d.abortLost i) := by
  unfold Device.abortLost
  split
  · exact ((modRec d i fun r => { r with lastOutcome := some (.aborted .lost) }).trans (putChannel _ _ _)).trans (examineAgenda _)
  · exact refl d

theorem lostTeardown_settles (d : Device) (i : Nat) (t : TermId) : Settles i d (d.lostTeardown i t) := by
  unfold Device.lostTeardown
  have hlease : Settles i d ((d.releaseSlot i t).endLease i .lost) := (Settles.endLease _ i .lost).after .of_same
  exact (hlease.trans (dropClaim _ i)).trans ((abortLost _ i).trans (completeEviction _ i t))

theorem judgeLost (d : Device) (i : Nat) (t : TermId) : Lawful d (d.judgeLost i t) := by
  unfold Device.judgeLost
  split
  · split
    · exact quarantineD _ _ _ rfl
    · split
      · exact requestEntry _ _ _ _
      · exact refl d
  · exact refl d

theorem declareLost (d : Device) (i : Nat) (t : TermId) : Lawful d (d.declareLost i t) := by
  unfold Device.declareLost
  split
  · rename_i e h
    have hcount : Steady e ((e.modRec i fun r => { r with lost := min (r.lost + 1) 15 }).raiseRec i t
        fun r => { r with lost := true }) := (Steady.modRec e i fun r => { r with lost := min (r.lost + 1) 15 }).trans .of_same
    exact (Settles.leave h rfl ((lostTeardown_settles _ i t).after hcount)).trans (judgeLost _ i t)
  · exact refl d

theorem restartTeardown (d : Device) (i : Nat) (t : TermId) : Lawful d (d.restartTeardown i t) := by
  unfold Device.restartTeardown
  split
  · rename_i h
    exact Settles.leave h rfl (lostTeardown_settles _ i t)
  · exact refl d

theorem restDelivered (h : d.restDelivered i t = some e) : Lawful d e := by
  obtain ⟨g, hg, rfl⟩ := Option.map_eq_some_iff.1 h
  exact (((transition hg).trans (releaseSlot _ i t)).trans (dropClaim _ i)).trans (completeEviction _ i t)

end Lawful

/-! ## Shedding -/

/-- Leases of the table ended one after another, each at most once. -/
theorem Books.endLeases {g : Device → Lease → Device} {w : LeaseEnd}
    (hg : ∀ d l, g d l = d ∨ g d l = d.endLeaseQuiet l w) : ∀ (ls : List Lease) (d : Device), Books none d →
    (∀ l ∈ ls, l ∈ d.lease.leases) → (ls.map Lease.index).Nodup →
    Books none (ls.foldl g d) ∧ (ls.foldl g d).lease.permit = d.lease.permit ∧ (ls.foldl g d).mode = d.mode
    ∧ (ls.foldl g d).lease.committed ≤ d.lease.committed
  | [], d, hd, _, _ => ⟨hd, rfl, rfl, le_rfl⟩
  | l :: ls, d, hd, hmem, hn => by
    rw [List.map_cons, List.nodup_cons] at hn
    obtain ⟨hl, hn⟩ := hn
    have hrest : ∀ y ∈ ls, y ∈ d.lease.leases := fun y hy => hmem y (List.mem_cons_of_mem _ hy)
    rw [List.foldl_cons]
    rcases hg d l with h | h
    · rw [h]
      exact endLeases hg ls d hd hrest hn
    · rw [h]
      obtain ⟨hlease, hmode⟩ := endLeaseQuiet_lease d l w
      have hleft : ∀ y ∈ ls, y ∈ (d.endLeaseQuiet l w).lease.leases := fun y hy => by
        rw [hlease]
        exact List.mem_filter.2 ⟨hrest y hy, by simpa using fun he => hl (List.mem_map.2 ⟨y, hy, he⟩)⟩
      obtain ⟨hb, hp, hm, hc⟩ := endLeases hg ls _ (hd.weaken.endLeaseQuiet (hmem l List.mem_cons_self) w) hleft hn
      refine ⟨hb, ?_, hm.trans hmode, hc.trans ?_⟩
      · rw [hp, hlease]
        rfl
      · rw [hlease]
        exact Nat.sub_le _ _

/-- What the claims step of shedding leaves. -/
theorem Books.deferClaims {g : Device → ClaimEntry → Device} {w : DeferReason}
    (hg : ∀ d c, g d c = d ∨ g d c = d.deferClaim c w) : ∀ (cs : List ClaimEntry) (d : Device), Books none d →
    Books none (cs.foldl g d) ∧ (cs.foldl g d).lease.permit = d.lease.permit ∧ (cs.foldl g d).mode = d.mode
  | [], _, hd => ⟨hd, rfl, rfl⟩
  | c :: cs, d, hd => by
    rw [List.foldl_cons]
    rcases hg d c with h | h
    · rw [h]
      exact deferClaims hg cs d hd
    · rw [h]
      have hremove : Books none (d.removeClaim c.index) := ⟨hd.sum, hd.ceiling, hd.ordered, hd.nodup, hd.served⟩
      have hstep : Books none (d.deferClaim c w) :=
        hremove.steady (.of_same : Steady _ ((d.removeClaim c.index).post c.index c.id (.defer w)))
      obtain ⟨hb, hp, hm⟩ := deferClaims hg cs _ hstep
      refine ⟨hb, hp.trans ?_, hm.trans (post_mode ..)⟩
      unfold deferClaim
      rw [post_lease]
      rfl

/-- Step 1 of shedding withdraws the permit (R127). -/
theorem Books.shedPermit {d : Device} (h : Books none d) : Books none d.shedPermit ∧ d.shedPermit.lease.permit = none := by
  rcases hp : d.lease.permit with _ | k
  · rw [shedPermit_none hp]
    exact ⟨h, hp⟩
  · have hclear : Books none (d.withoutPermit k) := by
      refine ⟨?_, h.ceiling, h.ordered, h.nodup, h.served⟩
      have hsum := h.sum
      rw [hp, Option.getD_some] at hsum
      show d.lease.committed - k = d.leaseSteps + 0
      omega
    rw [shedPermit_some hp, (Steady.abandonReturned _).lease]
    exact ⟨hclear.steady (.abandonReturned _), rfl⟩

/-- Step 4 of shedding: with every lease cut the sum is 0, so that the fit ends within the ceiling (R127). -/
theorem Books.fitLoop : ∀ (k : Nat) (d : Device), d.lease.leases.length ≤ k → Books none d → d.lease.permit = none →
    (d.fitLoop k).committedOk
  | k, d, hk, hd, hp => by
    by_cases hfit : d.lease.committed ≤ d.mode.ceiling
    · rw [fitLoop_fits (.inl hfit)]
      exact committedOk_iff.2 ⟨hd, hfit⟩
    · have hne : d.lease.leases ≠ [] := by
        intro hnil
        have hsum := hd.sum
        rw [hp, Option.getD_none, leaseSteps, hnil, List.map_nil, List.sum_nil] at hsum
        omega
      obtain ⟨y, hy, hmem, -⟩ := nextCut_some hne
      obtain ⟨hlease, -⟩ := endLeaseQuiet_lease d y .shed
      have hshort : (d.endLeaseQuiet y .shed).lease.leases.length < d.lease.leases.length := by
        rw [hlease]
        exact List.length_filter_lt_length_iff_exists.2 ⟨y, hmem, by simp⟩
      match k with
      | 0 => omega
      | k + 1 =>
        rw [fitLoop_cuts (by omega) hy]
        refine Books.fitLoop k _ (by omega) (hd.weaken.endLeaseQuiet hmem _) ?_
        rw [hlease]
        exact hp

/-- Shedding brings the sum within a ceiling that has fallen (R127). -/
theorem Books.shed {d : Device} (h : Books none d) : d.shed.committedOk := by
  obtain ⟨hpermit, hnone⟩ := h.shedPermit
  obtain ⟨hleases, hnone', -, -⟩ := Books.endLeases (w := .shed)
    (g := fun d l => if d.mode.level.bars l.cls then d.endLeaseQuiet l .shed else d)
    (fun d l => (ite_eq_or_eq _ _ _).symm) d.shedPermit.lease.leases d.shedPermit hpermit (fun _ => id) hpermit.nodup
  obtain ⟨hclaims, hnone'', -⟩ := Books.deferClaims (w := .classBarred)
    (g := fun d c => if d.mode.level.bars c.cls then d.deferClaim c .classBarred else d)
    (fun d c => (ite_eq_or_eq _ _ _).symm) d.shedPermit.shedLeases.lease.claims d.shedPermit.shedLeases hleases
  exact (Lawful.serve _).law (Books.fitLoop _ _ le_rfl hclaims ((hnone''.trans hnone').trans hnone))

end Sys2Proof.Machine
end

section
/-! Claims, renewals, releases, tests and window expiries keep the law of the committed sum. -/

namespace Sys2Proof.Machine

open Device

/-! ## A lease resized -/

/-- A lease given another number of steps, with the sum following it: the law holds where the new sum is within the ceiling. -/
theorem resize_committedOk {d e : Device} {l : Lease} {k n : Nat} (h : d.committedOk) (hl : l ∈ d.lease.leases)
    (he : e = { d with lease := { d.lease with
      leases := d.lease.leases.map fun x => if x.index = l.index then { x with steps := k } else x, committed := n } })
    (hn : n + l.steps = d.lease.committed + k) (hle : n ≤ d.mode.ceiling) : e.committedOk := by
  obtain ⟨⟨hsum, hceil, hord, hnodup, hserved⟩, -⟩ := committedOk_iff.1 h
  have hroster : e.roster.records = d.roster.records := by rw [he]
  have hmap : ((d.lease.leases.map fun x => if x.index = l.index then { x with steps := k } else x).map Lease.steps).sum + l.steps
      = (d.lease.leases.map Lease.steps).sum + k := sum_steps_modify (fun x : Lease => { x with steps := k }) hnodup hl
  have hleases : e.lease.leases = d.lease.leases.map fun x => if x.index = l.index then { x with steps := k } else x := by rw [he]
  refine committedOk_iff.2 ⟨⟨?_, by rw [he]; exact hceil, by rw [he]; exact hord, ?_, fun y hy ho => ?_⟩, by rw [he]; exact hle⟩
  · unfold leaseSteps at hsum ⊢
    rw [hleases, he]
    show n = _ + d.lease.permit.getD 0
    omega
  · rw [hleases, List.map_map]
    refine (List.map_congr_left fun x _ => ?_).symm ▸ hnodup
    by_cases hx : x.index = l.index <;> simp [hx]
  · rw [hleases] at hy
    obtain ⟨x, hx, rfl⟩ := List.mem_map.1 hy
    have hs := hserved x hx (by simp)
    unfold serving at hs ⊢
    rw [rec?_congr hroster]
    by_cases hxl : x.index = l.index
    · simpa only [if_pos hxl] using hs
    · simpa only [if_neg hxl] using hs

namespace Lawful

variable {d e f : Device}

theorem reload (d : Device) (i n : Nat) : Lawful d (d.modLease i fun x => { x with countdown := n }) :=
  modLease d i fun _ => ⟨rfl, rfl, rfl⟩

theorem lower {l : Lease} {k : Nat} (hl : l ∈ d.lease.leases) (hk : k < l.steps) :
    Lawful d ((d.modLease l.index fun x => { x with steps := k }).subCommitted (l.steps - k)) where
  law h := by
    obtain ⟨hb, hle⟩ := committedOk_iff.1 h
    have hsum := hb.sum
    have hsteps : l.steps ≤ d.leaseSteps := by
      have := sum_steps_filter hb.nodup hl
      unfold leaseSteps
      omega
    refine resize_committedOk h hl rfl ?_ ?_
    · show d.lease.committed - (l.steps - k) + l.steps = _
      omega
    · show d.lease.committed - (l.steps - k) ≤ _
      omega
  barred _ := id

theorem raise {l : Lease} {k : Nat} (hl : l ∈ d.lease.leases) (hk : l.steps ≤ k) (hfit : k - l.steps ≤ d.headroom) :
    Lawful d ((d.modLease l.index fun x => { x with steps := k }).addCommitted (k - l.steps)) where
  law h := by
    obtain ⟨-, hle⟩ := committedOk_iff.1 h
    unfold headroom at hfit
    refine resize_committedOk h hl rfl ?_ ?_
    · show d.lease.committed + (k - l.steps) + l.steps = _
      omega
    · show d.lease.committed + (k - l.steps) ≤ _
      omega
  barred _ := id

/-! ## Claims -/

theorem addClaim (d : Device) (i : Nat) (r : Record) (k : Nat) : Lawful d (d.addClaim i r k) := ofLease rfl rfl rfl

theorem setClaimSteps (d : Device) (i k : Nat) : Lawful d (d.setClaimSteps i k) := ofLease rfl rfl rfl

theorem joinClaim (d : Device) (i : Nat) (r : Record) (k : Nat) : Lawful d (d.joinClaim i r k) :=
  ((addClaim d i r k).trans (post _ _ _ _)).trans (serve _)

theorem judgeClaim (d : Device) (i : Nat) (r : Record) (k : Nat) : Lawful d (d.judgeClaim i r k) := by
  unfold Device.judgeClaim
  split
  · rename_i h
    have hk : k ≤ d.headroom := by simp only [Bool.and_eq_true, decide_eq_true_eq] at h; exact h.2
    dsimp only
    split
    · exact (grant d i _ hk).trans (examineAgenda _)
    · exact grant d i _ hk
  · exact joinClaim _ _ _ _

theorem attachedClaim (d : Device) (i : Nat) (r : Record) (k : Nat) : Lawful d (d.attachedClaim i r k) := by
  unfold Device.attachedClaim
  split
  · exact post _ _ _ _
  · exact judgeClaim _ _ _ _
  · exact (deferClaim _ _ _).trans (serve _)
  · exact ((setClaimSteps _ _ _).trans (post _ _ _ _)).trans (serve _)

theorem resizeClaim {i : Nat} {l : Lease} (hl : d.leaseOf i = some l) (r : Record) (k : Nat) :
    Lawful d (d.resizeClaim i r l k) := by
  obtain ⟨hmem, rfl⟩ := leaseOf_some hl
  have hreload : { l with countdown := d.settings.leaseLength }
      ∈ (d.modLease l.index fun x => { x with countdown := d.settings.leaseLength }).lease.leases :=
    List.mem_map.2 ⟨l, hmem, if_pos rfl⟩
  unfold Device.resizeClaim
  extract_lets d0
  have h0 : Lawful d d0 := reload d l.index _
  split
  · exact h0.trans (post _ _ _ _)
  split
  · rename_i hk
    exact h0.trans (((lower (l := { l with countdown := d.settings.leaseLength }) hreload hk).trans (post _ _ _ _)).trans (serve _))
  split
  · exact h0.trans (post _ _ _ _)
  split
  · rename_i hk hne h
    have hfit : k - l.steps ≤ d0.headroom := by simp only [Bool.and_eq_true, decide_eq_true_eq] at h; exact h.1
    exact h0.trans ((raise (l := { l with countdown := d.settings.leaseLength }) hreload (Nat.le_of_not_lt hk) hfit).trans
      (post _ _ _ _))
  · exact h0.trans (post _ _ _ _)

theorem testingClaim (d : Device) (i : Nat) (r : Record) : Lawful d (d.testingClaim i r) := by
  unfold Device.testingClaim
  refine Lawful.trans ?_ (post _ _ _ _)
  split
  · exact reload d i _
  · exact refl d

theorem takeClaim (d : Device) (i : Nat) (t : TermId) (k : Nat) : Lawful d (d.takeClaim i t k) := by
  unfold Device.takeClaim
  split
  · split
    · split
      · exact attachedClaim _ _ _ _
      · split
        · rename_i h
          exact resizeClaim h _ _
        · exact refl d
      · exact testingClaim _ _ _
      all_goals exact refl d
    · exact refl d
  · exact refl d

theorem autoClaim (d : Device) (i : Nat) (t : TermId) : Lawful d (d.autoClaim i t) := by
  unfold Device.autoClaim
  split
  · exact takeClaim _ _ _ _
  · exact refl d

theorem leaseReport (d : Device) (i : Nat) (t : TermId) (b : Bool) : Lawful d (d.leaseReport i t b) := by
  unfold Device.leaseReport
  split
  · exact autoClaim _ _ _
  · exact refl d

theorem takeRenew (d : Device) (i : Nat) (t : TermId) : Lawful d (d.takeRenew i t) := by
  unfold Device.takeRenew
  split
  · split
    · split
      · exact reload d i _
      · split
        · exact reload d i _
        · exact refl d
      · split
        · exact post _ _ _ _
        · exact post _ _ _ _
      all_goals exact refl d
    · exact refl d
  · exact refl d

theorem takeRelease (d : Device) (i : Nat) (t : TermId) : Lawful d (d.takeRelease i t) := by
  unfold Device.takeRelease
  split
  · split
    · split
      · exact endLease _ _ _
      · exact endLease _ _ _
      · exact dropClaim _ _
      all_goals exact refl d
    · exact refl d
  · exact refl d

theorem suspend (d : Device) (i : Nat) : Lawful d (d.suspend i) := by
  unfold Device.suspend
  split
  · exact (modLease d i (g := fun x => { x with phase := .suspended }) fun _ => ⟨rfl, rfl, rfl⟩).trans (onLineOf _ _ orderOff)
  · exact refl d

theorem resume (d : Device) (i : Nat) : Lawful d (d.resume i) := by
  unfold Device.resume
  split
  · split
    · exact (modLease d i (g := fun x => { x with phase := .live, countdown := d.settings.leaseLength }) fun _ => ⟨rfl, rfl, rfl⟩).trans
        (onLineOf _ _ orderSoftstart)
    · exact refl d
  · exact refl d

/-! ## Tests -/

/-- A record without a lease may leave service by a request (R164). -/
theorem requestUnleased {i : Nat} (hl : d.leaseOf i = none) (t : TermId) {c : Cause} (hq : c.readmits = false) :
    Lawful d (d.request i t c) := by
  unfold Device.request
  rcases h : d.transition i t c with _ | e
  · exact refl d
  · refine Settles.leave h hq ⟨fun hb => committedOk_iff.2 ⟨hb.1.strengthen ?_, hb.2⟩, fun _ => id⟩
    obtain ⟨r, st, -, -, -, rfl, -⟩ := Sound.transition_rec h
    exact hl

theorem resumeRecord (d : Device) (i : Nat) (t : TermId) : Lawful d (d.resumeRecord i t) := by
  unfold Device.resumeRecord
  dsimp only
  refine (resume d i).trans ?_
  split
  · exact request _ i t
  · rename_i h
    exact requestUnleased (by simpa using h) t rfl

theorem storeOutcome (d : Device) (i : Nat) (t : TermId) (o : TestOutcome) (k : Nat) : Lawful d (d.storeOutcome i t o k) := by
  have h : Lawful d (d.modRec i fun r => r.storeOutcome o k) := modRec d i _ fun r => by cases o <;> exact ⟨rfl, rfl⟩
  cases o with
  | verdict v => exact h.trans (raiseRec _ _ _ _)
  | aborted w => exact h

theorem closeTest (d : Device) (t : Test) (o : TestOutcome) (k : Nat) : Lawful d (d.closeTest t o k) :=
  ((resumeRecord d _ _).trans (storeOutcome _ _ _ _ _)).trans (post _ _ _ _)

theorem endTest (d : Device) (c : Nat) (t : Test) (o : TestOutcome) (k : Nat) (b : Bool) : Lawful d (d.endTest c t o k b) := by
  have hclaim : ∀ d : Device, Lawful d
      (if d.inState t.index .attached && (b || d.nearCutoff t.index) then d.autoClaim t.index t.id else d) := by
    intro d
    split
    · exact autoClaim _ _ _
    · exact refl d
  exact ((closeTest d t o k).trans (hclaim _)).trans ((putChannel _ c none).trans (examineAgenda _))

theorem endTestMains (d : Device) (c : Nat) : Lawful d (d.endTestMains c) := by
  unfold Device.endTestMains
  split
  · exact (closeTest _ _ _ _).trans (putChannel _ _ _)
  · exact refl d

theorem testBegun (d : Device) (i w : Nat) : Lawful d (d.testBegun i w) := by
  unfold Device.testBegun
  split
  · split
    · exact (modTest _ _ _).trans (suspend _ _)
    · exact refl d
  · exact refl d

theorem runningReport (d : Device) (c : Nat) (t : Test) (b : BatteryReport) : Lawful d (d.runningReport c t b) := by
  unfold Device.runningReport
  split
  · dsimp only
    split
    · exact (putChannel _ _ _).trans (endTest _ _ _ _ _ _)
    · split
      · exact (putChannel _ _ _).trans (endTest _ _ _ _ _ _)
      · exact putChannel _ _ _
  · dsimp only
    split
    · exact (putChannel _ _ _).trans (endTest _ _ _ _ _ _)
    · exact putChannel _ _ _

theorem testReport (d : Device) (i : Nat) (b : BatteryReport) : Lawful d (d.testReport i b) := by
  unfold Device.testReport
  split
  · split
    · split
      · split
        · exact endTest _ _ _ _ _ _
        · exact refl d
      · exact runningReport _ _ _ _
    · exact refl d
  · exact refl d

theorem testExpired (d : Device) (c : Nat) (p : TestPhase) : Lawful d (d.testExpired c p) := by
  unfold Device.testExpired
  split
  · split
    · split <;> exact endTest _ _ _ _ _ _
    · exact refl d
  · exact refl d

theorem deliver (d : Device) (n : Nat) (h : Holder) (a : Option Nat) : Lawful d (d.deliver n h a).1 := by
  unfold Device.deliver
  split
  · exact refl d
  · rename_i e es he
    split
    · have hqueue : Lawful d (d.modHolder n fun h => { h with queue := es }) := of_same
      generalize d.modHolder n _ = d1 at hqueue ⊢
      dsimp only
      split
      · split
        · rename_i h2
          exact hqueue.trans (restDelivered h2)
        · exact hqueue
      · exact hqueue.trans (testBegun _ _ _)
      all_goals exact hqueue
    · exact refl d

/-! ## Windows, losses and lines -/

theorem attachExpired (d : Device) : Lawful d d.attachExpired := by
  unfold Device.attachExpired
  split
  · rename_i a _
    split
    · split
      · rename_i i t p _ _
        have hcount : Lawful d (d.stopPulse.modRec i fun r => { r with failedWakes := min (r.failedWakes + 1) 7 }) :=
          (stopPulse d).trans (modRec _ i _)
        dsimp only
        generalize d.stopPulse.modRec i _ = g at hcount ⊢
        split
        · split
          · have hclear : Lawful g ((g.freeSlot a.slot).clearAttempt) := (freeSlot _ _).trans (clearAttempt _)
            split
            · rename_i h
              exact (hcount.trans (hclear.trans (transition h))).trans ((joinEntry _ _ _ _).trans (examineWake _))
            · exact (hcount.trans hclear).trans (examineWake _)
          · exact (hcount.trans (quarantineD _ _ _ rfl)).trans (examineWake _)
        · exact hcount
      · exact refl d
    · exact refl d
  · exact refl d

theorem silenceLost (d : Device) (n : Nat) : Lawful d (d.silenceLost n) := by
  unfold Device.silenceLost
  split
  · exact declareLost _ _ _
  · exact refl d

theorem idleRest (d : Device) (i : Nat) : Lawful d (d.idleRest i) := by
  unfold Device.idleRest
  split
  · split
    · exact post _ _ _ _
    · exact refl d
  · exact refl d

theorem leaseExpired (d : Device) (i : Nat) : Lawful d (d.leaseExpired i) := by
  unfold Device.leaseExpired
  split
  · split
    · exact endLease _ _ _
    · exact refl d
  · exact refl d

theorem claimWaitExpired (d : Device) (i : Nat) : Lawful d (d.claimWaitExpired i) := by
  unfold Device.claimWaitExpired
  split
  · split
    · exact (deferClaim _ _ _).trans (serve _)
    · exact refl d
  · exact refl d

theorem pulseEnded (d : Device) (l : Nat) : Lawful d (d.pulseEnded l) := by
  unfold Device.pulseEnded
  split
  · exact (orderOff _ _).trans (reportPulseEnd _ _)
  · exact refl d

theorem softstartDone (d : Device) (l : Nat) : Lawful d (d.softstartDone l) := by
  unfold Device.softstartDone
  split
  · exact modLine _ _ _
  · exact refl d

theorem tripBound (d : Device) (l i : Nat) (b : Bool) : Lawful d (d.tripBound l i b) := by
  have hreport : ∀ d : Device, Lawful d (if b then d.reportPulseEnd l else d) := by
    intro d
    split
    · exact reportPulseEnd _ _
    · exact refl d
  unfold Device.tripBound
  dsimp only
  split
  · rename_i h
    exact ((modLine d l _).trans (quarantine h rfl)).trans (hreport _)
  · exact ((modLine d l _).trans (modLine _ l _)).trans (hreport _)

end Lawful
end Sys2Proof.Machine
end

section
/-! Announces, trips, levels, the outage and the scan round keep the law of the committed sum. -/

namespace Sys2Proof.Machine

open Device

/-- The ceilings rise with the level (R47). -/
theorem ceilingOf_higher {s : Settings} (h : s.ordered = true) (l : Level) : s.ceilingOf l ≤ s.ceilingOf l.higher := by
  obtain ⟨⟨⟨-, hlow⟩, hnormal⟩, -⟩ : ((_ ∧ s.criticalCeiling ≤ s.lowCeiling) ∧ s.lowCeiling ≤ s.normalCeiling) ∧ _ := by
    simpa only [Settings.ordered, Bool.and_eq_true, decide_eq_true_eq] using h
  cases l
  · exact le_rfl
  · exact hnormal
  · exact hlow
  · exact Nat.zero_le _

namespace Lawful

variable {d e f : Device}

/-! ## Announces and discoveries -/

theorem offerStranger (d : Device) (t : TermId) (l : Option Nat) (n : Count16) : Lawful d (d.offerStranger t l n) := by
  unfold Device.offerStranger
  split
  · split
    · exact of_same rfl rfl rfl rfl rfl
    · exact refl d
  · split
    · exact of_same rfl rfl rfl rfl rfl
    · exact of_same rfl rfl rfl rfl rfl

theorem handAssign (d : Device) (t : TermId) (n : Nat) : Lawful d (d.handAssign t n) := of_same rfl rfl rfl rfl rfl

theorem handBackoff (d : Device) (t : TermId) : Lawful d (d.handBackoff t) := of_same rfl rfl rfl rfl rfl

theorem assignSlot (d : Device) (n i : Nat) (t : TermId) : Lawful d (d.assignSlot n i t) := of_same

theorem accept (d : Device) (i : Nat) {c : Cause} (n : Nat) (a : Announce) (hc : c.dismisses = false) (hq : c.readmits = false) :
    Lawful d (d.accept i c n a) := by
  unfold Device.accept
  split
  · exact refl d
  · rename_i e he
    have hslot : Lawful d (((e.modRec i fun r => { r with slot := some n }).assignSlot n i a.id).handAssign a.id n) :=
      ((transition he hc hq).trans (modRec e i fun r => { r with slot := some n })).trans
        ((assignSlot _ n i a.id).trans (handAssign _ a.id n))
    have htold : Lawful d _ := hslot.trans (modRec _ i fun r =>
      { r with capabilities := some ⟨a.markWake, storedDemand r.cls a.demand⟩, failedWakes := 0 })
    dsimp only
    refine Lawful.trans ?_ (completeEviction _ _ _)
    split
    · exact (htold.trans (clearInHand _ i)).trans (examineAgenda _)
    · exact htold.trans (clearInHand _ i)

theorem announceDormant (d : Device) (i : Nat) (a : Announce) : Lawful d (d.announceDormant i a) := by
  unfold Device.announceDormant
  split
  · exact headCheck ((dropWakeRecord _ _).trans (accept _ _ _ _ rfl rfl))
  · exact handBackoff _ _

theorem announceMatch (d : Device) (i : Nat) (b : Attempt) (a : Announce) : Lawful d (d.announceMatch i b a) :=
  ((stopPulse d).trans (accept _ _ _ _ rfl rfl)).trans ((clearAttempt _).trans (examineWake _))

theorem announceAgain (d : Device) (i : Nat) (a : Announce) : Lawful d (d.announceAgain i a) := by
  unfold Device.announceAgain
  split
  · split
    · exact announceMatch _ _ _ _
    · exact announceDormant _ _ _
  · exact announceDormant _ _ _

theorem announceSpontaneous (d : Device) (a : Announce) : Lawful d (d.announceSpontaneous a) := by
  have hrestart : ∀ i, Lawful d ((d.restartTeardown i a.id).announceAgain i a) := fun i =>
    (restartTeardown d i a.id).trans (announceAgain _ i a)
  unfold Device.announceSpontaneous
  split
  · exact (handBackoff _ _).trans (offerStranger _ _ _ _)
  · rename_i i _
    split
    · exact announceDormant _ _ _
    · exact hrestart i
    · exact hrestart i
    · exact hrestart i
    · exact handBackoff _ _
    · exact (handBackoff _ _).trans (raiseRec _ _ _ _)
    · exact refl d
    · exact refl d

theorem endDiscovery (d : Device) (l : Nat) (r : DiscoveryResult) : Lawful d (d.endDiscovery l r) :=
  ((modLine d l fun x => { x with discovery := some r }).trans (raiseDev _ fun r => { r with discovery := true })).trans
    ((clearAttempt _).trans (examineWake _))

theorem bindLine (d : Device) (i l : Nat) : Lawful d (d.bindLine i l) :=
  (modRec d i fun r => { r with line := some l }).trans (modLine _ l fun x => { x with binding := some i })

theorem decideDiscovery (d : Device) (b : Attempt) (l : Nat) (a : Announce) : Lawful d (d.decideDiscovery b l a) := by
  have hback : ∀ e : Device, Lawful e ((e.freeSlot b.slot).handBackoff a.id) := fun e =>
    (freeSlot e b.slot).trans (handBackoff _ a.id)
  unfold Device.decideDiscovery
  dsimp only
  refine (stopPulse d).trans ?_
  split
  · exact ((hback _).trans (offerStranger _ _ _ _)).trans (endDiscovery _ _ _)
  · split
    · exact ((bindLine _ _ _).trans (accept _ _ _ _ rfl rfl)).trans ((raiseRec _ _ _ _).trans (endDiscovery _ _ _))
    · exact (hback _).trans (endDiscovery _ _ _)

theorem announceForeign (d : Device) (a : Announce) : Lawful d (d.announceForeign a) := by
  unfold Device.announceForeign
  dsimp only
  split
  · exact (handBackoff _ _).trans (offerStranger _ _ _ _)
  · exact handBackoff _ _

theorem judgeAnnounce (d : Device) (a : Announce) : Lawful d (d.judgeAnnounce a) := by
  unfold Device.judgeAnnounce
  split
  · exact refl d
  · split
    · exact announceSpontaneous _ _
    · split
      · split
        · exact announceMatch _ _ _ _
        · exact announceForeign _ _
      · exact decideDiscovery _ _ _ _
      · exact announceSpontaneous _ _

theorem discoveryExpired (d : Device) : Lawful d d.discoveryExpired := by
  unfold Device.discoveryExpired
  split
  · split
    · split
      · exact ((stopPulse _).trans (freeSlot _ _)).trans (endDiscovery _ _ _)
      · exact refl d
    · exact refl d
  · exact refl d

/-! ## Trips -/

theorem tripUnbound (d : Device) (l : Nat) (s : Switch) : Lawful d (d.tripUnbound l s) := by
  unfold Device.tripUnbound
  dsimp only
  refine (modLine d l fun x => { x with switch := .off }).trans ?_
  split
  · split
    · split
      · exact ((reportPulseEnd _ _).trans (freeSlot _ _)).trans (endDiscovery _ _ _)
      · exact refl _
    · exact refl _
  · exact refl _

theorem tripped (d : Device) (l : Nat) : Lawful d (d.tripped l) := by
  unfold Device.tripped
  split
  · split
    · exact refl d
    · exact refl d
    all_goals
      split
      · exact tripBound _ _ _ _
      · exact tripUnbound _ _ _
  · exact refl d

theorem tripDue (d : Device) (l : Nat) : Lawful d (d.tripDue l) := by
  unfold Device.tripDue
  split
  · split
    · exact tripped _ _
    · exact refl d
  · exact refl d

/-! ## Levels, rations, the outage -/

theorem shedPermit_barred (d : Device) {i : Nat} (h : d.inState i .quarantined = true) :
    d.shedPermit.inState i .quarantined = true := by
  unfold Device.shedPermit
  split
  · exact (Steady.abandonReturned _).barred ((clearPermit d).barred i h)
  · exact h

theorem fitLoop_barred : ∀ (k : Nat) (d : Device) {i : Nat}, d.inState i .quarantined = true →
    (d.fitLoop k).inState i .quarantined = true
  | 0, _, _, h => h
  | k + 1, d, i, h => by
    unfold Device.fitLoop
    split
    · split
      · exact fitLoop_barred k _ (endLeaseQuiet_barred d _ _ h)
      · exact h
    · exact h

theorem foldl_barred {α : Type} {g : Device → α → Device} {i : Nat}
    (hg : ∀ d a, d.inState i .quarantined = true → (g d a).inState i .quarantined = true) :
    ∀ (as : List α) (d : Device), d.inState i .quarantined = true → (as.foldl g d).inState i .quarantined = true
  | [], _, h => h
  | a :: as, d, h => foldl_barred hg as (g d a) (hg d a h)

theorem shed_barred (d : Device) {i : Nat} (h : d.inState i .quarantined = true) : d.shed.inState i .quarantined = true := by
  have hleases : d.shedPermit.shedLeases.inState i .quarantined = true := by
    refine foldl_barred (fun e l he => ?_) _ _ (shedPermit_barred d h)
    split
    · exact endLeaseQuiet_barred e l _ he
    · exact he
  have hclaims : d.shedPermit.shedLeases.shedClaims.inState i .quarantined = true := by
    refine foldl_barred (fun e c he => ?_) _ _ hleases
    split
    · exact (deferClaim e c _).barred i he
    · exact he
  exact (serve _).barred i (fitLoop_barred _ _ hclaims)

/-- A ceiling that has fallen sheds (R49, R50, R127). -/
theorem shedTo (h : Books none d → Books none e) (hr : e.roster.records = d.roster.records) : Lawful d e.shed where
  law hd := (h (committedOk_iff.1 hd).1).shed
  barred i hi := by
    refine shed_barred e ?_
    rw [inState_iff] at hi ⊢
    rwa [rec?_congr hr]

/-- A ceiling that has risen still covers the sum. -/
theorem raiseTo (h : Books none d → Books none e) (hl : e.lease = d.lease) (hc : d.committedOk → d.mode.ceiling ≤ e.mode.ceiling)
    (hr : e.roster.records = d.roster.records) : Lawful d e where
  law hd := committedOk_iff.2 ⟨h (committedOk_iff.1 hd).1, by rw [hl]; exact (committedOk_iff.1 hd).2.trans (hc hd)⟩
  barred i hi := by
    rw [inState_iff] at hi ⊢
    rwa [rec?_congr hr]

theorem changeLevel (d : Device) : Lawful d d.changeLevel := by
  have hbooks : ∀ l : Level, Books none d → Books none
      (({ d with mode := { d.mode with level := l, evidence := .none, confirm := 0, ceiling := d.settings.ceilingOf l } }
        : Device).raiseDev fun r => { r with level := true }) := fun l h => ⟨h.sum, rfl, h.ordered, h.nodup, h.served⟩
  unfold Device.changeLevel
  dsimp only
  split
  · exact (shedTo (hbooks _) rfl).trans (examineWake _)
  · have hup : d.committedOk → d.mode.ceiling ≤ d.settings.ceilingOf d.mode.level.higher := fun h => by
      obtain ⟨⟨-, hceil, hord, -, -⟩, -⟩ := committedOk_iff.1 h
      rw [hceil]
      exact ceilingOf_higher hord _
    exact ((raiseTo (hbooks _) rfl hup rfl).trans (serve _)).trans ((examineWake _).trans (examineAgenda _))
  · exact refl d

theorem judgeRation (d : Device) (i : Nat) : Lawful d (d.judgeRation i) := by
  unfold Device.judgeRation
  split
  · split
    · rename_i r _ _
      have hmark := (modRec d i fun r => { r with rationSpent := true }).trans
        ((raiseRec _ i r.id fun r => { r with rationSpent := true }).trans (endLease _ i .ration))
      dsimp only
      split
      · exact hmark.trans ((deferClaim _ _ _).trans (serve _))
      · exact hmark
    · exact refl d
  · exact refl d

theorem judgeRations (d : Device) : Lawful d d.judgeRations := foldl judgeRation _ d

theorem mapRecords {g : Record → Record} (hl : e.lease = d.lease) (hc : e.mode.ceiling = d.mode.ceiling)
    (hv : e.mode.level = d.mode.level) (hs : e.settings = d.settings)
    (hr : e.roster.records = d.roster.records.map (Option.map g))
    (hg : ∀ r, (g r).id = r.id ∧ (g r).state = r.state) : Lawful d e := by
  refine steady (.mapRecords (g := g) hl hc hv hs (fun i => ?_) hg)
  rw [rec?, rec?, hr, List.getElem?_map]
  rcases d.roster.records[i]? with _ | o <;> rfl

theorem outageMode (d : Device) : Lawful d d.outageMode where
  law hd := by
    obtain ⟨⟨hsum, hceil, hord, hnodup, hserved⟩, hle⟩ := committedOk_iff.1 hd
    exact committedOk_iff.2 ⟨⟨hsum, hceil, hord, hnodup, hserved⟩, hle⟩
  barred _ := id

theorem outageRecords (d : Device) : Lawful d d.outageRecords :=
  mapRecords (g := Record.outageStart) rfl rfl rfl rfl rfl fun r => by
    unfold Record.outageStart
    dsimp only
    split <;> exact ⟨rfl, rfl⟩

theorem outageEntries (d : Device) : Lawful d d.outageEntries := foldl (fun d i => by
  split
  · split
    · exact joinEntry _ _ _ _
    · exact refl d
  · exact refl d) _ d

theorem outageStart (d : Device) : Lawful d d.outageStart :=
  (((outageMode d).trans (outageRecords _)).trans (outageEntries _)).trans (examineWake _)

theorem endLeasesMains (d : Device) : Lawful d (d.lease.leases.foldl (fun d l => d.endLeaseQuiet l .mains) d) where
  law hd := by
    obtain ⟨hb, hle⟩ := committedOk_iff.1 hd
    obtain ⟨hbooks, -, hmode, hless⟩ := Books.endLeases (w := .mains) (fun _ _ => .inr rfl) d.lease.leases d hb (fun _ => id) hb.nodup
    exact committedOk_iff.2 ⟨hbooks, by rw [hmode]; exact hless.trans hle⟩
  barred _ := foldl_barred (fun e l => endLeaseQuiet_barred e l _) _ d

theorem outageEndLeases (d : Device) : Lawful d d.outageEndLeases :=
  (endLeasesMains d).trans ((foldl (fun d c => deferClaim d c .mains) _ _).trans (examineWake _))

theorem outageEndWakes (d : Device) : Lawful d d.outageEndWakes := by
  have hqueue : Lawful d { d with wake := { d.wake with queue := d.wake.queue.filter fun e => e.isDiscovery } } :=
    of_same rfl rfl rfl rfl rfl
  unfold Device.outageEndWakes
  dsimp only
  split
  · split
    · exact hqueue.trans ((request _ _ _).trans (abandonAttempt _))
    · exact hqueue.trans (examineWake _)
  · exact hqueue.trans (examineWake _)

theorem outageEndTests (d : Device) : Lawful d d.outageEndTests :=
  (foldl endTestMains _ d).trans (of_same rfl rfl rfl rfl rfl)

theorem outageEnd (d : Device) : Lawful d d.outageEnd := by
  have hmode : Lawful d (({ d with mode := { d.mode with mode := .mains, highCount := 0 } } : Device).raiseDev
      fun r => { r with mode := true }) := of_same rfl rfl rfl rfl rfl
  exact ((hmode.trans (outageEndLeases _)).trans (outageEndWakes _)).trans (outageEndTests _)

theorem outageMinute (d : Device) : Lawful d d.outageMinute :=
  mapRecords (g := Record.minute) rfl rfl rfl rfl rfl fun r => by
    unfold Record.minute
    dsimp only
    split <;> split <;> exact ⟨rfl, rfl⟩

theorem wakeTimerExpired (d : Device) (i : Nat) : Lawful d (d.wakeTimerExpired i) := by
  unfold Device.wakeTimerExpired
  split
  · split
    · exact (modRec d i Record.loadWake).trans (requestEntry _ _ _ _)
    · exact refl d
  · exact refl d

theorem testTimerExpired (d : Device) (i : Nat) : Lawful d (d.testTimerExpired i) := by
  unfold Device.testTimerExpired
  split
  · split
    · have hload : Lawful d (d.modRec i Record.loadTest) := modRec d i Record.loadTest
      dsimp only
      split
      · exact hload
      · exact hload.trans (of_same rfl rfl rfl rfl rfl)
    · exact refl d
  · exact refl d

/-! ## The scan round and the overdraw notice -/

theorem addTally (d : Device) (m : Nat) : Lawful d (d.addTally m) := of_same rfl rfl rfl rfl rfl

theorem addUnattributed (d : Device) (m : Nat) : Lawful d (d.addUnattributed m) := of_same rfl rfl rfl rfl rfl

theorem addCharge (d : Device) (i m : Nat) : Lawful d (d.addCharge i m) :=
  (modRec d i fun r => { r with charge := min (r.charge + m) maxCharge }).trans (addTally _ m)

theorem addDue (d : Device) (x : Due) : Lawful d (d.addDue x) := of_same

theorem chargeLine (d : Device) (x : Line) (m : Nat) : Lawful d (d.chargeLine x m) := by
  have hcharge : ∀ (i : Nat) (b : Bool), Lawful d (if b then d.addCharge i m else d) := fun i b => by
    split
    · exact addCharge d i m
    · exact refl d
  unfold Device.chargeLine
  split
  · exact hcharge _ _
  · exact hcharge _ _
  · exact hcharge _ _
  · exact (addUnattributed d m).trans (addTally _ m)
  · exact refl d

theorem scanLine (d : Device) (l v : Nat) : Lawful d (d.scanLine l v) := by
  unfold Device.scanLine
  split
  · dsimp only
    split
    · exact ((chargeLine d _ _).trans (modLine _ _ _)).trans (addDue _ _)
    · exact (chargeLine d _ _).trans (modLine _ _ _)
  · exact refl d

theorem scanReserve (d : Device) (v : Nat) : Lawful d (d.scanReserve v) := by
  have hmeasure : Lawful d { d with reserve := min v 3000, mode := d.mode.measure d.settings (min v 3000) } := by
    refine of_same rfl ?_ ?_ rfl rfl <;>
    · dsimp only
      unfold ModeCtl.measure
      split
      · rfl
      · split <;> rfl
  unfold Device.scanReserve
  dsimp only
  split
  · exact hmeasure.trans ((addDue _ _).trans (addDue _ _))
  · exact hmeasure.trans (judgeRations _)

theorem scanRound (d : Device) (cs : List Nat) (v : Nat) : Lawful d (d.scanRound cs v) :=
  (of_same rfl rfl rfl rfl rfl : Lawful d { d with scanned := true }).trans
    ((foldl (fun d (p : Nat × Nat) => scanLine d p.1 p.2) _ _).trans (scanReserve _ v))

theorem takeNotice (d : Device) (l : Nat) : Lawful d (d.takeNotice l) := by
  unfold Device.takeNotice
  split
  · split
    · have hclear : Lawful d (d.modLine l fun x => { x with overdraw := none }) := modLine d l _
      dsimp only
      split
      · rename_i lease _ _
        split
        · exact hclear
        · split
          · exact hclear.trans ((modLease _ lease.index (g := fun y => { y with strikes := 1 }) fun _ => ⟨rfl, rfl, rfl⟩).trans
              (post _ _ _ _))
          · exact hclear.trans (quarantineD _ _ _ rfl)
      · exact hclear
    · exact refl d
  · exact refl d

end Lawful
end Sys2Proof.Machine
end

section
/-! The uplink path, the frame and the due events keep the law of the committed sum. -/

namespace Sys2Proof.Machine

open Device

namespace Lawful

variable {d e f : Device}

/-! ## Uplink -/

theorem enterFifo (d : Device) (x : FifoEntry) : Lawful d (d.enterFifo x) := by
  unfold Device.enterFifo
  split
  · exact of_same rfl rfl rfl rfl rfl
  · exact refl d

theorem modHolder (d : Device) (n : Nat) (g : Holder → Holder) : Lawful d (d.modHolder n g) := of_same

/-- An update of the Riser Controller. -/
theorem ofRiser (d : Device) (r : Riser) : Lawful d { d with riser := r } := of_same rfl rfl rfl rfl rfl

theorem attachUplink (d : Device) (w : List Byte) : Lawful d (d.attachUplink w) := by
  have hhalf : Lawful d { d with riser := { d.riser with half := 3, drive := none } } := ofRiser d _
  unfold Device.attachUplink
  dsimp only
  split
  · exact hhalf.trans (enterFifo _ _)
  · exact hhalf

theorem terminalUplink (d : Device) (n : Nat) (w : List Byte) : Lawful d (d.terminalUplink n w) := by
  have hhalf : Lawful d { d with riser := { d.riser with half := 2 * n + 1, drive := none } } := ofRiser d _
  unfold Device.terminalUplink
  dsimp only
  split
  · split
    · split
      · split
        · exact (hhalf.trans (modHolder _ _ _)).trans (enterFifo _ _)
        · exact hhalf
      all_goals exact hhalf
    · exact hhalf
  · exact hhalf

theorem resetIdle (d : Device) (i : Nat) : Lawful d (d.resetIdle i) := modRec d i fun r => { r with idle := 0 }

theorem takeRestRequest (d : Device) (i : Nat) (t : TermId) : Lawful d (d.takeRestRequest i t) := by
  unfold Device.takeRestRequest
  split
  · exact post _ _ _ _
  · exact refl d

theorem takeReport (d : Device) (i : Nat) (t : TermId) (b : BatteryReport) : Lawful d (d.takeReport i t b) :=
  ((modRec d i fun r => { r with report := some b }).trans (testReport _ _ _)).trans (leaseReport _ _ _ _)

theorem dispatch (d : Device) (i : Nat) (t : TermId) (w : List Byte) : Lawful d (d.dispatch i t w) := by
  unfold Device.dispatch
  split
  · exact (resetIdle _ _).trans (takeClaim _ _ _ _)
  · exact (resetIdle _ _).trans (takeRenew _ _ _)
  · exact (resetIdle _ _).trans (takeRelease _ _ _)
  · exact takeReport _ _ _ _
  · exact (resetIdle _ _).trans (takeRestRequest _ _ _)
  all_goals exact refl d

theorem takeSequence (d : Device) (n : Nat) (h : Holder) (w : List Byte) : Lawful d (d.takeSequence n h w) := by
  unfold Device.takeSequence
  split
  · exact refl d
  · exact (modHolder _ _ _).trans (dispatch _ _ _ _)

theorem takeTerminal (d : Device) (n : Nat) (k : Count16) (w : List Byte) : Lawful d (d.takeTerminal n k w) := by
  unfold Device.takeTerminal
  split
  · split
    · split
      · dsimp only
        split
        · exact (deliver _ _ _ _).trans (takeSequence _ _ _ _)
        · exact deliver _ _ _ _
      · exact refl d
    all_goals exact refl d
  · exact refl d

theorem takeWord (d : Device) : Lawful d d.takeWord := by
  unfold Device.takeWord
  split
  · exact refl d
  · rename_i x es _
    have hpop : Lawful d { d with riser := { d.riser with fifo := es } } := ofRiser d _
    dsimp only
    split
    · split
      · exact hpop.trans (judgeAnnounce _ _)
      · exact hpop
    · exact hpop.trans (takeTerminal _ _ _ _)

theorem takeRow (d : Device) (k : UpKind) : Lawful d (d.takeRow k) := by
  unfold Device.takeRow
  split
  · exact refl d
  · split
    · exact takeWord _
    · exact refl d

/-! ## The frame start -/

theorem frameIdle (d was : Device) : Lawful d (d.frameIdle was) := foldl (fun d i => by
  split
  · exact modRec d i fun r => { r with idle := min (r.idle + 1) 65535 }
  · exact refl d) _ d

theorem frameCountdowns (d : Device) : Lawful d d.frameCountdowns := by
  have hlease : Lawful d { d with lease := { d.lease with
      leases := d.lease.leases.map Lease.frame
      claims := d.lease.claims.map fun c => { c with wait := c.wait - 1 } } } := by
    refine ofLease ?_ rfl rfl
    rw [List.map_map]
    refine List.map_congr_left fun l _ => ?_
    rw [Function.comp_apply, Lease.frame]
    split <;> rfl
  exact hlease.trans (of_same rfl rfl rfl rfl rfl)

theorem frameMode (d : Device) (b : Bool) : Lawful d (d.frameMode b).1 := by
  have hsample : (d.mode.sample d.settings b).1.ceiling = d.mode.ceiling ∧ (d.mode.sample d.settings b).1.level = d.mode.level := by
    unfold ModeCtl.sample
    split <;> exact ⟨rfl, rfl⟩
  have hclock : ∀ (m : ModeCtl) (x : Option Due), (m.clock x).1.ceiling = m.ceiling ∧ (m.clock x).1.level = m.level := by
    intro m x
    unfold ModeCtl.clock
    split <;> exact ⟨rfl, rfl⟩
  obtain ⟨hsc, hsl⟩ := hsample
  obtain ⟨hcc, hcl⟩ := hclock (d.mode.sample d.settings b).1 (d.mode.sample d.settings b).2
  have hmode : Lawful d { d with mode := ((d.mode.sample d.settings b).1.clock (d.mode.sample d.settings b).2).1 } :=
    of_same rfl (hcc.trans hsc) (hcl.trans hsl) rfl rfl
  unfold Device.frameMode
  dsimp only
  split
  · exact hmode
  · exact hmode.trans (raiseDev _ _)

theorem frameExamine (d was : Device) : Lawful d (d.frameExamine was) := by
  have hstale : Lawful d (if d.evictionStale then d.setEviction none else d) := by
    split
    · exact setEviction _ _
    · exact refl d
  unfold Device.frameExamine
  dsimp only
  split
  · exact hstale.trans (examineWake _)
  · exact hstale

theorem ofDue (d : Device) (xs : List Due) : Lawful d { d with due := xs } := of_same rfl rfl rfl rfl rfl

theorem finish (d : Device) : Lawful d d.finish := by
  unfold Device.finish
  split
  · exact (ofDue d _).trans (examineAgenda _)
  · exact refl d

theorem frameStart (d : Device) (b : Bool) : Lawful d (d.frameStart b) := by
  have hparts : Lawful d ((d.frameRiser.frameIdle d).frameCountdowns) :=
    ((of_same rfl rfl rfl rfl rfl : Lawful d d.frameRiser).trans (frameIdle _ d)).trans (frameCountdowns _)
  exact (((hparts.trans (frameMode _ b)).trans (ofDue _ _)).trans (frameExamine _ d)).trans (finish _)

/-! ## Downlink halves -/

theorem drive (d : Device) (n : Nat) (w : Option (List Byte)) : Lawful d (d.drive n w) := ofRiser d _

theorem beacon (d : Device) : Lawful d d.beacon := drive _ _ _

theorem beaconFirst (d : Device) : Lawful d d.beaconFirst := by
  unfold Device.beaconFirst
  split
  · exact beacon d
  · exact refl d

theorem attachWord (d : Device) : Lawful d d.attachWord := (drive d 2 (some d.attachChoice.bytes)).trans (ofRiser _ _)

theorem terminalDownlink (d : Device) (n : Nat) : Lawful d (d.terminalDownlink n) := by
  unfold Device.terminalDownlink
  split
  · split
    · split
      · exact drive _ _ _
      · split
        · exact (drive _ _ _).trans (declareLost _ _ _)
        · exact (modHolder _ _ _).trans (drive _ _ _)
    · exact drive _ _ _
  · exact drive _ _ _

theorem repeatLimitLost (d : Device) (n : Nat) : Lawful d (d.repeatLimitLost n) := by
  unfold Device.repeatLimitLost
  split
  · split
    · split
      · exact (drive _ _ _).trans (declareLost _ _ _)
      · exact refl d
    · exact refl d
  · exact refl d

/-! ## Due events -/

theorem handle (d : Device) (x : Due) : Lawful d (d.handle x) := by
  cases x with
  | outageStart => exact outageStart d
  | outageEnd => exact outageEnd d
  | outageMinute => exact outageMinute d
  | wakeTimer i => exact wakeTimerExpired d i
  | testTimer i => exact testTimerExpired d i
  | silenceLost n => exact silenceLost d n
  | idleRest i => exact idleRest d i
  | pulseEnd l => exact pulseEnded d l
  | attachWindow => exact attachExpired d
  | discoveryWindow => exact discoveryExpired d
  | leaseExpiry i => exact leaseExpired d i
  | claimWait i => exact claimWaitExpired d i
  | testWindow c => exact testExpired d c .running
  | testBegin c => exact testExpired d c .beginning
  | softstart l => exact softstartDone d l
  | trip l => exact tripDue d l
  | levelChange => exact changeLevel d
  | rations => exact judgeRations d
  | agendaExam => exact examineAgenda d

theorem handleFirst (d : Device) : Lawful d d.handleFirst := by
  unfold Device.handleFirst
  split
  · exact refl d
  · exact ((ofDue d _).trans (handle _ _)).trans (finish _)

theorem settleLoop : ∀ (k : Nat) (d : Device), Lawful d (Device.settleLoop k d)
  | 0, d => refl d
  | k + 1, d => by
    unfold Device.settleLoop
    split
    · exact refl d
    · exact (handleFirst d).trans (settleLoop k _)

theorem settle (d : Device) : Lawful d d.settle := settleLoop _ d

theorem hastenLoop (x : Due) : ∀ (k : Nat) (d : Device), Lawful d (Device.hastenLoop x k d)
  | 0, d => refl d
  | k + 1, d => by
    unfold Device.hastenLoop
    split
    · split
      · exact (handleFirst d).trans (hastenLoop x k _)
      · exact refl d
    · exact refl d

theorem takeDue (d : Device) (x : Due) : Lawful d (d.takeDue x) := by
  unfold Device.takeDue
  split
  · exact (((hastenLoop x _ d).trans (ofDue _ _)).trans (handle _ x)).trans (finish _)
  · exact refl d

theorem tick (d : Device) : Lawful d d.tick := by
  unfold Device.tick
  split
  · exact refl d
  split
  · exact handleFirst d
  split
  · exact takeWord d
  split
  · exact takeNotice d _
  · exact refl d

/-! ## TRIP_N -/

theorem tripPin (d : Device) (l : Nat) (pin : TripPin) : Lawful d (d.tripPin l pin) := by
  unfold Device.tripPin
  split
  · exact modLine d l _
  · split
    · exact refl d
    · exact (modLine d l fun x => { x with tripLow := true }).trans (tripped _ l)

theorem tripLevel (d : Device) (l : Nat) (pin : TripPin) : Lawful d (d.tripLevel l pin) := by
  unfold Device.tripLevel
  split
  · exact modLine d l _
  · split
    · exact refl d
    · exact modLine d l _

theorem tripCommand (d : Device) (l : Nat) (pin : TripPin) : Lawful d (d.tripCommand l pin) := by
  unfold Device.tripCommand
  split
  · refine Lawful.trans ?_ (tripPin _ l pin)
    split
    · exact takeDue _ _
    · exact settle d
  · exact tripLevel _ _ _

end Lawful
end Sys2Proof.Machine
end

section
/-! Resets, requests and transactions keep the law of the committed sum, and so does every step. -/

namespace Sys2Proof.Machine

open Device

/-- A handling keeps the law of the committed sum. -/
def KeepsLaw (d e : Device) : Prop := d.committedOk → e.committedOk

namespace KeepsLaw

variable {d e f : Device}

theorem refl (d : Device) : KeepsLaw d d := id

theorem trans (h : KeepsLaw d e) (g : KeepsLaw e f) : KeepsLaw d f := g ∘ h

theorem followedBy (h : KeepsLaw d e) (g : Lawful e f) : KeepsLaw d f := g.law ∘ h

theorem foldl {α : Type} {g : Device → α → Device} (h : ∀ d a, KeepsLaw d (g d a)) :
    ∀ (as : List α) (d : Device), KeepsLaw d (as.foldl g d)
  | [], d => refl d
  | a :: as, d => (h d a).trans (foldl h as (g d a))

/-- An update of neither the Lease Manager, nor the ceiling and level, nor the records. -/
theorem of_same (hl : e.lease = d.lease := by rfl) (hc : e.mode.ceiling = d.mode.ceiling := by rfl)
    (hv : e.mode.level = d.mode.level := by rfl) (hs : e.settings = d.settings := by rfl)
    (hr : e.roster.records = d.roster.records := by rfl) : KeepsLaw d e := (Lawful.of_same hl hc hv hs hr).law

/-! ## Resets -/

/-- A reset ends every lease (R29, R31). -/
theorem resetTo (d : Device) (k : ResetKind) : KeepsLaw d (d.resetTo k) := fun h => by
  obtain ⟨hb, -⟩ := committedOk_iff.1 h
  refine committedOk_iff.2 ⟨⟨rfl, rfl, ?_, List.nodup_nil, fun _ hl => by cases hl⟩, Nat.zero_le _⟩
  cases k
  · exact hb.ordered
  · rfl

theorem startUp (d : Device) (k : ResetKind) : KeepsLaw d (d.startUp k) := of_same

theorem ofSupply (d : Device) (u : Supply) : KeepsLaw d { d with supply := u } := of_same

theorem resetAndStart (d : Device) (k : ResetKind) : KeepsLaw d (d.resetAndStart k) := by
  unfold Device.resetAndStart
  split
  · exact (resetTo d k).trans (startUp _ k)
  · exact (resetTo d k).trans (ofSupply _ _)

theorem vinFalls (d : Device) : KeepsLaw d d.vinFalls := ofSupply d _

theorem vinReturns (d : Device) (b : Bool) : KeepsLaw d (d.vinReturns b) := by
  unfold Device.vinReturns
  split
  · exact refl d
  · exact (ofSupply d _).trans (resetAndStart _ _)

theorem keepFalls (d : Device) : KeepsLaw d d.keepFalls := by
  unfold Device.keepFalls
  dsimp only
  split
  · exact (ofSupply d _).trans (resetAndStart _ _)
  · exact ofSupply d _

theorem resetNFalls (d : Device) : KeepsLaw d d.resetNFalls := by
  unfold Device.resetNFalls
  dsimp only
  split
  · exact (ofSupply d _).trans (resetAndStart _ _)
  · exact ofSupply d _

theorem resetNLow (d : Device) (n : Nat) : KeepsLaw d (d.resetNLow n) := by
  have hcount : KeepsLaw d { d with freeCount := d.freeCount + 1 } := of_same
  unfold Device.resetNLow
  split
  · exact refl d
  split
  · dsimp only
    split
    · exact hcount.trans (resetNFalls _)
    · exact hcount
  · exact resetNFalls d

theorem resetNRises (d : Device) : KeepsLaw d d.resetNRises := by
  unfold Device.resetNRises
  dsimp only
  split
  · exact (ofSupply d _).trans (startUp _ _)
  · exact ofSupply d _

/-! ## Settings -/

/-- The ceiling follows its setting (R50): a fall sheds, a rise still covers the sum. -/
theorem followCeiling (h : Books none { d with mode := { d.mode with ceiling := d.settings.ceilingOf d.mode.level } })
    (hle : d.lease.committed ≤ d.mode.ceiling) : d.followCeiling.committedOk := by
  unfold Device.followCeiling
  dsimp only
  split
  · exact (Lawful.examineWake _).law h.shed
  rename_i hfall
  split
  · exact ((Lawful.serve _).trans (Lawful.examineWake _)).law (committedOk_iff.2 ⟨h, hle.trans (Nat.le_of_not_lt hfall)⟩)
  · rename_i hrise
    have hsame : d.mode.ceiling = d.settings.ceilingOf d.mode.level :=
      Nat.le_antisymm (Nat.le_of_not_lt hfall) (Nat.le_of_not_lt hrise)
    exact committedOk_iff.2 ⟨⟨h.sum, hsame, h.ordered, h.nodup, h.served⟩, hle⟩

theorem restartLevel_same (d : Device) (old : Settings) : (d.restartLevel old).lease = d.lease
    ∧ (d.restartLevel old).mode.ceiling = d.mode.ceiling ∧ (d.restartLevel old).mode.level = d.mode.level
    ∧ (d.restartLevel old).settings = d.settings ∧ (d.restartLevel old).roster.records = d.roster.records := by
  unfold Device.restartLevel
  dsimp only
  split <;> exact ⟨rfl, rfl, rfl, rfl, rfl⟩

theorem carryConfigure (p : List Byte) (d : Device) : KeepsLaw d (Device.carryConfigure p d).1 := by
  unfold Device.carryConfigure
  split
  · exact refl d
  dsimp only
  split
  · rename_i es _ hok
    intro h
    obtain ⟨⟨hsum, hceil, -, hnodup, hserved⟩, hle⟩ := committedOk_iff.1 h
    generalize es.foldl (fun s e => s.put e.1 e.2) d.settings = new at hok ⊢
    have hord : new.ordered = true := hok.2.2.2.2
    obtain ⟨hl, hc, hv, hs, hr⟩ := restartLevel_same { d with settings := new } d.settings
    have hbooks : Books none { d with settings := new, mode := { d.mode with ceiling := new.ceilingOf d.mode.level } } :=
      ⟨hsum, rfl, hord, hnodup, hserved⟩
    refine followCeiling (hbooks.steady (.of_same hl ?_ hv hs hr)) ?_
    · show Settings.ceilingOf _ _ = _
      rw [hs, hv]
    · rw [hl, hc]
      exact hle
  · exact refl d

/-! ## The roster -/

theorem serving_of_rec?_none {i : Nat} (h : d.rec? i = none) (t : TermId) : d.serving i t = false := by
  unfold serving
  rw [h]

theorem serving_of_idle {i : Nat} {s : RecState} (h : d.inState i s = true) (hs : s.serves = false) (t : TermId) :
    d.serving i t = false := by
  obtain ⟨r, hr, hrs⟩ := inState_iff.1 h
  unfold serving
  rw [hr]
  dsimp only
  rw [hrs, hs, Bool.and_false]

/-- The position of a record that may hold no lease is written (R17, R22). -/
theorem putRec {i : Nat} (h : ∀ t, d.serving i t = false) (o : Option Record) : KeepsLaw d (d.putRec i o) := fun hd => by
  obtain ⟨⟨hsum, hceil, hord, hnodup, hserved⟩, hle⟩ := committedOk_iff.1 hd
  refine committedOk_iff.2 ⟨⟨hsum, hceil, hord, hnodup, fun l hl ho => ?_⟩, hle⟩
  have hs := hserved l hl ho
  have hne : i ≠ l.index := by
    rintro rfl
    rw [h] at hs
    cases hs
  unfold serving at hs ⊢
  rwa [rec?_putRec_other hne]

/-- A request for a record that may hold no lease. -/
theorem requestIdle {i : Nat} {t : TermId} {c : Cause} (h : ∀ s : RecState, s.serves = true → c.target s = none) :
    KeepsLaw d (d.request i t c) := by
  unfold Device.request
  rcases ht : d.transition i t c with _ | e
  · exact refl d
  · obtain ⟨r, st, hr, -, hst, rfl, -⟩ := Sound.transition_rec ht
    refine putRec (fun u => ?_) _
    refine serving_of_idle (inState_iff.2 ⟨r, hr, rfl⟩) ?_ u
    rcases hs : r.state.serves
    · rfl
    · cases (h _ hs).symm.trans hst

theorem modLine (d : Device) (l : Nat) (g : Line → Line) : KeepsLaw d (d.modLine l g) := (Lawful.modLine d l g).law

theorem rec?_emptyIndex {i : Nat} (h : d.emptyIndex = some i) : d.rec? i = none := by
  obtain ⟨⟨o, ho, hnone⟩, -⟩ := findIdx?_some_iff.1 h
  cases o with
  | none => simp [rec?, ho]
  | some r => cases hnone

theorem enrol (d : Device) (t : TermId) (c : Class) (es : List (Nat × Nat)) : KeepsLaw d (d.enrol t c es).1 := by
  unfold Device.enrol
  split
  · exact refl d
  split
  · exact refl d
  split
  · exact refl d
  · rename_i i hi
    have hput := putRec (serving_of_rec?_none (rec?_emptyIndex hi)) (some (Record.enrolled t c es))
    dsimp only
    split
    · exact hput.trans (modLine _ _ _)
    · exact hput

theorem carryEnrol (p : List Byte) (d : Device) : KeepsLaw d (Device.carryEnrol p d).1 := by
  unfold Device.carryEnrol
  dsimp only
  split
  · split
    · exact enrol _ _ _ _
    · exact refl d
  · exact refl d

theorem withKey (d : Device) (p : List Byte) (go : Nat → Record → Device × Answer) (h : ∀ i r, KeepsLaw d (go i r).1) :
    KeepsLaw d (d.withKey p go).1 := by
  unfold Device.withKey
  split
  · exact refl d
  · exact refl d
  · split
    · exact h _ _
    · exact refl d

theorem inOutageMode (d : Device) (p : List Byte) (go : Nat → Record → Device × Answer) (h : ∀ i r, KeepsLaw d (go i r).1) :
    KeepsLaw d (d.inOutageMode p go).1 := by
  unfold Device.inOutageMode
  split
  · exact refl d
  · exact refl d
  · split
    · exact withKey d p go h
    · exact refl d

theorem bare (d : Device) (p : List Byte) (go : Device × Answer) (h : KeepsLaw d go.1) : KeepsLaw d (d.bare p go).1 := by
  unfold Device.bare
  split
  · exact h
  · exact refl d

theorem unlatch (d : Device) (i : Nat) : Lawful d (d.onLineOf i orderUnlatch) := .onLineOf d i Lawful.orderUnlatch

theorem leaveLine (d : Device) (r : Record) : Lawful d (d.leaveLine r) := by
  unfold Device.leaveLine
  split
  · exact (Lawful.modLine d _ _).trans (Lawful.orderUnlatch _ _)
  · exact .refl d

theorem amendLine (d : Device) (i : Nat) (r : Record) (l : Option Nat) : KeepsLaw d (d.amendLine i r l) := by
  unfold Device.amendLine
  split
  · exact refl d
  split
  · rename_i l _
    have hbind : Lawful d ((d.leaveLine r).bindLine i l) := (leaveLine d r).trans (Lawful.bindLine _ i l)
    dsimp only
    split
    · exact (hbind.trans (Lawful.request _ i r.id (c := .amendGaveLine))).law
    · exact hbind.law
  · have hremoved : KeepsLaw d ((d.leaveLine r).request i r.id .amendRemovedLine) :=
      KeepsLaw.trans (leaveLine d r).law (requestIdle fun s => by cases s <;> simp [RecState.serves, Cause.target])
    have hleft := ((hremoved.followedBy (.modRec _ i fun r => { r with line := none })).followedBy (.dropWakeRecord _ i)).followedBy (.removeAgenda _ i)
    dsimp only
    split
    · exact hleft.followedBy (.examineAgenda _)
    · exact hleft

theorem headCheck (h : KeepsLaw d e) : KeepsLaw d (d.headCheck e) := by
  unfold Device.headCheck
  split
  · exact h
  · exact h.followedBy (.examineWake e)

theorem amendRecord (d : Device) (i : Nat) (r : Record) (es : List (Nat × Nat)) : KeepsLaw d (d.amendRecord i r es) := by
  have hfields : KeepsLaw d (d.modRec i fun r => r.amend es) := by
    refine (Lawful.modRec d i _ fun r => ?_).law
    unfold Record.amend
    dsimp only
    split <;> split <;> split <;> exact ⟨rfl, rfl⟩
  unfold Device.amendRecord
  dsimp only
  refine headCheck ?_
  split
  · exact hfields.trans (amendLine _ _ _ _)
  · exact hfields

theorem carryAmend (p : List Byte) (d : Device) : KeepsLaw d (Device.carryAmend p d).1 := by
  unfold Device.carryAmend
  split
  · exact refl d
  split
  · exact refl d
  refine withKey _ _ _ fun i r => ?_
  split
  · exact refl d
  split
  · exact refl d
  · exact amendRecord _ _ _ _

/-- A record torn down as QUARANTINED holds no lease, so that its position may be emptied (R22). -/
theorem empty_torn {i : Nat} (h : Settles i d e) (hbut : d.lawBut i) (hq : d.inState i .quarantined = true) :
    (e.putRec i none).committedOk := putRec (serving_of_idle (h.barred i hq) rfl) none (h.law hbut)

theorem dropReasons (d : Device) (i : Nat) : Lawful d (d.dropReasons i) := .of_same rfl rfl rfl rfl rfl

theorem retireRecord (d : Device) (i : Nat) : KeepsLaw d (d.retireRecord i) := by
  unfold Device.retireRecord
  split
  · rename_i r hr
    intro hd
    obtain ⟨hb, hle⟩ := committedOk_iff.1 hd
    have hbut : (d.modRec i fun r => { r with state := .quarantined, slot := none, lease := false, idle := 0 }).lawBut i :=
      ⟨hb.weaken.leave rfl rfl rfl fun j hij => rec?_modRec_other hij _, hle⟩
    have hquar : (d.modRec i fun r => { r with state := .quarantined, slot := none, lease := false, idle := 0 }).inState i
        .quarantined = true :=
      inState_iff.2 ⟨{ r with state := .quarantined, slot := none, lease := false, idle := 0 },
        by rw [rec?_modRec_same, hr]; rfl, rfl⟩
    dsimp only
    refine empty_torn (Settles.trans ?_ (dropReasons _ i)) hbut hquar
    have hsettled := (((Settles.teardown _ i r.id .retire).trans (unlatch _ i)).trans (.addUnattributed _ r.charge) :
      Settles i (d.modRec i fun r => { r with state := .quarantined, slot := none, lease := false, idle := 0 }) _)
    split
    · exact hsettled.trans (.modLine _ _ _)
    · exact hsettled
  · exact refl d

theorem carryRetire (p : List Byte) (d : Device) : KeepsLaw d (Device.carryRetire p d).1 :=
  withKey _ _ _ fun i _ => retireRecord d i

theorem carryPurge (p : List Byte) (d : Device) : KeepsLaw d (Device.carryPurge p d).1 := bare _ _ _ (foldl retireRecord _ d)

theorem reinstateRecord (d : Device) (i : Nat) (r : Record) : KeepsLaw d (d.reinstateRecord i r) :=
  ((requestIdle (c := .reinstate) fun s => by cases s <;> simp [RecState.serves, Cause.target]).followedBy
    (.modRec _ i fun r => { r with failedWakes := 0, lost := 0 })).followedBy (unlatch _ i)

theorem carryReinstate (p : List Byte) (d : Device) : KeepsLaw d (Device.carryReinstate p d).1 :=
  withKey _ _ _ fun i r => by
    split
    · exact reinstateRecord _ _ _
    · exact refl d

/-! ## Wakes, tests, discoveries -/

theorem carryWake (p : List Byte) (d : Device) : KeepsLaw d (Device.carryWake p d).1 :=
  inOutageMode _ _ _ fun i r => by
    split
    · exact refl d
    split
    · exact refl d
    · exact (Lawful.requestEntry _ _ _ _).law

theorem carryTest (p : List Byte) (d : Device) : KeepsLaw d (Device.carryTest p d).1 :=
  inOutageMode _ _ _ fun i r => by
    split
    · exact refl d
    split
    · exact refl d
    · exact KeepsLaw.followedBy (e := d.joinAgenda i r.id .host) of_same (.examineAgenda _)

theorem carryDiscover (p : List Byte) (d : Device) : KeepsLaw d (Device.carryDiscover p d).1 := by
  unfold Device.carryDiscover
  dsimp only
  split
  · exact refl d
  split
  · exact refl d
  split
  · exact refl d
  split
  · exact refl d
  · exact headCheck (Lawful.joinWake _ _ _).law

/-! ## Requests that read -/

theorem carryIdentify (p : List Byte) (d : Device) : KeepsLaw d (Device.carryIdentify p d).1 := bare _ _ _ (refl d)

theorem carryReadConfig (p : List Byte) (d : Device) : KeepsLaw d (Device.carryReadConfig p d).1 := by
  unfold Device.carryReadConfig
  split <;> exact refl d

theorem carryLookup (p : List Byte) (d : Device) : KeepsLaw d (Device.carryLookup p d).1 := by
  unfold Device.carryLookup
  dsimp only
  split
  · exact refl d
  split
  · exact refl d
  · exact refl d
  · split <;> exact refl d

theorem carryScanNext (p : List Byte) (d : Device) : KeepsLaw d (Device.carryScanNext p d).1 := by
  unfold Device.carryScanNext
  dsimp only
  split
  · exact refl d
  · split <;> exact refl d

theorem carryReserveStatus (p : List Byte) (d : Device) : KeepsLaw d (Device.carryReserveStatus p d).1 := bare _ _ _ (refl d)

theorem carryAttentionRead (p : List Byte) (d : Device) : KeepsLaw d (Device.carryAttentionRead p d).1 := by
  unfold Device.carryAttentionRead
  split <;> exact refl d

theorem carryStrangersRead (p : List Byte) (d : Device) : KeepsLaw d (Device.carryStrangersRead p d).1 := bare _ _ _ (refl d)

/-! ## Attention and reset -/

theorem carryAttentionClear (p : List Byte) (d : Device) : KeepsLaw d (Device.carryAttentionClear p d).1 := by
  unfold Device.carryAttentionClear
  dsimp only
  split
  · exact refl d
  split
  · split
    · exact refl d
    · dsimp only [Device.clearDevice]
      split
      · exact of_same
      · exact of_same
  split
  · exact refl d
  split
  · exact refl d
  · exact of_same

theorem carryReset (p : List Byte) (d : Device) : KeepsLaw d (Device.carryReset p d).1 := by
  unfold Device.carryReset
  split
  · exact (resetTo d .warm).trans (startUp _ _)
  · exact (resetTo d .cold).trans (startUp _ _)
  · exact refl d

theorem carryCode (c : Byte) (p : List Byte) (d : Device) : KeepsLaw d (d.carryCode c p).1 := by
  unfold Device.carryCode
  split
  · exact carryIdentify p d
  · exact carryConfigure p d
  · exact carryReadConfig p d
  · exact carryEnrol p d
  · exact carryAmend p d
  · exact carryRetire p d
  · exact carryPurge p d
  · exact carryReinstate p d
  · exact carryLookup p d
  · exact carryScanNext p d
  · exact carryWake p d
  · exact carryTest p d
  · exact carryDiscover p d
  · exact carryReserveStatus p d
  · exact carryAttentionRead p d
  · exact carryAttentionClear p d
  · exact carryStrangersRead p d
  · exact carryReset p d
  · exact refl d

/-! ## Transactions -/

theorem requestTransaction (d : Device) (bs : List Byte) (carry : Device → Device × Option Answer)
    (h : ∀ d, KeepsLaw d (carry d).1) : KeepsLaw d (d.requestTransaction bs carry) := by
  unfold Device.requestTransaction
  dsimp only
  split
  · generalize hshift : d.shiftOut (d.idleBytes (bs.length - 1)) (bs.length - 1) = e
    have hshifted : KeepsLaw d e := hshift ▸ of_same
    have hcarried := (hshifted.trans (of_same : KeepsLaw e { e with port := { e.port with status := .working, request := bs } })).trans
      (h _)
    unfold Device.receive
    dsimp only
    split
    · exact hcarried.trans of_same
    · exact hcarried
  · exact of_same
  · exact of_same

theorem hostRequest (d : Device) (c : Byte) (p : List Byte) (carry : Device → Device × Option Answer)
    (h : ∀ d, KeepsLaw d (carry d).1) : KeepsLaw d (d.hostRequest c p carry) := by
  refine requestTransaction _ _ _ fun d => ?_
  split
  · exact refl d
  · exact h d

theorem rawRequest (d : Device) (bs : List Byte) : KeepsLaw d (d.rawRequest bs) := by
  refine requestTransaction _ _ _ fun d => ?_
  split
  · exact carryCode _ _ _
  · exact refl d

theorem fetchTransaction (d : Device) (n : Nat) : KeepsLaw d (d.fetchTransaction n) := by
  unfold Device.fetchTransaction
  split
  · exact refl d
  split
  · dsimp only
    split
    · exact of_same
    · exact of_same
  · exact of_same

theorem transaction (d : Device) (bs : List Byte) : KeepsLaw d (d.transaction bs) := by
  unfold Device.transaction
  split
  · exact refl d
  split
  · exact rawRequest _ _
  split
  · exact fetchTransaction _ _
  · exact of_same

end KeepsLaw

/-! ## Every command -/

/-- A command's answer is a next state whose device keeps the law. -/
def AnswersLawful (s : State) (a : Answered) : Prop := ∃ s', a = .next s' ∧ KeepsLaw s.dev s'.dev

namespace AnswersLawful

theorem supply (s : State) (f : Device → Device) (hf : ∀ d, KeepsLaw d (f d)) : AnswersLawful s (s.supply f) :=
  ⟨_, rfl, hf _⟩

theorem outside (s : State) (f : Device → Device) (hf : ∀ d, KeepsLaw d (f d)) : AnswersLawful s (s.outside f) := by
  refine ⟨_, rfl, ?_⟩
  dsimp only
  split
  · exact KeepsLaw.trans (Lawful.settle _).law (hf _)
  · exact .refl _

/-- An event from outside that is handled only where a test holds. -/
theorem outsideIf (s : State) (b : Device → Bool) (f : Device → Device) (hf : ∀ d, KeepsLaw d (f d)) :
    AnswersLawful s (s.outside fun d => if b d then f d else d) :=
  outside s _ fun d => by
    split
    · exact hf d
    · exact .refl d

theorem half (s : State) (ok : Bool) (p : Nat) (f : Device → Device) (hf : ∀ d, Lawful d (f d)) :
    AnswersLawful s (s.half ok p f) := outsideIf s _ f fun d => (hf d).law

theorem named (s : State) (x : Due) : AnswersLawful s (s.named x) := by
  refine ⟨_, rfl, ?_⟩
  dsimp only
  split
  · exact (Lawful.takeDue _ _).law
  · exact .refl _

theorem request (s : State) (code : Byte) (p : List Byte) (carry : List Byte → Device → Device × Answer)
    (h : ∀ p d, KeepsLaw d (carry p d).1) : AnswersLawful s (s.request code p carry) :=
  outside s _ fun d => .hostRequest d code p _ fun e => h p e

theorem exec (c : Instr) (s : State) : AnswersLawful s (exec c s) := by
  cases c with
  | vinLoss => exact supply s _ .vinFalls
  | vinReturn b => exact supply s _ fun d => .vinReturns d b
  | keepLoss => exact supply s _ .keepFalls
  | resetNLow ns => exact supply s _ fun d => .resetNLow d ns
  | resetNRise => exact supply s _ .resetNRises
  | frameStart b => exact outside s _ fun d => (Lawful.frameStart d b).law
  | outageStart | outageEnd | outageMinute | wakeTimerExpiry | testTimerExpiry | silenceLost | idleRest | attachWindowExpiry
  | discoveryWindowExpiry | pulseEnd | softstartComplete | levelChange | leaseExpiry | claimWaitExpiry | testWindowEnd
  | testBeginTimeout => exact named s _
  | beacon => exact half s _ _ _ .beacon
  | attachWord => exact half s _ _ _ .attachWord
  | terminalDownlink n => exact half s _ _ _ fun d => .terminalDownlink d n
  | repeatLimitLost n => exact half s _ _ _ fun d => .repeatLimitLost d n
  | attachUplink w => exact half s _ _ _ fun d => .attachUplink d w
  | terminalUplink n w => exact half s _ _ _ fun d => .terminalUplink d n w
  | announce | claim | renew | release | report | restRequest | nop | unknownUplinkKind =>
    exact outside s _ fun d => (Lawful.takeRow d _).law
  | trip l pin => exact ⟨_, rfl, (Lawful.tripCommand s.dev l pin).law⟩
  | scanRound cs v =>
    exact outsideIf s (fun _ => cs.length == 64) (fun d => if d.roundOpen then d.beaconFirst.scanRound cs v else d) fun d => by
      split
      · exact ((Lawful.beaconFirst d).trans (.scanRound _ cs v)).law
      · exact .refl d
  | overdrawNotice l => exact outside s _ fun d => (Lawful.takeNotice d l).law
  | fetch n => exact outside s _ fun d => .fetchTransaction d n
  | unknownTransaction bs => exact outside s _ fun d => .transaction d bs
  | unknownRequest code p => exact outside s _ fun d => .hostRequest d code p _ fun e => .carryCode code p e
  | identify p => exact request s _ p _ .carryIdentify
  | configure p => exact request s _ p _ .carryConfigure
  | readConfig p => exact request s _ p _ .carryReadConfig
  | enrol p => exact request s _ p _ .carryEnrol
  | amend p => exact request s _ p _ .carryAmend
  | retire p => exact request s _ p _ .carryRetire
  | purge p => exact request s _ p _ .carryPurge
  | reinstate p => exact request s _ p _ .carryReinstate
  | lookup p => exact request s _ p _ .carryLookup
  | scanNext p => exact request s _ p _ .carryScanNext
  | wake p => exact request s _ p _ .carryWake
  | test p => exact request s _ p _ .carryTest
  | discover p => exact request s _ p _ .carryDiscover
  | reserveStatus p => exact request s _ p _ .carryReserveStatus
  | attentionRead p => exact request s _ p _ .carryAttentionRead
  | attentionClear p => exact request s _ p _ .carryAttentionClear
  | strangersRead p => exact request s _ p _ .carryStrangersRead
  | reset p => exact outside s _ fun d => .hostRequest d _ p _ fun e => .carryReset p e
  | requestBadFrame bs => exact outside s _ fun d => .rawRequest d bs

end AnswersLawful

/-- Settles O60: a step is a command carried out with the queue's rest, or a tick, and each keeps the law. -/
theorem stepKeepsCommittedLaw : Obligations.StepKeepsCommittedLaw := by
  unfold Obligations.StepKeepsCommittedLaw
  intro s s' hok hstep
  unfold step at hstep
  split at hstep
  · rename_i c rest _
    obtain ⟨s'', hanswer, hlaw⟩ := AnswersLawful.exec c { s with pending := rest }
    cases hanswer.symm.trans hstep
    exact hlaw hok
  · cases hstep
    exact (Lawful.tick s.dev).law hok

end Sys2Proof.Machine
end

section
/-! Supplies, RESET_N and resets (R31 to R34, R182, R193), the controller after a reset, and the judgement of a sample (R36, R37). -/

namespace Sys2Proof.Machine

open Device

namespace Device

theorem resetTo_supply (d : Device) (k : ResetKind) : (d.resetTo k).supply = d.supply := rfl

/-- A reset looks at neither the supplies nor a free value's count, but hands both on. -/
theorem resetTo_withSupply (d : Device) (u : Supply) (k : ResetKind) :
    ({ d with supply := u } : Device).resetTo k = { d.resetTo k with supply := u } := rfl

/-- A reset with RESET_N high is followed by start-up at once (R33, R34). -/
theorem resetAndStart_high {d : Device} (h : d.supply.resetN = true) (k : ResetKind) :
    d.resetAndStart k = (d.resetTo k).startUp k := if_pos h

/-- A reset with RESET_N low is held (R33). -/
theorem resetAndStart_low {d : Device} (h : d.supply.resetN = false) (k : ResetKind) :
    d.resetAndStart k = { d.resetTo k with supply := { d.supply with holding := some k } } :=
  if_neg (by simp [h])

/-- A reset under given supplies, in both levels of RESET_N. -/
theorem resetAndStart_supply (d : Device) (u : Supply) (hv : u.vin = true) (k : ResetKind) :
    ({ d with supply := u } : Device).resetAndStart k = if u.resetN then
        { d.resetTo k with
          supply := ⟨true, true, false, none⟩
          port := { (d.resetTo k).port with device := { (d.resetTo k).port.device with restarted := some k } } }
      else { d.resetTo k with supply := ⟨true, false, u.keepLost, some k⟩ } := by
  obtain ⟨vin, resetN, keepLost, holding⟩ := u
  obtain rfl : vin = true := hv
  cases resetN with
  | true => exact resetAndStart_high rfl k
  | false => exact resetAndStart_low rfl k

end Device

/-- Settles O5: with VIN absent only the marks change, and with VIN present a reset follows (`resetAndStart_supply`). -/
theorem supplyCommands : Obligations.SupplyCommands := by
  unfold Obligations.SupplyCommands
  refine ⟨fun s => ⟨rfl, rfl⟩, fun s keepBelow => ⟨fun hv => ?_, fun hv => ?_⟩, fun s => ⟨fun hv => ?_, fun hv => ?_⟩⟩
  · show Host.Outcome.next { s with dev := s.dev.vinReturns keepBelow } = _
    rw [vinReturns, if_pos hv]
  · show Host.Outcome.next { s with dev := s.dev.vinReturns keepBelow } = _
    rw [vinReturns, if_neg (by simp [hv])]
    exact congrArg (fun d => (.next ⟨d, s.pending⟩ : Answered))
      (resetAndStart_supply s.dev { s.dev.supply with vin := true, keepLost := s.dev.supply.keepLost || keepBelow } rfl _)
  · show Host.Outcome.next { s with dev := s.dev.keepFalls } = _
    rw [keepFalls, if_neg (by simp [hv])]
  · show Host.Outcome.next { s with dev := s.dev.keepFalls } = _
    rw [keepFalls, if_pos hv]
    exact congrArg (fun d => (.next ⟨d, s.pending⟩ : Answered))
      (resetAndStart_supply s.dev { s.dev.supply with keepLost := true } hv .cold)

/-- RESET_N taken as low: a warm reset that is held, or with VIN absent the level alone (R33). -/
theorem Device.resetNFalls_eq (d : Device) : d.resetNFalls =
    if d.supply.vin then { d.resetTo .warm with supply := { d.supply with resetN := false, holding := some .warm } }
    else { d with supply := { d.supply with resetN := false } } := by
  unfold resetNFalls
  dsimp only
  split
  · exact resetAndStart_low (d := { d with supply := { d.supply with resetN := false } }) rfl .warm
  · rfl

/-- Settles O6: the time low decides whether RESET_N is taken (R193), and `resetNFalls_eq` says what it then does. -/
theorem resetPinCommands : Obligations.ResetPinCommands := by
  unfold Obligations.ResetPinCommands
  refine ⟨fun s ns => ?_, fun s => ?_⟩
  · have hexec : exec (.resetNLow ns) s = .next ⟨s.dev.resetNLow ns, s.pending⟩ := rfl
    intro held
    refine ⟨fun h => ?_, fun hn hns => ?_, fun hn hlow hhigh => ?_⟩
    · have hignored : (!s.dev.supply.resetN || decide (ns < 1000)) = true := by simpa using h
      rw [hexec, resetNLow, if_pos hignored]
    · have htaken : ¬ (!s.dev.supply.resetN || decide (ns < 1000)) = true := by
        simp only [hn, Bool.not_true, Bool.false_or, decide_eq_true_eq]
        omega
      rw [hexec, resetNLow, if_neg htaken, if_neg (by omega), resetNFalls_eq]
    · have hmarginal : ¬ (!s.dev.supply.resetN || decide (ns < 1000)) = true := by
        simp only [hn, Bool.not_true, Bool.false_or, decide_eq_true_eq]
        omega
      rw [hexec, resetNLow, if_neg hmarginal, if_pos hhigh]
      dsimp only
      split
      · right
        rw [resetNFalls_eq]
      · left
        rfl
  · show Host.Outcome.next { s with dev := s.dev.resetNRises } = _
    unfold resetNRises
    dsimp only
    rcases s.dev.supply.vin with _ | _
    · rfl
    · rcases s.dev.supply.holding with _ | kind
      · rfl
      · rfl

/-- Settles O7: `resetTo` spells the controller out, and takes the settings by its kind. -/
theorem resetControllerTable : Obligations.ResetControllerTable := by
  unfold Obligations.ResetControllerTable
  exact fun d kind => ⟨rfl, rfl, rfl⟩

/-- The initial state has no lease, and the default settings keep their orders (R106). -/
theorem reset_committedOk : State.reset.dev.committedOk :=
  ⟨rfl, Nat.zero_le _, rfl, rfl, List.nodup_nil, rfl⟩

/-- Settles O10: the initial state is one closed value, except that the index is any number. -/
theorem stateAfterReset : Obligations.StateAfterReset := by
  unfold Obligations.StateAfterReset
  refine ⟨⟨rfl, rfl, rfl, rfl, fun i => ?_, ?_⟩, ?_, reset_committedOk⟩
  · exact rec?_resetTo_cold State.reset.dev i
  · decide +kernel
  · decide +kernel

/-- Settles O11: table 2-2 mode by mode. -/
theorem sampleTable : Obligations.SampleTable := by
  unfold Obligations.SampleTable
  intro m s
  refine ⟨fun h => ?_, fun h => ?_, fun h => ?_, fun h => ?_⟩ <;>
  · unfold ModeCtl.sample
    rw [h]
    exact ⟨rfl, rfl⟩

/-! ## RESET at the host port -/

/-- A request that the port takes and whose carrying gives no answer. -/
theorem State.reset_takes {s : State} {d : Device} {p : List Byte} (h : s.takes p d) {carry : Device → Device × Option Answer}
    (hnone : (carry (d.working 0x3F p)).2 = none) :
    (s.outside fun d => d.hostRequest 0x3F p carry) = .next ⟨(carry (d.working 0x3F p)).1, s.pending⟩ := by
  obtain ⟨hs, hi, hp⟩ := h
  have h32 : ¬ 32 < p.length := by omega
  have hl : 4 + p.length - 1 = 3 + p.length := by omega
  unfold working at hnone ⊢
  rw [outside_settled hs]
  unfold hostRequest requestTransaction
  simp only [hi, requestBytes_length, hl, receive, shiftOut, if_neg h32, hnone]

/-- RESET of a kind: the reset and its start-up, and no answer (R182). -/
theorem Device.carryReset_kind {b : Byte} {kind : ResetKind} (h : (b = 1 ∧ kind = .warm) ∨ (b = 2 ∧ kind = .cold)) (d : Device) :
    carryReset [b] d = ((d.resetTo kind).startUp kind, none) := by
  rcases h with ⟨rfl, rfl⟩ | ⟨rfl, rfl⟩ <;> rfl

theorem Device.carryReset_bad {p : List Byte} (h1 : p ≠ [1]) (h2 : p ≠ [2]) (d : Device) :
    carryReset p d = (d, some (fails .badValue)) := by
  unfold carryReset
  split
  · exact absurd rfl h1
  · exact absurd rfl h2
  · rfl

/-- Settles O9: a carried RESET leaves `startUp` of `resetTo`, and any other parameters draw BAD_VALUE. -/
theorem resetRequest : Obligations.ResetRequest := by
  unfold Obligations.ResetRequest
  intro s d ht
  obtain ⟨hs, hi, -⟩ := ht
  refine ⟨fun b kind hb => ?_, fun p hp h1 h2 => ?_⟩
  · refine ⟨(d.working 0x3F [b]).freeCount, (d.working 0x3F [b]).port.sdo, ?_⟩
    have hcarry : carryReset [b] (d.working 0x3F [b]) = (((d.working 0x3F [b]).resetTo kind).startUp kind, none) :=
      carryReset_kind hb _
    refine (State.reset_takes ⟨hs, hi, by simp⟩ (carry := carryReset [b]) (by rw [hcarry])).trans ?_
    rw [hcarry]
    cases kind <;> rfl
  · have hcarry : carryReset p = fun d => answered (d, fails .badValue) := funext (carryReset_bad h1 h2)
    show (s.outside fun d => d.hostRequest 0x3F p (carryReset p)) = _
    rw [hcarry]
    exact State.request_takes (carry := fun _ d => (d, fails .badValue)) ⟨hs, hi, hp⟩ rfl

end Sys2Proof.Machine
end

section
/-! No event is taken without VIN or in a held reset (R32, R33); the outputs and the status byte (R54, R135, R173, R186); what a
step does on an empty queue (log 1 to log 3). -/

namespace Sys2Proof.Machine

open Device

/-! ## Without VIN, or in a held reset -/

/-- An event that is taken only while the device runs, whether it comes from outside or is a due one (`State.outside`,
`State.named`). -/
theorem State.untaken {s : State} (h : s.dev.running = false) (d : Device) :
    (.next { s with dev := if s.dev.running then d else s.dev } : Answered) = .next s := by
  rw [if_neg (by simp [h])]

/-- Settles O3: an event from outside and a named event are not taken, and TRIP_N keeps its level alone. -/
theorem absentOrHeldTakesNoEvent : Obligations.AbsentOrHeldTakesNoEvent := by
  unfold Obligations.AbsentOrHeldTakesNoEvent
  intro c s h
  have htrip : ∀ l pin, exec (.trip l pin) s = .next ⟨s.dev.tripLevel l pin, s.pending⟩ := fun l pin => by
    show Host.Outcome.next { s with dev := s.dev.tripCommand l pin } = _
    rw [tripCommand, if_neg (by simp [h])]
  cases c with
  | vinLoss | vinReturn | keepLoss | resetNLow | resetNRise => trivial
  | trip l pin =>
    cases pin with
    | release => exact htrip l .release
    | low ns => exact htrip l (.low ns)
  | _ => exact State.untaken h _

/-! ## Outputs and the status byte -/

theorem RecReasons.any_iff (x : RecReasons) : x.any = true ↔
    x.quarantined = true ∨ x.verdict = true ∨ x.lost = true ∨ x.rationSpent = true ∨ x.bound = true ∨ x.unplaced = true := by
  simp only [RecReasons.any, Bool.or_eq_true, or_assoc]

namespace Device

theorem attention_iff (d : Device) : d.attention = true ↔
    d.port.device.restarted.isSome = true ∨ d.port.device.mode = true ∨ d.port.device.level = true
      ∨ d.port.device.stranger = true ∨ d.port.device.discovery = true
      ∨ ∃ x ∈ d.port.records, x.quarantined = true ∨ x.verdict = true ∨ x.lost = true ∨ x.rationSpent = true ∨ x.bound = true
        ∨ x.unplaced = true := by
  simp only [attention, DevReasons.any, Bool.or_eq_true, or_assoc, List.any_eq_true, RecReasons.any_iff]

theorem raiseRec_foreign {d : Device} {i : Nat} {t : TermId} (h : ∀ r, d.rec? i = some r → r.id ≠ t)
    (f : RecReasons → RecReasons) : d.raiseRec i t f = d := by
  have hnames : d.names i t = false := by
    rcases hr : d.rec? i with _ | r
    · unfold names
      rw [hr]
    · rw [names_eq hr]
      exact beq_eq_false_iff_ne.2 (h r hr)
  unfold raiseRec
  rw [if_neg (by simp [hnames])]

theorem raiseRec_named {d : Device} {i : Nat} {r : Record} (h : d.rec? i = some r) (f : RecReasons → RecReasons) :
    d.raiseRec i r.id f = { d with port := { d.port with records := d.port.records.modify i f } } := by
  unfold raiseRec
  rw [if_pos (by simp [names_eq h])]

theorem reasonsOf_some {d : Device} {i : Nat} {x : RecReasons} (h : d.port.records[i]? = some x) : d.reasonsOf i = x := by
  rw [reasonsOf, List.getD_eq_getElem?_getD, h, Option.getD_some]

theorem reasonsOf_none {d : Device} {i : Nat} (h : d.port.records[i]? = none) : d.reasonsOf i = .empty := by
  rw [reasonsOf, List.getD_eq_getElem?_getD, h, Option.getD_none]

theorem statusByte_toNat (d : Device) : d.statusByte.toNat = 80 + (if d.attention then 8 else 0)
    + (if d.port.overlap then 4 else 0) + d.port.status.bits := by
  have hbits : d.port.status.bits ≤ 2 := by cases d.port.status <;> decide
  rw [statusByte, BitVec.toNat_ofNat]
  cases d.attention <;> cases d.port.overlap <;> simp only [Bool.toNat_true, Bool.toNat_false, if_true, Bool.false_eq_true,
    if_false] <;> omega

end Device

/-- Settles O4: each output and the status byte by its own definition. -/
theorem outputsAndStatusByte : Obligations.OutputsAndStatusByte := by
  unfold Obligations.OutputsAndStatusByte
  refine ⟨fun d => ⟨fun h => ⟨?_, fun l => ?_, ?_⟩, fun h => ⟨?_, ?_, fun l x hx => ?_⟩⟩, attention_iff,
    fun d i t f => ⟨fun h => raiseRec_foreign h f, ?_, fun x => reasonsOf_some, reasonsOf_none⟩, fun d => ?_,
    fun d k => ⟨fun h => ?_, fun h => ⟨fun hk => ?_, fun b hb => ?_⟩⟩⟩
  · rw [attnLow, h, Bool.false_and]
  · rw [feedLevel, if_neg (by simp [h])]
  · rw [riserWord, if_neg (by simp [h])]
  · rw [attnLow, h, Bool.true_and]
  · rw [riserWord, if_pos h]
  · rw [feedLevel, if_pos h, hx]
    cases hs : x.switch <;> simp only [Switch.level, hs]
  · rintro r hr rfl
    exact raiseRec_named hr f
  · rw [statusByte_toNat]
    cases d.port.status <;> rfl
  · rw [sdoByte, if_neg (by simp [h])]
  · rw [sdoByte, if_pos h, List.getElem?_eq_none hk]
    rfl
  · rw [sdoByte, if_pos h, hb]
    rfl

/-! ## A step on an empty queue -/

namespace Device

theorem handleFirst_cons {d : Device} {e : Due} {es : List Due} (h : d.due = e :: es) :
    d.handleFirst = (({ d with due := es } : Device).handle e).finish := by
  unfold handleFirst
  rw [h]

theorem handleFirst_nil {d : Device} (h : d.due = []) : d.handleFirst = d := by
  unfold handleFirst
  rw [h]

theorem tick_stopped {d : Device} (h : d.running = false) : d.tick = d := by
  unfold tick
  rw [if_pos (by simp [h])]

theorem tick_due {d : Device} {e : Due} {es : List Due} (hr : d.running = true) (h : d.due = e :: es) :
    d.tick = (({ d with due := es } : Device).handle e).finish := by
  unfold tick
  rw [if_neg (by simp [hr]), if_pos (by simp [h]), handleFirst_cons h]

theorem tick_word {d : Device} (hr : d.running = true) (h : d.due = []) (hf : d.riser.fifo ≠ []) : d.tick = d.takeWord := by
  unfold tick
  rw [if_neg (by simp [hr]), if_neg (by simp [h]), if_pos (by simpa using hf)]

theorem tick_notice {d : Device} {l : Nat} (hr : d.running = true) (h : d.due = []) (hf : d.riser.fifo = [])
    (hl : d.lines.findIdx? (fun x => x.overdraw.isSome) = some l) : d.tick = d.takeNotice l := by
  unfold tick
  rw [if_neg (by simp [hr]), if_neg (by simp [h]), if_neg (by simp [hf]), hl]

theorem tick_idle {d : Device} (h : d.due = []) (hf : d.riser.fifo = []) (ho : ∀ x ∈ d.lines, x.overdraw = none) :
    d.tick = d := by
  have hnone : d.lines.findIdx? (fun x => x.overdraw.isSome) = none :=
    List.findIdx?_eq_none_iff.2 fun x hx => by rw [ho x hx]; rfl
  rcases hr : d.running with _ | _
  · exact tick_stopped hr
  · unfold tick
    rw [if_neg (by simp [hr]), if_neg (by simp [h]), if_neg (by simp [hf]), hnone]

/-- The oldest due event, named by the sender, is handled as a step on an empty queue handles it. -/
theorem takeDue_head {d : Device} {e : Due} {es : List Due} (h : d.due = e :: es) :
    d.takeDue e = (({ d with due := es } : Device).handle e).finish := by
  have hnone : d.hasten e = d := hasten_none fun x hx => .inr (by rw [h] at hx; exact (Option.some_inj.1 hx).symm)
  unfold takeDue
  rw [if_pos (by simp [h])]
  dsimp only
  rw [hnone, h, List.erase_cons_head]

/-- A handling of every due event is the handling of the oldest, again and again. -/
theorem settleLoop_eq : ∀ (k : Nat) (d : Device), d.settleLoop k = handleFirst^[k] d
  | 0, _ => rfl
  | k + 1, d => by
    unfold settleLoop
    rcases hd : d.due with _ | ⟨e, es⟩
    · exact (Function.iterate_fixed (handleFirst_nil hd) (k + 1)).symm
    · exact settleLoop_eq k _

/-- The oldest due event handled where it is urgent and not the one named. -/
def hastenFirst (e : Due) (d : Device) : Device := if d.due.head?.any (fun x => x.urgent && x != e) then d.handleFirst else d

theorem hastenLoop_eq (e : Due) : ∀ (k : Nat) (d : Device), d.hastenLoop e k = (hastenFirst e)^[k] d
  | 0, _ => rfl
  | k + 1, d => by
    unfold hastenLoop
    rcases hd : d.due with _ | ⟨x, xs⟩
    · have hfixed : hastenFirst e d = d := by
        unfold hastenFirst
        rw [hd]
        rfl
      exact (Function.iterate_fixed hfixed (k + 1)).symm
    · have hfirst : hastenFirst e d = if x.urgent && x != e then d.handleFirst else d := by
        unfold hastenFirst
        rw [hd]
        rfl
      by_cases hx : (x.urgent && x != e) = true
      · rw [if_pos hx] at hfirst
        rw [Function.iterate_succ_apply, hfirst, ← hastenLoop_eq e k]
        exact if_pos hx
      · rw [if_neg hx] at hfirst
        rw [Function.iterate_fixed hfirst (k + 1)]
        exact if_neg hx

theorem takeRow_row {d : Device} {e : FifoEntry} {es : List FifoEntry} {k : UpKind} (h : d.riser.fifo = e :: es) (hk : e.row = k) :
    d.takeRow k = d.takeWord := by
  unfold takeRow
  rw [h]
  exact if_pos hk

end Device

/-- The command that takes words of a row of table 3-4. -/
def UpKind.command : UpKind → Instr
  | .claim => .claim | .renew => .renew | .release => .release | .report => .report | .restRequest => .restRequest | .nop => .nop
  | .announce => .announce | .unknown => .unknownUplinkKind

theorem UpKind.command_exec (k : UpKind) (s : State) : exec k.command s = s.outside fun d => d.takeRow k := by
  cases k <;> rfl

/-- Settles O2: `tick` case by case, and the commands that name its event. -/
theorem stepOnEmptyQueue : Obligations.StepOnEmptyQueue := by
  unfold Obligations.StepOnEmptyQueue
  refine ⟨fun d => ⟨d.tick, rfl, tick_stopped, fun e es => tick_due, tick_word, fun l => tick_notice, tick_idle⟩,
    fun d q hr => ⟨fun e es he => ?_, fun hd => ?_⟩, fun d => ⟨rfl, finish_none, fun es he => ?_⟩, ?_⟩
  · intro c c' hc
    have hnamed : (State.mk d q).named e = .next ⟨(({ d with due := es } : Device).handle e).finish, q⟩ := by
      unfold State.named
      rw [if_pos hr, takeDue_head he]
    cases e <;> simp only [c, reduceCtorEq, Option.some.injEq] at hc <;> subst hc <;> exact hnamed
  · have hsettled : (State.mk d q).settled d := ⟨hr, settle_none hd⟩
    refine ⟨fun e es he => ?_, fun l => State.outside_settled hsettled fun d => d.takeNotice l⟩
    intro c
    have hc : c = e.row.command := by
      obtain ⟨origin, word⟩ := e
      cases origin <;> rcases hk : upKind word <;> simp only [c, FifoEntry.row, hk, UpKind.command]
    rw [hc, UpKind.command_exec, State.outside_settled hsettled, takeRow_row he rfl]
  · unfold finish
    rw [he]
  · intro first urgent d
    have hfirst : first = handleFirst := rfl
    have hurgent : urgent = Due.urgent := by
      funext x
      cases x <;> rfl
    rw [hfirst, hurgent]
    exact ⟨settleLoop_eq _ d, fun e => hastenLoop_eq e _ d⟩

end Sys2Proof.Machine
end

section
/-! CONFIGURE (R50, R51, R184; table 8-4) and the reserve: its measurement, a change of level and the ration judgement (R44 to R49,
R125, R145). -/

namespace Sys2Proof.Machine

open Device

/-! ## Settings by number -/

theorem settingRange_beyond {n : Nat} (h : 27 < n) : settingRange n = (1, 0) := by
  obtain ⟨k, rfl⟩ : ∃ k, n = k + 28 := ⟨n - 28, by omega⟩
  rfl

theorem settingOk_iff (e : Nat × Nat) : settingOk e = true ↔ (settingRange e.1).1 ≤ e.2 ∧ e.2 ≤ (settingRange e.1).2 := by
  simp only [settingOk, Bool.and_eq_true, decide_eq_true_eq]

namespace Settings

theorem get_beyond {m : Nat} (h : 27 < m) (s : Settings) : s.get m = none := by
  obtain ⟨k, rfl⟩ : ∃ k, m = k + 28 := ⟨m - 28, by omega⟩
  rfl

/-- What a setting reads after one is written. -/
theorem get_put {n : Nat} (h1 : 1 ≤ n) (hn : n ≤ 27) (s : Settings) (v m : Nat) :
    (s.put n v).get m = if m = n then some v else s.get m := by
  rcases Nat.lt_or_ge 27 m with hm | hm
  · rw [get_beyond hm, get_beyond hm, if_neg (by omega)]
  · interval_cases n <;> interval_cases m <;> rfl

theorem ordered_iff (s : Settings) : s.ordered = true ↔
    s.exhaustedEnter < s.exhaustedLeave ∧ s.exhaustedLeave ≤ s.criticalEnter ∧ s.criticalEnter < s.criticalLeave
      ∧ s.criticalLeave ≤ s.lowEnter ∧ s.lowEnter < s.lowLeave ∧ s.criticalCeiling ≤ s.lowCeiling
      ∧ s.lowCeiling ≤ s.normalCeiling ∧ s.passDrop < s.weakDrop := by
  simp only [ordered, Bool.and_eq_true, decide_eq_true_eq, and_assoc]

end Settings

/-! ## CONFIGURE -/

namespace Device

/-- The device with the ceiling in force at a value. -/
def withCeiling (d : Device) (c : Nat) : Device := { d with mode := { d.mode with ceiling := c } }

/-- A ceiling that has fallen sheds, one that has risen is served (R50). -/
theorem followCeiling_eq {d : Device} {c : Nat} (hc : d.settings.ceilingOf d.mode.level = c) : d.followCeiling =
    if c < d.mode.ceiling then (d.withCeiling c).shed.examineWake
    else if d.mode.ceiling < c then (d.withCeiling c).serve.examineWake else d.withCeiling c := by
  unfold followCeiling
  dsimp only
  rw [hc]
  rcases Nat.lt_trichotomy c d.mode.ceiling with h | h | h
  · rw [if_pos h, if_pos h]
    rfl
  · rw [if_neg h.not_lt, if_neg h.not_lt, if_neg h.not_gt, if_neg h.not_gt, h]
    rfl
  · rw [if_neg h.not_gt, if_neg h.not_gt, if_pos h, if_pos h]
    rfl

/-- The thresholds and the level confirm of two settings agree (R51). -/
def sameLevels (new old : Settings) : Prop :=
  new.lowEnter = old.lowEnter ∧ new.lowLeave = old.lowLeave ∧ new.criticalEnter = old.criticalEnter
    ∧ new.criticalLeave = old.criticalLeave ∧ new.exhaustedEnter = old.exhaustedEnter ∧ new.exhaustedLeave = old.exhaustedLeave
    ∧ new.levelConfirm = old.levelConfirm

theorem restartLevel_same_levels {d : Device} {old : Settings} (h : sameLevels d.settings old) : d.restartLevel old = d := if_pos h

theorem restartLevel_new_levels {d : Device} {old : Settings} (h : ¬ sameLevels d.settings old) :
    d.restartLevel old = { d with mode := { d.mode with evidence := .none, confirm := 0 } } := if_neg h

theorem carryConfigure_unparsed {p : List Byte} (h : parseEntries p = none) (d : Device) :
    carryConfigure p d = (d, .badValue, []) := by
  unfold carryConfigure
  rw [h]
  rfl

/-- The judgement of a CONFIGURE whose entries parse (R184). -/
theorem carryConfigure_parsed {p : List Byte} {es : List (Nat × Nat)} (h : parseEntries p = some es) (d : Device) {new : Settings}
    (hnew : es.foldl (fun x e => x.put e.1 e.2) d.settings = new) : carryConfigure p d =
    if 1 ≤ es.length ∧ es.length ≤ 10 ∧ distinctNumbers es ∧ es.all settingOk ∧ new.ordered then
      ((({ d with settings := new } : Device).restartLevel d.settings).followCeiling, okBare)
    else (d, fails .badValue) := by
  subst hnew
  unfold carryConfigure
  rw [h]

end Device

/-- Settles O53: the tables by evaluation, the numbers by `Settings.get_put`, the request by `State.request_takes`. -/
theorem configureEffect : Obligations.ConfigureEffect := by
  unfold Obligations.ConfigureEffect
  refine ⟨⟨by decide, by decide, fun n => settingRange_beyond, fun s n v h1 hn => ⟨?_, fun m hm => ?_⟩⟩, ?_⟩
  · rw [Settings.get_put h1 hn, if_pos rfl]
  · rw [Settings.get_put h1 hn, if_neg hm]
  intro s d p ht w
  refine ⟨fun hp => State.request_takes ht (carryConfigure_unparsed hp w), fun es hp => ?_⟩
  intro new ok
  have hcarry : carryConfigure p w = _ := carryConfigure_parsed hp w (new := new) rfl
  have hok : ok ↔ 1 ≤ es.length ∧ es.length ≤ 10 ∧ distinctNumbers es ∧ es.all settingOk ∧ new.ordered := by
    rw [distinctNumbers_iff, Settings.ordered_iff, List.all_eq_true]
    simp only [settingOk_iff]
    rfl
  refine ⟨fun hbad => ?_, fun hgood => ?_⟩
  · rw [if_neg (hok.not.1 hbad)] at hcarry
    exact State.request_takes ht hcarry
  · rw [if_pos (hok.1 hgood)] at hcarry
    intro same ceiling e
    refine (State.request_takes ht hcarry).trans ?_
    have hfollow : ∀ x : Device, x.mode.level = d.mode.level → x.settings = new → x.mode.ceiling = d.mode.ceiling →
        x.withCeiling ceiling = e → x.followCeiling = if ceiling < d.mode.ceiling then e.shed.examineWake
          else if d.mode.ceiling < ceiling then e.serve.examineWake else e := by
      intro x hl hs hm he
      have hc : x.settings.ceilingOf x.mode.level = ceiling := by
        rw [hl, hs]
        dsimp only [ceiling]
        cases d.mode.level <;> rfl
      rw [followCeiling_eq hc, hm, he]
    by_cases hsame : same
    · have he : ({ w with settings := new } : Device).withCeiling ceiling = e := by
        dsimp only [e]
        rw [if_pos hsame, if_pos hsame]
        rfl
      rw [restartLevel_same_levels (d := { w with settings := new }) (old := w.settings) hsame,
        hfollow { w with settings := new } rfl rfl rfl he]
    · have he : ({ w with settings := new, mode := { w.mode with evidence := .none, confirm := 0 } } : Device).withCeiling ceiling
          = e := by
        dsimp only [e]
        rw [if_neg hsame, if_neg hsame]
        rfl
      rw [restartLevel_new_levels (d := { w with settings := new }) (old := w.settings) hsame, 
        hfollow { w with settings := new, mode := { w.mode with evidence := .none, confirm := 0 } } rfl rfl rfl he]

/-! ## The reserve -/

/-- The evidence kept and its count after a measurement (R45). -/
theorem ModeCtl.measure_eq (m : ModeCtl) (s : Settings) (v : Nat) : m.measure s v = { m with
    evidence := s.evidence m.level v
    confirm := if s.evidence m.level v = .none then 0 else if s.evidence m.level v = m.evidence then m.confirm + 1 else 1 } := by
  unfold ModeCtl.measure
  cases h : s.evidence m.level v with
  | none => rfl
  | down | up =>
    simp only [reduceCtorEq, if_false]
    split
    · rename_i he
      rw [he]
    · rfl

namespace Device

/-- A device after a reserve measurement. -/
def gauged (d : Device) (v : Nat) : Device := { d with reserve := v, mode := d.mode.measure d.settings v }

/-- A measurement that completes no count is followed by the ration judgement at once (R145). -/
theorem scanReserve_short {d : Device} {reading : Nat} (h : (d.gauged (min reading 3000)).mode.evidence = .none
      ∨ (d.gauged (min reading 3000)).mode.confirm < d.settings.levelConfirm) :
    d.scanReserve reading = (d.gauged (min reading 3000)).judgeRations :=
  if_neg fun ⟨hle, hne⟩ => h.elim hne fun hlt => Nat.not_le_of_lt hlt hle

theorem scanReserve_complete {d : Device} {reading : Nat} (hne : (d.gauged (min reading 3000)).mode.evidence ≠ .none)
    (hle : d.settings.levelConfirm ≤ (d.gauged (min reading 3000)).mode.confirm) :
    d.scanReserve reading = { d.gauged (min reading 3000) with due := d.due ++ [.rations, .levelChange] } := by
  refine Eq.trans (if_pos ⟨hle, hne⟩) ?_
  unfold addDue gauged
  dsimp only
  rw [List.append_assoc]
  rfl

theorem judgeRation_none {d : Device} {i : Nat} (h : d.rec? i = none) : d.judgeRation i = d := by
  unfold judgeRation
  rw [h]

theorem judgeRation_within {d : Device} {i : Nat} {r : Record} (h : d.rec? i = some r)
    (hr : r.ration = 0 ∨ r.rationSpent = true ∨ r.charge < r.ration * chargePerMAh) : d.judgeRation i = d := by
  unfold judgeRation
  rw [h]
  refine if_neg fun ⟨hne, hspent, hle⟩ => ?_
  rcases hr with h0 | hs | hlt
  · exact hne h0
  · rw [hspent] at hs
    cases hs
  · omega

/-- A ration found spent (R125): marked, the lease ended and the claim answered. -/
theorem judgeRation_spent {d : Device} {i : Nat} {r : Record} (h : d.rec? i = some r) (hne : r.ration ≠ 0)
    (hs : r.rationSpent = false) (hle : r.ration * chargePerMAh ≤ r.charge) {e : Device}
    (he : e = { d.modRec i (fun r => { r with rationSpent := true }) with
      port := { d.port with records := d.port.records.modify i fun x => { x with rationSpent := true } } }) :
    d.judgeRation i = match (e.endLease i .ration).claimOf i with
      | some c => ((e.endLease i .ration).deferClaim c .ration).serve
      | none => e.endLease i .ration := by
  have hmarked : (d.modRec i fun r => { r with rationSpent := true }).rec? i = some { r with rationSpent := true } := by
    rw [rec?_modRec_same, h]
    rfl
  unfold judgeRation
  rw [h]
  dsimp only
  rw [if_pos ⟨hne, hs, hle⟩, raiseRec_named hmarked, he]
  rfl

theorem endLease_none {d : Device} {i : Nat} (h : d.leaseOf i = none) (w : LeaseEnd) : d.endLease i w = d := by
  unfold endLease
  rw [h]

end Device

/-- Settles O36: the measurement by `ModeCtl.measure_eq`, the change by the level, the judgement by `judgeRation_spent`. -/
theorem reserveLevel : Obligations.ReserveLevel := by
  unfold Obligations.ReserveLevel
  refine ⟨fun d reading => ?_, fun s d hd => ?_, fun d => ⟨rfl, rfl⟩, fun d i => ⟨judgeRation_none, fun r hr => ⟨?_, ?_⟩⟩⟩
  · intro v below above seen count e
    have hseen : d.settings.evidence d.mode.level v = seen := by
      have hbelow : (d.settings.enterBelow d.mode.level).any (fun t => v < t) = below := by
        dsimp only [below]
        cases d.mode.level <;> rfl
      have habove : (d.settings.leaveAbove d.mode.level).any (fun t => t < v) = above := by
        dsimp only [above]
        cases d.mode.level <;> rfl
      unfold Settings.evidence
      rw [hbelow, habove]
    have he : d.gauged v = e := by
      unfold gauged
      rw [ModeCtl.measure_eq, hseen]
    refine ⟨fun h => ?_, fun hne hle => ?_⟩
    · rw [scanReserve_short (by rw [he]; exact h), he]
    · rw [scanReserve_complete (by rw [he]; exact hne) (by rw [he]; exact hle), he]
  · have hexec : exec .levelChange s = .next ⟨d.changeLevel.finish, s.pending⟩ := (State.named_due hd :)
    intro moved
    refine ⟨fun hdown => ?_, fun hup => ?_⟩
    · intro e
      have he : d.changeLevel = e.shed.examineWake := by
        unfold changeLevel
        dsimp only [e]
        rw [hdown]
        cases d.mode.level <;> rfl
      rw [hexec, he]
    · intro e
      have he : d.changeLevel = e.serve.examineWake.examineAgenda := by
        unfold changeLevel
        dsimp only [e]
        rw [hup]
        cases d.mode.level <;> rfl
      rw [hexec, he]
  · exact judgeRation_within hr
  · intro hne hs hle e f
    have hf : e.endLease i .ration = f := by
      dsimp only [f]
      split
      · rfl
      · rename_i hl
        have hnone : d.leaseOf i = none := by simpa using hl
        exact endLease_none (d := e) hnone _
    refine (judgeRation_spent hr hne hs hle (e := e) rfl).trans ?_
    rw [hf]
    clear hf
    clear_value f
    cases hc : f.claimOf i with
    | none => rfl
    | some c =>
      obtain ⟨-, hi⟩ := claimOf_some hc
      subst hi
      rfl

end Sys2Proof.Machine
end

section
/-! The frame start as one update of the device, its due events, and the examinations that close it (R53, R58, R72, R73, R90, R119,
R121, R137, R160). -/

namespace Sys2Proof.Machine

open Device

/-! ## The clock and the sample -/

theorem ModeCtl.clock_eq (m : ModeCtl) (e : Option Due) : (m.clock e).1 =
    if m.mode.inOutage = true ∧ e ≠ some .outageEnd then { m with framesToMinute := m.framesToMinute - 1 } else m := by
  unfold ModeCtl.clock
  simp only [Bool.and_eq_true, bne_iff_ne]
  split <;> rfl

theorem ModeCtl.clock_mode (m : ModeCtl) (e : Option Due) : (m.clock e).1.mode = m.mode := by
  rw [clock_eq]
  split <;> rfl

theorem ModeCtl.clock_due (m : ModeCtl) (e : Option Due) (x : Due) : x ∈ (m.clock e).2.toList ↔
    x = .outageMinute ∧ m.mode.inOutage = true ∧ e ≠ some .outageEnd ∧ m.framesToMinute ≤ 1 := by
  unfold ModeCtl.clock
  simp only [Bool.and_eq_true, bne_iff_ne]
  split
  · rename_i h
    dsimp only
    split
    · have hle : m.framesToMinute ≤ 1 := by omega
      simp [h, hle]
    · have hle : ¬ m.framesToMinute ≤ 1 := by omega
      simp [hle]
  · rename_i h
    simp only [Option.toList_none, List.not_mem_nil, false_iff]
    tauto

/-! ## Idle frames -/

/-- A record with its idle frames raised (R73). -/
def Record.raiseIdle (r : Record) : Record := { r with idle := min (r.idle + 1) 65535 }

/-- The records of these indexes with their idle frames raised, where they are idle-eligible. -/
def Device.raiseIdles (was : Device) (is : List Nat) (rs : List (Option Record)) : List (Option Record) :=
  is.foldl (fun rs i => if was.idleEligible i then rs.modify i (Option.map Record.raiseIdle) else rs) rs

namespace Device

theorem frameIdle_eq (d was : Device) :
    d.frameIdle was = { d with roster := ⟨was.raiseIdles (List.range 80) d.roster.records, d.roster.unattributed⟩ } := by
  unfold frameIdle
  generalize List.range 80 = is
  induction is generalizing d with
  | nil => rfl
  | cons i is ih =>
    rw [List.foldl_cons, ih]
    unfold raiseIdles
    rw [List.foldl_cons]
    split <;> rfl

theorem raiseIdles_standing (was : Device) (is : List Nat) (rs : List (Option Record)) :
    (was.raiseIdles is rs).map (Option.map Record.standing) = rs.map (Option.map Record.standing) := by
  unfold raiseIdles
  induction is generalizing rs with
  | nil => rfl
  | cons i is ih =>
    rw [List.foldl_cons, ih]
    split
    · exact Kept.map_modify _ _ (fun o => by cases o <;> rfl) _ _
    · rfl

theorem raiseIdles_length (was : Device) (is : List Nat) (rs : List (Option Record)) :
    (was.raiseIdles is rs).length = rs.length := by
  have h := congrArg List.length (raiseIdles_standing was is rs)
  rwa [List.length_map, List.length_map] at h

theorem getElem?_raiseIdles (was : Device) {is : List Nat} (hn : is.Nodup) (rs : List (Option Record)) (j : Nat) :
    (was.raiseIdles is rs)[j]? =
      if j ∈ is ∧ was.idleEligible j = true then rs[j]?.map (Option.map Record.raiseIdle) else rs[j]? := by
  unfold raiseIdles
  induction is generalizing rs with
  | nil => simp
  | cons i is ih =>
    rw [List.nodup_cons] at hn
    rw [List.foldl_cons, ih hn.2]
    by_cases hij : i = j
    · subst hij
      rw [if_neg fun h => hn.1 h.1]
      by_cases he : was.idleEligible i = true
      · rw [if_pos he, if_pos ⟨List.mem_cons_self, he⟩, List.getElem?_modify_eq]
        rfl
      · rw [if_neg he, if_neg fun h => he h.2]
    · have hmem : j ∈ i :: is ↔ j ∈ is := by simp [Ne.symm hij]
      have hrest : (if was.idleEligible i = true then rs.modify i (Option.map Record.raiseIdle) else rs)[j]? = rs[j]? := by
        split
        · exact List.getElem?_modify_ne _ _ hij
        · rfl
      simp only [hmem, hrest]

end Device

/-! ## The frame start as one update -/

namespace Device

/-- The device with every block's part of a frame start done, before the events that it makes due. -/
def framed (d : Device) (mainsOk : Bool) : Device :=
  let j := d.mode.sample d.settings mainsOk
  { d with
    scanned := false
    roster := ⟨d.raiseIdles (List.range 80) d.roster.records, d.roster.unattributed⟩
    riser := d.frameRiser.riser
    lease := d.frameCountdowns.lease
    wake := d.frameCountdowns.wake
    lines := d.frameCountdowns.lines
    test := d.frameCountdowns.test
    mode := (j.1.clock j.2).1
    port := { d.port with device := { d.port.device with
      mode := d.port.device.mode || decide (j.1.mode ≠ d.mode.mode) } } }

/-- The events that a frame start makes due, in order. -/
def frameEvents (d : Device) (mainsOk : Bool) : List Due :=
  let j := d.mode.sample d.settings mainsOk
  j.2.toList ++ (j.1.clock j.2).2.toList ++ (d.framed mainsOk).frameDue d

/-- The controller's part: the sample judged, the clock run, and MODE raised for a change of mode (R36 to R38, R42). -/
theorem frameMode_eq (d : Device) (mainsOk : Bool) : d.frameMode mainsOk =
    ({ d with
      mode := ((d.mode.sample d.settings mainsOk).1.clock (d.mode.sample d.settings mainsOk).2).1
      port := { d.port with device := { d.port.device with
        mode := d.port.device.mode || decide ((d.mode.sample d.settings mainsOk).1.mode ≠ d.mode.mode) } } },
    (d.mode.sample d.settings mainsOk).2.toList
      ++ ((d.mode.sample d.settings mainsOk).1.clock (d.mode.sample d.settings mainsOk).2).2.toList) := by
  unfold frameMode
  refine Prod.ext ?_ rfl
  dsimp only
  by_cases hm : (d.mode.sample d.settings mainsOk).1.mode = d.mode.mode
  · rw [if_pos hm, decide_eq_false (by simpa using hm), Bool.or_false]
  · rw [if_neg hm, decide_eq_true hm, Bool.or_true]
    rfl

theorem frameParts_eq (d : Device) (mainsOk : Bool) : ((d.frameRiser.frameIdle d).frameCountdowns).frameMode mainsOk =
    (d.framed mainsOk, (d.mode.sample d.settings mainsOk).2.toList
      ++ ((d.mode.sample d.settings mainsOk).1.clock (d.mode.sample d.settings mainsOk).2).2.toList) := by
  rw [frameIdle_eq, frameMode_eq]
  rfl

theorem frameStart_eq (d : Device) (mainsOk : Bool) : d.frameStart mainsOk =
    (({ d.framed mainsOk with due := d.due ++ d.frameEvents mainsOk } : Device).frameExamine d).finish := by
  unfold frameStart
  rw [frameParts_eq]
  dsimp only [frameEvents]
  rw [List.append_assoc (d.framed mainsOk).due]
  rfl

theorem framed_still (d : Device) (mainsOk : Bool) : (d.framed mainsOk).still Record.standing =
    ({ d with
      riser := d.frameRiser.riser
      scanned := false
      mode := (d.framed mainsOk).mode
      port := (d.framed mainsOk).port } : Device).still Record.standing := by
  have hlines : d.frameCountdowns.lines.map (fun x : Line => ({ x with switch := .off } : Line))
      = d.lines.map fun x => { x with switch := .off } := by
    unfold frameCountdowns
    dsimp only
    rw [List.map_map]
    rfl
  have hrecords := raiseIdles_standing d (List.range 80) d.roster.records
  unfold still
  dsimp only [framed]
  rw [hlines, hrecords]
  rfl

end Device

theorem Served.frameExamine (d was : Device) : Served d (d.frameExamine was) := by
  have hstale : Served d (if d.evictionStale then d.setEviction none else d) := by
    split
    · exact Served.setEviction _ _
    · exact Kept.refl _ _
  unfold Device.frameExamine
  dsimp only
  split
  · exact hstale.trans (Served.examineWake _)
  · exact hstale

end Sys2Proof.Machine
end

section
/-! FRAME_START: what it leaves of the device (R36 to R38, R42, R53, R55, R58, R72, R73, R90, R102, R119, R121, R137, R160). -/

namespace Sys2Proof.Machine

open Device

namespace Device

/-! ## What the closing examinations leave where nothing waits -/

theorem finish_quiet {d : Device} (h : d.test.agenda = []) : ∃ es, d.finish = { d with due := es } := by
  unfold finish
  split
  · exact ⟨_, examineAgenda_none h⟩
  · exact ⟨d.due, rfl⟩

theorem frameExamine_quiet {d : Device} (h : d.wake.queue = []) (was : Device) :
    d.frameExamine was = if d.evictionStale then d.setEviction none else d := by
  have hnone : (if d.evictionStale then d.setEviction none else d).examineWake = if d.evictionStale then d.setEviction none else d := by
    refine examineWake_none ?_
    split <;> exact h
  unfold frameExamine
  dsimp only
  rw [hnone, ite_self]

/-! ## The records -/

theorem rec?_framed (d : Device) (mainsOk : Bool) (i : Nat) : (d.framed mainsOk).rec? i =
    if i < 80 ∧ d.idleEligible i = true then (d.rec? i).map Record.raiseIdle else d.rec? i := by
  have h := getElem?_raiseIdles d List.nodup_range d.roster.records i (is := List.range 80)
  simp only [List.mem_range] at h
  show ((d.raiseIdles (List.range 80) d.roster.records)[i]?).join = _
  rw [h]
  split
  · unfold rec?
    rcases d.roster.records[i]? with _ | o <;> rfl
  · rfl

/-- A frame start leaves the ID and the state of every record. -/
theorem names_framed (d : Device) (mainsOk : Bool) (i : Nat) (t : TermId) : (d.framed mainsOk).names i t = d.names i t := by
  unfold names
  rw [rec?_framed]
  by_cases h : i < 80 ∧ d.idleEligible i = true
  · rw [if_pos h]
    cases d.rec? i <;> rfl
  · rw [if_neg h]

theorem inState_framed (d : Device) (mainsOk : Bool) (i : Nat) (st : RecState) :
    (d.framed mainsOk).inState i st = d.inState i st := by
  unfold inState
  rw [rec?_framed]
  by_cases h : i < 80 ∧ d.idleEligible i = true
  · rw [if_pos h]
    cases d.rec? i <;> rfl
  · rw [if_neg h]

/-- The outstanding eviction that a frame start keeps: that of a record still ATTACHED (R102). -/
def evictionKept (d : Device) : Option (Nat × TermId) :=
  d.wake.eviction.filter fun e => d.names e.1 e.2 && d.inState e.1 .attached

theorem evictionStale_kept (d : Device) : (if d.evictionStale then none else d.wake.eviction) = d.evictionKept := by
  unfold evictionStale evictionKept
  rcases d.wake.eviction with _ | ⟨j, t⟩
  · rfl
  · simp only [Option.filter_some]
    by_cases h : (d.names j t && d.inState j .attached) = true
    · rw [if_pos h, if_neg (by simp [h])]
    · rw [if_neg h, if_pos (by rw [Bool.not_eq_true] at h; rw [h]; rfl)]

theorem evictionKept_framed (d : Device) (mainsOk : Bool) (es : List Due) :
    ({ d.framed mainsOk with due := es } : Device).evictionKept = d.evictionKept := by
  have h : (fun e : Nat × TermId => (d.framed mainsOk).names e.1 e.2 && (d.framed mainsOk).inState e.1 .attached)
      = fun e => d.names e.1 e.2 && d.inState e.1 .attached := by
    funext e
    rw [names_framed, inState_framed]
  exact congrArg (d.wake.eviction.filter ·) h

theorem evictionKept_none {d : Device} (h : d.wake.eviction = none) : d.evictionKept = none := by
  unfold evictionKept
  rw [h]
  rfl

theorem evictionKept_absent {d : Device} {j : Nat} {t : TermId} (h : d.wake.eviction = some (j, t)) (hr : d.rec? j = none) :
    d.evictionKept = none := by
  have hn : d.names j t = false := by
    unfold names
    rw [hr]
  unfold evictionKept
  simp only [h, Option.filter_some, hn, Bool.false_and, Bool.false_eq_true, if_false]

theorem evictionKept_some {d : Device} {j : Nat} {t : TermId} {r : Record} (h : d.wake.eviction = some (j, t))
    (hr : d.rec? j = some r) : d.evictionKept = if r.id = t ∧ r.state = .attached then some (j, t) else none := by
  unfold evictionKept
  simp only [h, Option.filter_some, names_eq hr, inState_eq hr, Bool.and_eq_true, beq_iff_eq]

/-- A frame start where no wake queue entry and no agenda entry waits: every block's part, and a stale eviction completed. -/
theorem frameStart_quiet {d : Device} (hq : d.wake.queue = []) (ha : d.test.agenda = []) (mainsOk : Bool) :
    ∃ es, d.frameStart mainsOk = { d.framed mainsOk with
      wake := { (d.framed mainsOk).wake with eviction := d.evictionKept }, due := es } := by
  rw [frameStart_eq, frameExamine_quiet (d := { d.framed mainsOk with due := d.due ++ d.frameEvents mainsOk }) hq]
  obtain ⟨es, hes⟩ := finish_quiet (d := if ({ d.framed mainsOk with due := d.due ++ d.frameEvents mainsOk } : Device).evictionStale
    then ({ d.framed mainsOk with due := d.due ++ d.frameEvents mainsOk } : Device).setEviction none
    else { d.framed mainsOk with due := d.due ++ d.frameEvents mainsOk }) (by split <;> exact ha)
  refine ⟨es, hes.trans ?_⟩
  have hkept := evictionStale_kept { d.framed mainsOk with due := d.due ++ d.frameEvents mainsOk }
  rw [evictionKept_framed] at hkept
  rw [← hkept]
  split <;> rfl

theorem idleEligible_iff {d : Device} {i n : Nat} {x : Slot} {h : Holder} {r : Record} (hr : d.rec? i = some r)
    (hn : d.heldSlot i r.id = some n) (hx : d.slot? n = some x) (hu : x.use = .held h) : d.idleEligible i = true ↔
      r.state = .attached ∧ d.claimOf i = none ∧ d.inAgenda i = false ∧ h.queue = [] := by
  unfold idleEligible queueEmpty hasClaim
  rw [hr]
  dsimp only
  rw [hn]
  dsimp only
  rw [hx, Option.map_some, hu]
  simp [and_assoc]

end Device

theorem Slot.frame_eq (x : Slot) : x.frame = match x.use with
    | .releasing => { x with use := .free }
    | .held h => { x with use := .held (if h.isOpen then { h with silence := min (h.silence + 1) 255 } else { h with isOpen := true }) }
    | _ => x := by
  obtain ⟨hold, use⟩ := x
  cases use with
  | held h =>
    show (if h.isOpen then _ else _) = _
    split <;> rename_i hopen <;> simp [hopen]
  | _ => rfl

/-- Settles O12: the blocks' parts by `framed`, the examinations by `Served` or, where nothing waits, by `frameStart_quiet`. -/
theorem frameStartEffect : Obligations.FrameStartEffect := by
  unfold Obligations.FrameStartEffect
  refine ⟨fun s d mainsOk hs => ?_, fun s d mainsOk hs hq ha => ?_, fun d i n x h r hr hn hx hu => idleEligible_iff hr hn hx hu⟩
  · intro j m
    refine ⟨d.frameStart mainsOk, State.outside_settled hs fun d => d.frameStart mainsOk, ?_⟩
    have hmode : (d.framed mainsOk).mode = m := ModeCtl.clock_eq _ _
    have hm : m.mode = j.1.mode := hmode ▸ ModeCtl.clock_mode _ _
    rw [frameStart_eq, finish_still, (Served.frameExamine _ d).1]
    refine (framed_still d mainsOk).trans ?_
    rw [hmode, hm]
    rfl
  · obtain ⟨es, he⟩ := frameStart_quiet hq ha mainsOk
    refine ⟨d.frameStart mainsOk, State.outside_settled hs fun d => d.frameStart mainsOk, ?_⟩
    rw [he]
    have hrec := rec?_framed d mainsOk
    refine ⟨List.map_congr_left fun x _ => Slot.frame_eq x, rfl, ?_, ?_, rfl, raiseIdles_length _ _ _, fun i hi => ?_,
      fun i r hi hr => ?_⟩
    · refine congrArg (fun o => { (d.framed mainsOk).wake with eviction := o }) ?_
      rcases hev : d.wake.eviction with _ | ⟨j, t⟩
      · exact evictionKept_none hev
      · dsimp only
        rcases hr : d.rec? j with _ | r
        · exact evictionKept_absent hev hr
        · exact evictionKept_some hev hr
    · refine List.map_congr_left fun x _ => ?_
      cases x.switch <;> simp [Switch.frame]
    · refine (hrec i).trans ?_
      rw [hi]
      split <;> rfl
    · refine (hrec i).trans ?_
      rw [hr]
      by_cases hel : d.idleEligible i = true
      · rw [if_pos ⟨hi, hel⟩, if_pos hel]
        rfl
      · rw [if_neg fun h => hel h.2, if_neg hel]

end Sys2Proof.Machine
end

section
/-! The events that a frame start makes due (R36, R37, R42, R72, R73, R90, R119, R121, R137, R160), and no other. -/

namespace Sys2Proof.Machine

open Device

theorem mem_positions {α : Type} {l : List α} {p : α → Bool} {k : Nat} : k ∈ positions l p ↔ ∃ a, l[k]? = some a ∧ p a = true := by
  unfold positions
  rw [List.mem_filter, List.mem_range]
  constructor
  · rintro ⟨-, h⟩
    rcases hk : l[k]? with _ | a <;> rw [hk] at h
    · cases h
    · exact ⟨a, rfl, h⟩
  · rintro ⟨a, ha, hp⟩
    refine ⟨(List.getElem?_eq_some_iff.1 ha).1, ?_⟩
    rw [ha]
    exact hp

/-- A sample calls for nothing but an outage start or an outage end (R36, R37). -/
theorem ModeCtl.sample_due {m : ModeCtl} {s : Settings} {high : Bool} {e : Due} (h : (m.sample s high).2 = some e) :
    e = .outageStart ∨ e = .outageEnd := by
  unfold sample at h
  split at h
  case h_2 | h_4 =>
    dsimp only at h
    split at h
    · exact .inl (Option.some_inj.1 h).symm
    · cases h
  case h_8 =>
    dsimp only at h
    split at h
    · exact .inr (Option.some_inj.1 h).symm
    · cases h
  all_goals cases h

theorem Switch.frame_off {s : Switch} (h : s.frame = .off) : s = .off := by
  cases s with
  | off => rfl
  | _ => cases h

namespace Device

variable {d : Device} {mainsOk : Bool} {e : Due}

/-! ## The countdowns after a frame start -/

theorem line?_framed (d : Device) (mainsOk : Bool) (l : Nat) :
    (d.framed mainsOk).line? l = (d.line? l).map fun x => { x with switch := x.switch.frame } := List.getElem?_map

theorem test?_framed (d : Device) (mainsOk : Bool) (c : Nat) :
    (d.framed mainsOk).test? c = (d.test? c).map fun t => { t with countdown := t.countdown - 1 } := by
  show ((d.test.channels.map (Option.map fun t : Test => { t with countdown := t.countdown - 1 }))[c]?).join = _
  unfold test?
  rw [List.getElem?_map]
  rcases d.test.channels[c]? with _ | o <;> rfl

/-! ## The events due, kind by kind -/

theorem mem_silenceDue : e ∈ (positions d.riser.slots fun s => s.silent d.settings.silenceLimit).map (fun k => Due.silenceLost (k + 2))
    ↔ ∃ n x h, e = .silenceLost n ∧ d.slot? n = some x ∧ x.use = .held h ∧ h.isOpen = true
      ∧ d.settings.silenceLimit ≤ min (h.silence + 1) 255 := by
  have hsilent : ∀ x : Slot, x.silent d.settings.silenceLimit = true ↔ ∃ h, x.use = .held h ∧ h.isOpen = true
      ∧ d.settings.silenceLimit ≤ min (h.silence + 1) 255 := fun x => by
    unfold Slot.silent
    cases x.use <;> simp
  simp only [List.mem_map, mem_positions, hsilent]
  constructor
  · rintro ⟨k, ⟨x, hx, h, hu, ho, hl⟩, rfl⟩
    exact ⟨k + 2, x, h, rfl, (slot?_add_two d k).trans hx, hu, ho, hl⟩
  · rintro ⟨n, x, h, rfl, hx, hu, ho, hl⟩
    have hn := slot?_some_ge hx
    exact ⟨n - 2, ⟨x, (slot?_eq hn).symm.trans hx, h, hu, ho, hl⟩, by rw [Nat.sub_add_cancel hn]⟩

theorem mem_idleDue : e ∈ (d.framed mainsOk).idleDue d ↔ ∃ i r, e = .idleRest i ∧ i < 80 ∧ d.idleEligible i = true
    ∧ d.rec? i = some r ∧ d.settings.idleLimit ≤ min (r.idle + 1) 65535 := by
  have hrec : ∀ i, i < 80 → d.idleEligible i = true → (((d.framed mainsOk).rec? i).any (fun r => d.settings.idleLimit ≤ r.idle) = true
      ↔ ∃ r, d.rec? i = some r ∧ d.settings.idleLimit ≤ min (r.idle + 1) 65535) := fun i hi he => by
    rw [rec?_framed, if_pos ⟨hi, he⟩]
    cases d.rec? i <;> simp [Record.raiseIdle]
  unfold idleDue
  simp only [List.mem_map, List.mem_filter, List.mem_range, Bool.and_eq_true]
  constructor
  · rintro ⟨i, ⟨hi, he, h⟩, rfl⟩
    obtain ⟨r, hr, hl⟩ := (hrec i hi he).1 h
    exact ⟨i, r, rfl, hi, he, hr, hl⟩
  · rintro ⟨i, r, rfl, hi, he, hr, hl⟩
    exact ⟨i, ⟨hi, he, (hrec i hi he).2 ⟨r, hr, hl⟩⟩, rfl⟩

/-- The switch is a pulse whose countdown has reached 0. -/
def pulseOut (x : Line) : Bool := match x.switch with
  | .pulse 0 _ => true
  | _ => false

theorem pulseOut_frame (x : Line) : pulseOut { x with switch := x.switch.frame } = true ↔ ∃ n o, x.switch = .pulse n o ∧ n ≤ 1 := by
  unfold pulseOut
  cases x.switch with
  | pulse n o => rcases n with _ | _ | n <;> simp [Switch.frame]
  | _ => simp [Switch.frame]

theorem mem_pulseDue : e ∈ (positions (d.framed mainsOk).lines pulseOut).map Due.pulseEnd ↔
    ∃ l x n o, e = .pulseEnd l ∧ d.line? l = some x ∧ x.switch = .pulse n o ∧ n ≤ 1 := by
  have hline : ∀ l, l ∈ positions (d.framed mainsOk).lines pulseOut ↔ ∃ x, d.line? l = some x ∧ ∃ n o, x.switch = .pulse n o ∧ n ≤ 1 := by
    intro l
    rw [mem_positions]
    constructor
    · rintro ⟨y, hy, hp⟩
      have hy' := (line?_framed d mainsOk l).symm.trans hy
      obtain ⟨x, hx, rfl⟩ := Option.map_eq_some_iff.1 hy'
      exact ⟨x, hx, (pulseOut_frame x).1 hp⟩
    · rintro ⟨x, hx, hp⟩
      exact ⟨_, (line?_framed d mainsOk l).trans (by rw [hx]; rfl), (pulseOut_frame x).2 hp⟩
  simp only [List.mem_map, hline]
  constructor
  · rintro ⟨l, ⟨x, hx, n, o, hs, hn⟩, rfl⟩
    exact ⟨l, x, n, o, rfl, hx, hs, hn⟩
  · rintro ⟨l, x, n, o, rfl, hx, hs, hn⟩
    exact ⟨l, ⟨x, hx, n, o, hs, hn⟩, rfl⟩

theorem mem_windowDue : e ∈ (d.framed mainsOk).windowDue ↔
    (e = .attachWindow ∧ ∃ a i t p, d.wake.attempt = some a ∧ a.target = .record i t p ∧ a.window ≤ 1)
    ∨ (e = .discoveryWindow ∧ ∃ a l, d.wake.attempt = some a ∧ a.target = .discovery l ∧ a.window ≤ 1) := by
  have hattempt : (d.framed mainsOk).wake.attempt = d.wake.attempt.map fun a => { a with window := a.window - 1 } := rfl
  unfold windowDue
  rw [hattempt]
  rcases d.wake.attempt with _ | a
  · simp
  · have hzero : a.window - 1 = 0 ↔ a.window ≤ 1 := by omega
    rcases ha : a.target with ⟨i, t, p⟩ | l <;> by_cases hw : a.window ≤ 1 <;> simp [ha, hzero, hw]

theorem mem_leaseDue : e ∈ ((d.framed mainsOk).lease.leases.filter fun l => l.phase == .live && l.countdown == 0).map
    (fun l => Due.leaseExpiry l.index) ↔ ∃ l ∈ d.lease.leases, e = .leaseExpiry l.index ∧ l.phase = .live ∧ l.countdown ≤ 1 := by
  have hframe : ∀ l : Lease, (l.frame.phase == .live && l.frame.countdown == 0) = true ↔ l.phase = .live ∧ l.countdown ≤ 1 :=
    fun l => by
    unfold Lease.frame
    by_cases h : l.phase = .live
    · rw [if_pos h]
      simp only [h, beq_self_eq_true, Bool.true_and, beq_iff_eq, true_and]
      omega
    · simp [h]
  have hindex : ∀ l : Lease, l.frame.index = l.index := fun l => by
    unfold Lease.frame
    split <;> rfl
  have hleases : (d.framed mainsOk).lease.leases = d.lease.leases.map Lease.frame := rfl
  simp only [List.mem_map, List.mem_filter, hleases]
  constructor
  · rintro ⟨_, ⟨⟨l, hl, rfl⟩, h⟩, rfl⟩
    exact ⟨l, hl, by rw [hindex], (hframe l).1 h⟩
  · rintro ⟨l, hl, rfl, h⟩
    exact ⟨l.frame, ⟨⟨l, hl, rfl⟩, (hframe l).2 h⟩, by rw [hindex]⟩

theorem mem_claimDue : e ∈ ((d.framed mainsOk).lease.claims.filter fun c => c.wait == 0).map (fun c => Due.claimWait c.index) ↔
    ∃ c ∈ d.lease.claims, e = .claimWait c.index ∧ c.wait ≤ 1 := by
  have hclaims : (d.framed mainsOk).lease.claims = d.lease.claims.map fun c => { c with wait := c.wait - 1 } := rfl
  simp only [List.mem_map, List.mem_filter, hclaims, beq_iff_eq]
  constructor
  · rintro ⟨_, ⟨⟨c, hc, rfl⟩, h⟩, rfl⟩
    exact ⟨c, hc, rfl, by dsimp only at h; omega⟩
  · rintro ⟨c, hc, rfl, h⟩
    exact ⟨_, ⟨⟨c, hc, rfl⟩, by dsimp only; omega⟩, rfl⟩

/-- The event of a test whose countdown has reached 0, by its phase. -/
def testEvent (c : Nat) (t : Test) : Due := if t.phase = .running then .testWindow c else .testBegin c

theorem mem_testsDue : e ∈ (d.framed mainsOk).testsDue ↔ ∃ c t, e = testEvent c t ∧ d.test? c = some t ∧ t.countdown ≤ 1 := by
  unfold testsDue
  simp only [List.mem_map, mem_positions]
  have htest : ∀ c t, (d.framed mainsOk).test.channels[c]? = some (some t) ↔ (d.framed mainsOk).test? c = some t := fun c t =>
    test?_eq.symm
  constructor
  · rintro ⟨c, ⟨o, ho, hany⟩, rfl⟩
    obtain ⟨t', rfl, hzero⟩ := (Option.any_eq_true _ _).1 hany
    have ht' := (htest c t').1 ho
    obtain ⟨t, ht, rfl⟩ := Option.map_eq_some_iff.1 ((test?_framed d mainsOk c).symm.trans ht')
    refine ⟨c, t, ?_, ht, ?_⟩
    · rw [ht']
      unfold testEvent
      cases t.phase <;> simp
    · simp only [beq_iff_eq] at hzero
      omega
  · rintro ⟨c, t, rfl, ht, hle⟩
    have ht' : (d.framed mainsOk).test? c = some { t with countdown := t.countdown - 1 } := by
      rw [test?_framed, ht]
      rfl
    refine ⟨c, ⟨_, (htest c _).2 ht', ?_⟩, ?_⟩
    · simp only [Option.any_some, beq_iff_eq]
      omega
    · rw [ht']
      unfold testEvent
      cases t.phase <;> simp

/-! ## All of them -/

/-- An event that a frame start makes due, with what calls for it. -/
inductive FrameMakes (d : Device) (mainsOk : Bool) : Due → Prop
  | sample {e : Due} (h : (d.mode.sample d.settings mainsOk).2 = some e) : FrameMakes d mainsOk e
  | minute (hmode : (d.mode.sample d.settings mainsOk).1.mode.inOutage = true)
      (hend : (d.mode.sample d.settings mainsOk).2 ≠ some .outageEnd)
      (hframes : (d.mode.sample d.settings mainsOk).1.framesToMinute ≤ 1) : FrameMakes d mainsOk .outageMinute
  | silence {n : Nat} {x : Slot} {h : Holder} (hx : d.slot? n = some x) (hu : x.use = .held h) (ho : h.isOpen = true)
      (hl : d.settings.silenceLimit ≤ min (h.silence + 1) 255) : FrameMakes d mainsOk (.silenceLost n)
  | idle {i : Nat} {r : Record} (hi : i < 80) (he : d.idleEligible i = true) (hr : d.rec? i = some r)
      (hl : d.settings.idleLimit ≤ min (r.idle + 1) 65535) : FrameMakes d mainsOk (.idleRest i)
  | pulse {l : Nat} {x : Line} {n : Nat} {o : Claimant} (hx : d.line? l = some x) (hs : x.switch = .pulse n o) (hn : n ≤ 1) :
      FrameMakes d mainsOk (.pulseEnd l)
  | attach {a : Attempt} {i : Nat} {t : TermId} {p : Purpose} (ha : d.wake.attempt = some a) (ht : a.target = .record i t p)
      (hw : a.window ≤ 1) : FrameMakes d mainsOk .attachWindow
  | discovery {a : Attempt} {l : Nat} (ha : d.wake.attempt = some a) (ht : a.target = .discovery l) (hw : a.window ≤ 1) :
      FrameMakes d mainsOk .discoveryWindow
  | lease {l : Lease} (hl : l ∈ d.lease.leases) (hp : l.phase = .live) (hc : l.countdown ≤ 1) :
      FrameMakes d mainsOk (.leaseExpiry l.index)
  | claim {c : ClaimEntry} (hc : c ∈ d.lease.claims) (hw : c.wait ≤ 1) : FrameMakes d mainsOk (.claimWait c.index)
  | test {c : Nat} {t : Test} (ht : d.test? c = some t) (hc : t.countdown ≤ 1) : FrameMakes d mainsOk (testEvent c t)
  | exam : FrameMakes d mainsOk .agendaExam

theorem mem_frameDue : e ∈ (d.framed mainsOk).frameDue d ↔
    e ∈ (positions d.riser.slots fun s => s.silent d.settings.silenceLimit).map (fun k => Due.silenceLost (k + 2))
    ∨ e ∈ (d.framed mainsOk).idleDue d
    ∨ e ∈ (positions (d.framed mainsOk).lines pulseOut).map Due.pulseEnd
    ∨ e ∈ (d.framed mainsOk).windowDue
    ∨ e ∈ ((d.framed mainsOk).lease.leases.filter fun l => l.phase == .live && l.countdown == 0).map (fun l => Due.leaseExpiry l.index)
    ∨ e ∈ ((d.framed mainsOk).lease.claims.filter fun c => c.wait == 0).map (fun c => Due.claimWait c.index)
    ∨ e ∈ (d.framed mainsOk).testsDue ∨ e = .agendaExam := by
  rw [← List.mem_singleton]
  iterate 7 rw [← List.mem_append]
  rw [← List.append_assoc, ← List.append_assoc, ← List.append_assoc, ← List.append_assoc, ← List.append_assoc, ← List.append_assoc]
  exact Iff.rfl

theorem mem_frameEvents : e ∈ d.frameEvents mainsOk ↔ FrameMakes d mainsOk e := by
  unfold frameEvents
  rw [List.mem_append, List.mem_append, Option.mem_toList, ModeCtl.clock_due, mem_frameDue]
  constructor
  · rintro ((h | h) | h | h | h | h | h | h | h | rfl)
    · exact .sample h
    · obtain ⟨rfl, hmode, hend, hframes⟩ := h
      exact .minute hmode hend hframes
    · obtain ⟨n, x, h, rfl, hx, hu, ho, hl⟩ := mem_silenceDue.1 h
      exact .silence hx hu ho hl
    · obtain ⟨i, r, rfl, hi, he, hr, hl⟩ := mem_idleDue.1 h
      exact .idle hi he hr hl
    · obtain ⟨l, x, n, o, rfl, hx, hs, hn⟩ := mem_pulseDue.1 h
      exact .pulse hx hs hn
    · rcases mem_windowDue.1 h with ⟨rfl, a, i, t, p, ha, ht, hw⟩ | ⟨rfl, a, l, ha, ht, hw⟩
      · exact .attach ha ht hw
      · exact .discovery ha ht hw
    · obtain ⟨l, hl, rfl, hp, hc⟩ := mem_leaseDue.1 h
      exact .lease hl hp hc
    · obtain ⟨c, hc, rfl, hw⟩ := mem_claimDue.1 h
      exact .claim hc hw
    · obtain ⟨c, t, rfl, ht, hc⟩ := mem_testsDue.1 h
      exact .test ht hc
    · exact .exam
  · intro h
    cases h with
    | sample h => exact .inl (.inl h)
    | minute hmode hend hframes => exact .inl (.inr ⟨rfl, hmode, hend, hframes⟩)
    | silence hx hu ho hl => exact .inr (.inl (mem_silenceDue.2 ⟨_, _, _, rfl, hx, hu, ho, hl⟩))
    | idle hi he hr hl => exact .inr (.inr (.inl (mem_idleDue.2 ⟨_, _, rfl, hi, he, hr, hl⟩)))
    | pulse hx hs hn => exact .inr (.inr (.inr (.inl (mem_pulseDue.2 ⟨_, _, _, _, rfl, hx, hs, hn⟩))))
    | attach ha ht hw => exact .inr (.inr (.inr (.inr (.inl (mem_windowDue.2 (.inl ⟨rfl, _, _, _, _, ha, ht, hw⟩))))))
    | discovery ha ht hw => exact .inr (.inr (.inr (.inr (.inl (mem_windowDue.2 (.inr ⟨rfl, _, _, ha, ht, hw⟩))))))
    | lease hl hp hc => exact .inr (.inr (.inr (.inr (.inr (.inl (mem_leaseDue.2 ⟨_, hl, rfl, hp, hc⟩))))))
    | claim hc hw => exact .inr (.inr (.inr (.inr (.inr (.inr (.inl (mem_claimDue.2 ⟨_, hc, rfl, hw⟩)))))))
    | test ht hc => exact .inr (.inr (.inr (.inr (.inr (.inr (.inr (.inl (mem_testsDue.2 ⟨_, _, rfl, ht, hc⟩))))))))
    | exam => exact .inr (.inr (.inr (.inr (.inr (.inr (.inr (.inr rfl)))))))

/-- Every event due stays due in the closing examinations, but for the agenda examination itself. -/
theorem mem_frameStart (he : e ≠ .agendaExam) (h : e ∈ d.due ∨ e ∈ d.frameEvents mainsOk) : e ∈ (d.frameStart mainsOk).due := by
  rw [frameStart_eq]
  have hexam := (Served.frameExamine ({ d.framed mainsOk with due := d.due ++ d.frameEvents mainsOk } : Device) d).mem_due
    (List.mem_append.2 h)
  generalize ({ d.framed mainsOk with due := d.due ++ d.frameEvents mainsOk } : Device).frameExamine d = f at hexam ⊢
  unfold finish
  split
  · rename_i es hes
    rw [hes] at hexam
    exact (Served.examineAgenda _).mem_due (List.mem_of_ne_of_mem he hexam)
  · exact hexam

/-- The closing examinations make nothing due but trips of lines that were OFF with TRIP_N asserted (R135). -/
theorem frameStart_due (h : e ∈ (d.frameStart mainsOk).due) : (e ∈ d.due ∨ e ∈ d.frameEvents mainsOk)
    ∨ ∃ l x, e = .trip l ∧ d.line? l = some x ∧ x.switch = .off ∧ x.tripLow = true := by
  rw [frameStart_eq] at h
  have hpulses := ((Pulses.frameExamine ({ d.framed mainsOk with due := d.due ++ d.frameEvents mainsOk } : Device) d).trans
    (Pulses.finish _)).2 e h
  rcases hpulses with hdue | ⟨l, y, rfl, hy, hoff, hlow⟩
  · exact .inl (List.mem_append.1 hdue)
  · obtain ⟨x, hx, rfl⟩ := Option.map_eq_some_iff.1 ((line?_framed d mainsOk l).symm.trans hy)
    exact .inr ⟨l, x, rfl, hx, Switch.frame_off hoff, hlow⟩

end Device

/-- Settles O13: `mem_frameEvents` one way through `mem_frameStart`, the other through `frameStart_due`. -/
theorem frameStartDue : Obligations.FrameStartDue := by
  unfold Obligations.FrameStartDue
  intro s d mainsOk hs j
  refine ⟨d.frameStart mainsOk, State.outside_settled hs fun d => d.frameStart mainsOk, ?_⟩
  have hmem : ∀ e, e ≠ .agendaExam → FrameMakes d mainsOk e → e ∈ (d.frameStart mainsOk).due :=
    fun e he h => mem_frameStart he (.inr (mem_frameEvents.2 h))
  refine ⟨fun l hl hp hc => hmem _ nofun (.lease hl hp hc), fun c hc hw => hmem _ nofun (.claim hc hw),
    fun l x n o hx hn ho => hmem _ nofun (.pulse hx hn ho), fun n x h hx hu ho hl => hmem _ nofun (.silence hx hu ho hl),
    fun i r hi he hr hl => hmem _ nofun (.idle hi he hr hl), fun a i t p ha ht hw => hmem _ nofun (.attach ha ht hw),
    fun a l ha ht hw => hmem _ nofun (.discovery ha ht hw), fun c t ht hc => hmem _ ?_ (.test ht hc), fun e he => ?_,
    fun hi hne hf => hmem _ nofun (.minute hi hne hf), fun e he => ?_⟩
  · split <;> nofun
  · refine hmem _ ?_ (.sample he)
    rcases ModeCtl.sample_due he with rfl | rfl <;> nofun
  · rcases frameStart_due he with (hdue | hmakes) | ⟨l, x, rfl, hx, hoff, hlow⟩
    · exact .inl hdue
    · right
      cases mem_frameEvents.1 hmakes with
      | sample h => rcases ModeCtl.sample_due h with rfl | rfl <;> exact h
      | minute hmode hend hframes => exact ⟨hmode, hend, hframes⟩
      | silence hx hu ho hl => exact ⟨_, _, hx, hu, ho, hl⟩
      | idle hi helig hr hl => exact ⟨hi, helig, _, hr, hl⟩
      | pulse hx hs hn => exact ⟨_, _, _, hx, hs, hn⟩
      | attach ha ht hw => exact ⟨_, _, _, _, ha, ht, hw⟩
      | discovery ha ht hw => exact ⟨_, _, ha, ht, hw⟩
      | lease hl hp hc => exact ⟨_, hl, rfl, hp, hc⟩
      | claim hc hw => exact ⟨_, hc, rfl, hw⟩
      | @test c t ht hc =>
        unfold testEvent
        cases hp : t.phase with
        | running => exact ⟨t, ht, hp, hc⟩
        | beginning => exact ⟨t, ht, hp, hc⟩
      | exam => trivial
    · exact .inr ⟨x, hx, hoff, hlow⟩

end Sys2Proof.Machine
end


section
/-! What the downlink queues keep, and how the records wind down at outage end. -/

namespace Sys2Proof.Machine

open Device

/-! ## What a post leaves of the queues -/

/-- A full queue loses no CUT (R63). -/
theorem mem_dropOldest {e : QEntry} (hk : e.cmd.kind = 5) : ∀ {es : List QEntry}, e ∈ es → e ∈ dropOldest es
  | x :: es, h => by
    unfold dropOldest
    split
    · rcases List.mem_cons.1 h with rfl | h
      · exact List.mem_cons_self
      · exact List.mem_cons_of_mem _ (mem_dropOldest hk h)
    · rename_i hx
      rcases List.mem_cons.1 h with rfl | h
      · exact absurd (Or.inl hk) hx
      · exact h

/-- A post of another kind leaves a CUT where it is. -/
theorem Holder.mem_post_cut {h : Holder} {e : QEntry} {x : Cmd} (he : e ∈ h.queue) (hk : e.cmd.kind = 5) (hx : x.kind ≠ 5) :
    e ∈ (h.post x).queue := by
  unfold Holder.post
  split
  · exact List.mem_map.2 ⟨e, he, if_neg fun h5 => hx (h5.symm.trans hk)⟩
  · refine List.mem_append_left _ ?_
    split
    · exact he
    · exact mem_dropOldest hk he

/-- A command that a post of `x` leaves in a queue: the same command, or a CUT where `x` is none. -/
def Cmd.outlasts (c x : Cmd) : Prop := c = x ∨ (c.kind = 5 ∧ x.kind ≠ 5)

namespace Device

variable {d e : Device} {i j n : Nat} {t u : TermId} {c x : Cmd}

theorem slot?_post_of_ne (h : d.heldSlot j u ≠ some n) : (d.post j u x).slot? n = d.slot? n := by
  unfold post
  split
  · rename_i m hm
    exact (slot?_modSlot d m n _).trans (if_neg fun hmn : m = n => h (hmn ▸ hm))
  · rfl

theorem queued_of_slot? (hs : e.slot? n = d.slot? n) (h : d.queued n c) : e.queued n c := by
  unfold queued
  rw [hs]
  exact h

theorem queued_post (h : d.queued n c) (hx : c.outlasts x ∨ d.heldSlot j u ≠ some n) : (d.post j u x).queued n c := by
  by_cases hm : d.heldSlot j u = some n
  · rcases hx with (rfl | ⟨hc, hx⟩) | hx
    · exact post_queued hm
    · obtain ⟨hold, g, e, hs, he, rfl⟩ := h
      refine ⟨hold, g.post x, e, ?_, Holder.mem_post_cut he hc hx, rfl⟩
      unfold post
      simp only [hm, modHolder, slot?_modSlot, if_true, hs, Option.map_some]
    · exact absurd hm hx
  · exact queued_of_slot? (slot?_post_of_ne hm) h

theorem not_queueEmpty (hm : d.heldSlot i t = some n) (h : d.queued n c) : d.queueEmpty i t = false := by
  obtain ⟨hold, g, e, hs, he, -⟩ := h
  unfold queueEmpty
  simp only [hm, hs, Option.map_some]
  exact List.isEmpty_eq_false_iff.2 (List.ne_nil_of_mem he)

/-! ## Slots that no record holds -/

theorem lowestFree_some (h : d.lowestFree = some n) : ∃ s, d.slot? n = some s ∧ s.use = .free := by
  obtain ⟨k, hk, rfl⟩ := Option.map_eq_some_iff.1 h
  obtain ⟨⟨s, hs, hf⟩, -⟩ := findIdx?_some_iff.1 hk
  exact ⟨s, (slot?_add_two d k).trans hs, by simpa [Slot.isFree] using hf⟩

/-- A change of one slot that takes it from no record and gives it none. -/
theorem heldSlot_modSlot_at {f : Slot → Slot} (hf : ∀ s, d.slot? n = some s → (f s).heldBy i t = s.heldBy i t) :
    (d.modSlot n f).heldSlot i t = d.heldSlot i t := by
  have hslots : ∀ m, ((d.modSlot n f).slot? m).map (·.heldBy i t) = (d.slot? m).map (·.heldBy i t) := by
    intro m
    rw [slot?_modSlot]
    split
    · rename_i hm
      subst hm
      rcases hs : d.slot? n with _ | s
      · rfl
      · simp [hf s hs]
    · rfl
  have hmap : (d.modSlot n f).riser.slots.map (·.heldBy i t) = d.riser.slots.map (·.heldBy i t) := by
    refine List.ext_getElem? fun k => ?_
    rw [List.getElem?_map, List.getElem?_map, ← slot?_add_two, ← slot?_add_two]
    exact hslots (k + 2)
  have hfind : ∀ xs : List Slot, xs.findIdx? (·.heldBy i t) = (xs.map (·.heldBy i t)).findIdx? id := fun xs => by
    rw [List.findIdx?_map]
    rfl
  unfold heldSlot
  rw [hfind, hmap, ← hfind]

theorem heldSlot_reserveSlot (h : d.lowestFree = some n) (o : Claimant) (i : Nat) (t : TermId) :
    (d.reserveSlot n o).heldSlot i t = d.heldSlot i t := by
  obtain ⟨s, hs, hfree⟩ := lowestFree_some h
  refine heldSlot_modSlot_at fun s' hs' => ?_
  obtain rfl := Option.some_inj.1 (hs.symm.trans hs')
  simp [Slot.heldBy, hfree]

theorem queued_reserveSlot (h : d.lowestFree = some n) (o : Claimant) (hq : d.queued j c) : (d.reserveSlot n o).queued j c := by
  obtain ⟨s, hs, hfree⟩ := lowestFree_some h
  refine queued_of_slot? ((slot?_modSlot d n j _).trans (if_neg ?_)) hq
  rintro rfl
  obtain ⟨_, _, _, hs', -⟩ := hq
  rw [hs] at hs'
  obtain rfl := Option.some_inj.1 hs'
  cases hfree

theorem heldSlot_freeSlot (d : Device) (n i : Nat) (t : TermId) : (d.freeSlot n).heldSlot i t = d.heldSlot i t :=
  heldSlot_modSlot_at fun s _ => by
    obtain ⟨_, use⟩ := s
    cases use <;> rfl

theorem queued_freeSlot (hq : d.queued j c) (n : Nat) : (d.freeSlot n).queued j c := by
  obtain ⟨hold, g, e, hs, he⟩ := hq
  refine ⟨hold, g, e, ?_, he⟩
  rw [freeSlot, slot?_modSlot, hs]
  split <;> rfl

end Device

/-! ## How a record winds down -/

/-- A record `q` that outage end makes of `r`: a lease, a test or an attempt may have ended, and nothing has begun (R124, R168, R104). -/
structure Record.Winds (r q : Record) : Prop where
  sameId    : q.id = r.id
  interval  : q.wakeInterval = r.wakeInterval
  state     : q.state = r.state ∨ ((r.state = .fed ∨ r.state = .testing) ∧ q.state = .attached)
    ∨ (r.state = .waking ∧ q.state = .dormant)
  lease     : r.lease = false → q.lease = false
  freed     : r.state = .fed → q.state = .attached → q.lease = false
  dormant   : r.state = .dormant → q.slot = r.slot ∧ q.wakeTimer = r.wakeTimer
  abandoned : r.state = .waking → q.state = .dormant →
    q.slot = none ∧ q.wakeTimer = if r.wakeInterval = 0 then none else some r.wakeInterval
  outcome   : r.lastOutcome = some (.aborted .mains) → q.lastOutcome = some (.aborted .mains)

namespace Record.Winds

variable {r p q : Record}

/-- A change of neither the state nor what goes with it. -/
theorem of_same (hi : q.id = r.id) (hw : q.wakeInterval = r.wakeInterval) (hs : q.state = r.state) (hslot : q.slot = r.slot)
    (ht : q.wakeTimer = r.wakeTimer) (hl : r.lease = false → q.lease = false)
    (ho : r.lastOutcome = some (.aborted .mains) → q.lastOutcome = some (.aborted .mains)) : r.Winds q where
  sameId := hi
  interval := hw
  state := .inl hs
  lease := hl
  freed h1 h2 := by rw [hs, h1] at h2; cases h2
  dormant _ := ⟨hslot, ht⟩
  abandoned h1 h2 := by rw [hs, h1] at h2; cases h2
  outcome := ho

theorem refl (r : Record) : r.Winds r := of_same rfl rfl rfl rfl rfl (fun h => h) fun h => h

theorem trans (h : r.Winds p) (g : p.Winds q) : r.Winds q where
  sameId := g.sameId.trans h.sameId
  interval := g.interval.trans h.interval
  state := by
    have h1 := h.state
    have h2 := g.state
    grind
  lease := g.lease ∘ h.lease
  freed h1 h2 := by
    rcases h.state with hs | ⟨-, hs⟩ | ⟨hs, -⟩
    · exact g.freed (hs.trans h1) h2
    · exact g.lease (h.freed h1 hs)
    · rw [h1] at hs; cases hs
  dormant h1 := by
    have hs : p.state = .dormant := by simpa [h1] using h.state
    obtain ⟨hslot, ht⟩ := h.dormant h1
    obtain ⟨gslot, gt⟩ := g.dormant hs
    exact ⟨gslot.trans hslot, gt.trans ht⟩
  abandoned h1 h2 := by
    rcases h.state with hs | ⟨hs, -⟩ | ⟨-, hs⟩
    · exact h.interval ▸ g.abandoned (hs.trans h1) h2
    · simp [h1] at hs
    · obtain ⟨hslot, ht⟩ := h.abandoned h1 hs
      obtain ⟨gslot, gt⟩ := g.dormant hs
      exact ⟨gslot.trans hslot, gt.trans ht⟩
  outcome := g.outcome ∘ h.outcome

theorem enter_attached {c : Cause} (h : r.state = .fed ∨ r.state = .testing) : r.Winds (r.enter c .attached) where
  sameId := rfl
  interval := rfl
  state := .inr (.inl ⟨h, rfl⟩)
  lease _ := rfl
  freed _ _ := rfl
  dormant hd := by simp [hd] at h
  abandoned hw := by simp [hw] at h
  outcome h := h

theorem enter_dormant {c : Cause} (h : r.state = .waking) : r.Winds (r.enter c .dormant) where
  sameId := rfl
  interval := rfl
  state := .inr (.inr ⟨h, rfl⟩)
  lease _ := rfl
  freed hf := by simp [hf] at h
  dormant hd := by simp [hd] at h
  abandoned _ _ := ⟨rfl, rfl⟩
  outcome h := h

theorem unleased (r : Record) : r.Winds { r with lease := false } := of_same rfl rfl rfl rfl rfl (fun _ => rfl) fun h => h

theorem aborted (r : Record) : r.Winds (r.storeOutcome (.aborted .mains) 0) := of_same rfl rfl rfl rfl rfl (fun h => h) fun _ => rfl

/-- A record winds down into a serving or WAKING state from that state alone. -/
theorem state_of_active (h : r.Winds q) (hq : q.state = .fed ∨ q.state = .testing ∨ q.state = .waking) : r.state = q.state := by
  rcases h.state with hs | ⟨-, hs⟩ | ⟨-, hs⟩
  · exact hs.symm
  · simp [hs] at hq
  · simp [hs] at hq

end Record.Winds

/-- A cause of outage end takes a record down (table 1-4). -/
theorem Cause.winds {c : Cause} {r : Record} {st : RecState} (h : c.target r.state = some st)
    (hc : c = .leaseEnded ∨ c = .testEndedNoLease ∨ c = .attemptAbandoned) : r.Winds (r.enter c st) := by
  rcases hs : r.state <;> rw [hs] at h <;> rcases hc with rfl | rfl | rfl <;> cases h
  · exact .enter_dormant hs
  · exact .enter_attached (.inl hs)
  · exact .enter_attached (.inr hs)

/-! ## What every step of outage end keeps -/

/-- A step that takes records down, leaves the slots with their records, and keeps in the queues the commands that `keep` says. -/
structure Ebbs (keep : Nat → Cmd → Prop) (d e : Device) : Prop where
  back   : ∀ i q, e.rec? i = some q → ∃ r, d.rec? i = some r ∧ r.Winds q
  stays  : ∀ i r, d.rec? i = some r → (e.rec? i).isSome = true
  held   : ∀ i t, e.heldSlot i t = d.heldSlot i t
  queued : ∀ n c, keep n c → d.queued n c → e.queued n c

namespace Ebbs

variable {keep less : Nat → Cmd → Prop} {d e f : Device}

theorem of_riser (hs : e.riser = d.riser) (hb : ∀ i q, e.rec? i = some q → ∃ r, d.rec? i = some r ∧ r.Winds q)
    (hf : ∀ i r, d.rec? i = some r → (e.rec? i).isSome = true) : Ebbs keep d e :=
  ⟨hb, hf, heldSlot_congr hs, fun n _ _ => queued_of_slot? (slot?_congr hs n)⟩

theorem of_roster (hr : e.roster = d.roster) (hh : ∀ i t, e.heldSlot i t = d.heldSlot i t)
    (hq : ∀ n c, keep n c → d.queued n c → e.queued n c) : Ebbs keep d e where
  back i q h := ⟨q, rec?_congr (congrArg Roster.records hr) i ▸ h, .refl q⟩
  stays i r h := by rw [rec?_congr (congrArg Roster.records hr) i, h]; rfl
  held := hh
  queued := hq

theorem of_same (hr : e.roster = d.roster) (hs : e.riser = d.riser) : Ebbs keep d e :=
  of_roster hr (heldSlot_congr hs) fun n _ _ => queued_of_slot? (slot?_congr hs n)

theorem refl (d : Device) : Ebbs keep d d := of_same rfl rfl

theorem trans (h : Ebbs keep d e) (g : Ebbs keep e f) : Ebbs keep d f where
  back i q hq := by
    obtain ⟨p, hp, hpq⟩ := g.back i q hq
    obtain ⟨r, hr, hrp⟩ := h.back i p hp
    exact ⟨r, hr, hrp.trans hpq⟩
  stays i r hr := by
    obtain ⟨p, hp⟩ := Option.isSome_iff_exists.1 (h.stays i r hr)
    exact g.stays i p hp
  held i t := (g.held i t).trans (h.held i t)
  queued n c hk := g.queued n c hk ∘ h.queued n c hk

theorem mono (h : Ebbs keep d e) (hk : ∀ n c, less n c → keep n c) : Ebbs less d e :=
  { h with queued := fun n c hl => h.queued n c (hk n c hl) }

theorem forth (h : Ebbs keep d e) {i : Nat} {r : Record} (hr : d.rec? i = some r) : ∃ q, e.rec? i = some q ∧ r.Winds q := by
  obtain ⟨q, hq⟩ := Option.isSome_iff_exists.1 (h.stays i r hr)
  obtain ⟨p, hp, hw⟩ := h.back i q hq
  obtain rfl := Option.some_inj.1 (hr.symm.trans hp)
  exact ⟨q, hq, hw⟩

theorem modRec (d : Device) (i : Nat) {g : Record → Record} (hg : ∀ r, d.rec? i = some r → r.Winds (g r)) :
    Ebbs keep d (d.modRec i g) := by
  refine of_riser rfl (fun j q hq => ?_) fun j r hr => ?_
  · rw [rec?_modRec] at hq
    split at hq
    · rename_i hij
      subst hij
      obtain ⟨r, hr, rfl⟩ := Option.map_eq_some_iff.1 hq
      exact ⟨r, hr, hg r hr⟩
    · exact ⟨q, hq, .refl q⟩
  · rw [rec?_modRec, hr]
    split <;> rfl

theorem request (d : Device) (i : Nat) (t : TermId) {c : Cause} (hc : c = .leaseEnded ∨ c = .testEndedNoLease ∨ c = .attemptAbandoned) :
    Ebbs keep d (d.request i t c) := by
  rcases h : d.transition i t c with _ | e
  · rw [Device.request, h]
    exact refl d
  · obtain ⟨r, st, hr, hid, ht, -, -⟩ := Sound.transition_rec h
    rw [request_taken hr hid ht]
    refine modRec d i fun q hq => ?_
    obtain rfl := Option.some_inj.1 (hr.symm.trans hq)
    exact Cause.winds ht hc

theorem post (d : Device) (i : Nat) (t : TermId) {x : Cmd}
    (h : ∀ n c, keep n c → d.queued n c → c.outlasts x ∨ d.heldSlot i t ≠ some n) : Ebbs keep d (d.post i t x) :=
  of_roster (post_roster ..) (heldSlot_post d i t x) fun n c hk hq => queued_post hq (h n c hk hq)

end Ebbs

end Sys2Proof.Machine
end


section
/-! The steps of outage end that the Lease Manager and the Wake Sequencer take (R104, R132): what they leave. -/

namespace Sys2Proof.Machine

open Device

/-- The record that a test names. -/
def Test.holder (t : Test) : Nat × TermId := (t.index, t.id)

/-- A step of the blocks before the Test Engine: no lease, claim, wake queue entry or record attempt is new, and the channels hold
the tests of the same records. -/
structure Subsides (keep : Nat → Cmd → Prop) (d e : Device) : Prop extends Ebbs keep d e where
  mode    : e.mode = d.mode
  leases  : ∀ l ∈ e.lease.leases, l ∈ d.lease.leases
  claims  : ∀ c ∈ e.lease.claims, c ∈ d.lease.claims
  queue   : ∀ x ∈ e.wake.queue, x ∈ d.wake.queue
  attempt : ∀ a, e.wake.attempt = some a →
    (∃ b, d.wake.attempt = some b ∧ b.target = a.target) ∨ ∃ l, a.target = .discovery l
  tests   : ∀ k, (e.test? k).map Test.holder = (d.test? k).map Test.holder

namespace Device

theorem orderPulse_eq (d : Device) (l : Nat) (o : Claimant) : ∃ ls es, d.orderPulse l o = { d with lines := ls, due := es } := by
  have htrip : ∀ e : Device, ∃ es, e.tripIfAsserted l = { e with due := es } := fun e => by
    unfold tripIfAsserted
    split
    · split
      · exact ⟨_, rfl⟩
      · exact ⟨_, rfl⟩
    · exact ⟨_, rfl⟩
  unfold orderPulse
  split
  · split
    · obtain ⟨es, he⟩ := htrip (d.modLine l fun x => { x with switch := .pulse d.settings.pulseLength o })
      exact ⟨_, es, he⟩
    · exact ⟨_, _, rfl⟩
  · exact ⟨_, _, rfl⟩

/-- The record that an eviction picks is one whose queue is empty (R73, R101). -/
theorem evictee_some {d : Device} {k i : Nat} {r : Record} (h : d.evictee k = some (i, r)) :
    d.rec? i = some r ∧ d.queueEmpty i r.id = true := by
  refine List.foldlRecOn (List.range 80) _
    (motive := fun best : Option (Nat × Record) => ∀ i r, best = some (i, r) → d.rec? i = some r ∧ d.queueEmpty i r.id = true)
    (by simp) (fun best hbest j _ i r h => ?_) i r h
  split at h
  · rename_i q hq
    split at h
    · rename_i hev
      have hok : d.rec? j = some q ∧ d.queueEmpty j q.id = true := by
        simp only [evictable, idleEligible, hq, Bool.and_eq_true] at hev
        exact ⟨hq, hev.1.2⟩
      split at h
      · split at h
        · cases h
          exact hok
        · exact hbest _ _ h
      · cases h
        exact hok
    · exact hbest _ _ h
  · exact hbest _ _ h

end Device

namespace Subsides

variable {keep less : Nat → Cmd → Prop} {d e f : Device}

theorem of_ebbs (h : Ebbs keep d e) (hm : e.mode = d.mode := by simp) (hl : e.lease = d.lease := by simp)
    (hw : e.wake = d.wake := by simp) (ht : e.test = d.test := by simp) : Subsides keep d e :=
  { h with
    mode := hm
    leases := fun l => by rw [hl]; exact id
    claims := fun c => by rw [hl]; exact id
    queue := fun x => by rw [hw]; exact id
    attempt := fun a ha => .inl ⟨a, hw ▸ ha, rfl⟩
    tests := fun k => by unfold test?; rw [ht] }

theorem refl (d : Device) : Subsides keep d d := of_ebbs (.refl d) rfl rfl rfl rfl

theorem trans (h : Subsides keep d e) (g : Subsides keep e f) : Subsides keep d f :=
  { h.toEbbs.trans g.toEbbs with
    mode := g.mode.trans h.mode
    leases := fun l => h.leases l ∘ g.leases l
    claims := fun c => h.claims c ∘ g.claims c
    queue := fun x => h.queue x ∘ g.queue x
    attempt := fun a ha => by
      rcases g.attempt a ha with ⟨b, hb, hab⟩ | hl
      · rcases h.attempt b hb with ⟨c, hc, hbc⟩ | ⟨l, hl⟩
        · exact .inl ⟨c, hc, hbc.trans hab⟩
        · exact .inr ⟨l, hab ▸ hl⟩
      · exact .inr hl
    tests := fun k => (g.tests k).trans (h.tests k) }

theorem mono (h : Subsides keep d e) (hk : ∀ n c, less n c → keep n c) : Subsides less d e :=
  { h with toEbbs := h.toEbbs.mono hk }

/-! ## One lemma per step -/

theorem ofLease {m : LeaseMgr} (hl : ∀ l ∈ m.leases, l ∈ d.lease.leases) (hc : ∀ c ∈ m.claims, c ∈ d.lease.claims) :
    Subsides keep d { d with lease := m } :=
  { refl d with leases := hl, claims := hc }

theorem ofWake {w : Wake} (hq : ∀ x ∈ w.queue, x ∈ d.wake.queue) (ha : ∀ a, w.attempt = some a →
    (∃ b, d.wake.attempt = some b ∧ b.target = a.target) ∨ ∃ l, a.target = .discovery l) :
    Subsides keep d { d with wake := w } :=
  { refl d with queue := hq, attempt := ha }

theorem dropEntry (d : Device) (w : WakeEntry) : Subsides keep d (d.dropEntry w) :=
  ofWake (fun _ h => (List.mem_filter.1 h).1) fun a ha => .inl ⟨a, ha, rfl⟩

theorem orderOff (d : Device) (l : Nat) : Subsides keep d (d.orderOff l) := of_ebbs (.of_same rfl rfl) rfl rfl rfl rfl

theorem orderPulse (d : Device) (l : Nat) (o : Claimant) : Subsides keep d (d.orderPulse l o) := by
  obtain ⟨ls, es, h⟩ := orderPulse_eq d l o
  rw [h]
  exact of_ebbs (.of_same rfl rfl) rfl rfl rfl rfl

theorem post (d : Device) (i : Nat) (t : TermId) {x : Cmd}
    (h : ∀ n c, keep n c → d.queued n c → c.outlasts x ∨ d.heldSlot i t ≠ some n) : Subsides keep d (d.post i t x) :=
  of_ebbs (.post d i t h)

theorem freeSlot (d : Device) (n : Nat) : Subsides keep d (d.freeSlot n) :=
  of_ebbs (.of_roster (by simp) (heldSlot_freeSlot d n) fun _ _ _ h => queued_freeSlot h n)

theorem reserveSlot {n : Nat} (h : d.lowestFree = some n) (o : Claimant) : Subsides keep d (d.reserveSlot n o) :=
  of_ebbs (.of_roster (by simp) (heldSlot_reserveSlot h o) fun _ _ _ hq => queued_reserveSlot h o hq)

/-! ## Examinations while the mode is MAINS -/

theorem judgeEviction (d : Device) (k : Nat) : Subsides keep d (d.judgeEviction k) := by
  unfold Device.judgeEviction
  split
  · exact refl d
  · split
    · rename_i i r h
      obtain ⟨-, hempty⟩ := evictee_some h
      refine (post d i r.id fun n c _ hq => .inr fun hn => ?_).trans (ofWake (fun _ h => h) fun a ha => .inl ⟨a, ha, rfl⟩)
      rw [not_queueEmpty hn hq] at hempty
      cases hempty
    · exact refl d

/-- The start of a discovery. -/
theorem startAttempt {w : WakeEntry} {l n : Nat} (hw : w.target = .discovery l) (hn : d.lowestFree = some n) (v : HeadView) :
    Subsides keep d (d.startAttempt w v n) := by
  have hgrant : ∃ g, (if v.method = .pulse then d.grantPermit else d) = g ∧ Subsides keep d g ∧ g.lowestFree = some n := by
    refine ⟨_, rfl, ?_⟩
    split
    · exact ⟨ofLease (fun _ h => h) fun _ h => h, hn⟩
    · exact ⟨refl d, hn⟩
  obtain ⟨g, hg, hdg, hn⟩ := hgrant
  have hset : ∀ a : Attempt, a.target = w.target →
      Subsides keep d (((g.reserveSlot n w.target.claimant).dropEntry w).setAttempt a) := fun a ha =>
    ((hdg.trans (reserveSlot hn _)).trans (dropEntry _ _)).trans
      (ofWake (fun _ h => h) fun b hb => .inr ⟨l, by cases hb; exact ha.trans hw⟩)
  unfold Device.startAttempt
  rw [hg]
  dsimp only
  split
  · exact (hset _ rfl).trans (orderPulse _ _ _)
  · exact hset _ rfl

theorem headView_mains {w : WakeEntry} {v : HeadView} (hm : d.mode.mode = .mains) (hv : d.headView w = some v)
    (hok : v.modeOk = true) : ∃ l, w.target = .discovery l := by
  unfold headView at hv
  split at hv
  · split at hv
    · split at hv
      · obtain rfl := Option.some_inj.1 hv
        simp [hm, Mode.inOutage] at hok
      · cases hv
    · cases hv
  · exact ⟨_, ‹_›⟩

theorem examineLoop : ∀ (k : Nat) (d : Device), d.mode.mode = .mains → Subsides keep d (d.examineLoop k)
  | 0, d, _ => refl d
  | k + 1, d, hm => by
    have hdrop : ∀ w, Subsides keep d ((d.dropEntry w).examineLoop k) := fun w =>
      (dropEntry d w).trans (examineLoop k _ hm)
    unfold Device.examineLoop
    split
    · exact refl d
    split
    · exact refl d
    split
    · exact hdrop _
    rename_i w _ _ v hv
    split
    · exact refl d
    rename_i hok
    obtain ⟨l, hl⟩ := headView_mains hm hv (by simpa using hok)
    split
    · exact refl d
    split
    · exact judgeEviction d _
    rename_i n hn
    split
    · exact refl d
    have hstart : d.startTransition w n = some d := by rw [Device.startTransition, hl]
    rw [hstart]
    exact startAttempt hl hn v

theorem examineWake (hm : d.mode.mode = .mains) : Subsides keep d d.examineWake := examineLoop _ d hm

theorem serve (hm : d.mode.mode = .mains) (hc : d.lease.claims = []) : Subsides keep d d.serve := by
  have h : d.serve = d.examineWake := by
    unfold Device.serve
    rw [hc, serveLoop_none _ hc]
    rfl
  exact h ▸ examineWake hm

theorem returnPermit (hm : d.mode.mode = .mains) (hc : d.lease.claims = []) : Subsides keep d d.returnPermit := by
  unfold Device.returnPermit
  split
  · rename_i n hn
    have hclear : d.clearPermit = { d with lease := { d.lease with permit := none, committed := d.lease.committed - n } } := by
      rw [Device.clearPermit, hn]
    have hsub : Subsides keep d d.clearPermit := hclear ▸ ofLease (fun _ h => h) fun _ h => h
    exact hsub.trans (serve (by rw [hclear]; exact hm) (by rw [hclear]; exact hc))
  · exact refl d

theorem pulseOver (d : Device) : Subsides keep d d.pulseOver :=
  ofWake (fun _ h => h) fun a ha => by
    obtain ⟨b, hb, rfl⟩ := Option.map_eq_some_iff.1 ha
    exact .inl ⟨b, hb, rfl⟩

theorem claims_nil (h : Subsides keep d e) (hc : d.lease.claims = []) : e.lease.claims = [] :=
  List.eq_nil_iff_forall_not_mem.2 fun c hce => by simpa [hc] using h.claims c hce

theorem stopPulse (hm : d.mode.mode = .mains) (hc : d.lease.claims = []) : Subsides keep d d.stopPulse := by
  unfold Device.stopPulse
  split
  · split
    · rename_i a _ _
      have hoff : ∀ o : Option Nat, Subsides keep d ((match o with
          | some l => d.orderOff l
          | none => d) : Device).pulseOver := fun o => by
        cases o with
        | some l => exact (orderOff d l).trans (pulseOver _)
        | none => exact pulseOver d
      have h := hoff (d.targetLine a.target)
      exact h.trans (returnPermit (h.mode ▸ hm) (h.claims_nil hc))
    · exact refl d
  · exact refl d

/-- The abandonment of an attempt, which leaves none but a discovery's (R92). -/
theorem abandonAttempt (hm : d.mode.mode = .mains) (hc : d.lease.claims = []) :
    Subsides keep d d.abandonAttempt ∧ ∀ a, d.abandonAttempt.wake.attempt = some a → ∃ l, a.target = .discovery l := by
  unfold Device.abandonAttempt
  split
  · rename_i a _
    have hclear : Subsides keep d (d.stopPulse.freeSlot a.slot).clearAttempt :=
      ((stopPulse hm hc).trans (freeSlot _ _)).trans (ofWake (fun _ h => h) (by simp))
    have hexam : Subsides keep (d.stopPulse.freeSlot a.slot).clearAttempt _ := examineWake (hclear.mode ▸ hm)
    refine ⟨hclear.trans hexam, fun b hb => (hexam.attempt b hb).resolve_left ?_⟩
    rintro ⟨c, hc, -⟩
    cases hc
  · rename_i h
    exact ⟨refl d, fun a ha => by rw [h] at ha; cases ha⟩

end Subsides

end Sys2Proof.Machine
end


section
/-! The Lease Manager's and the Wake Sequencer's parts in outage end (R104, R132). -/

namespace Sys2Proof.Machine

open Device

namespace Device

theorem request_eq (d : Device) (i : Nat) (t : TermId) (c : Cause) : ∃ rs, d.request i t c = { d with roster := rs } := by
  unfold request
  rcases h : d.transition i t c with _ | e
  · exact ⟨_, rfl⟩
  · obtain ⟨r, st, -, -, -, rfl, -⟩ := Sound.transition_rec h
    exact ⟨_, rfl⟩

/-- No record of this index and ID is in a state. -/
def clearOf (d : Device) (i : Nat) (t : TermId) (st : RecState) : Prop := ∀ r, d.rec? i = some r → r.id = t → r.state ≠ st

end Device

theorem Ebbs.clearOf {keep : Nat → Cmd → Prop} {d e : Device} (h : Ebbs keep d e) {i : Nat} {t : TermId} {st : RecState}
    (hst : st = .fed ∨ st = .testing ∨ st = .waking) (hd : d.clearOf i t st) : e.clearOf i t st := by
  rintro q hq hid rfl
  obtain ⟨r, hr, hw⟩ := h.back i q hq
  exact hd r hr (hw.sameId.symm.trans hid) (hw.state_of_active hst)

/-- A request of outage end that table 1-4 takes from a state leaves the record out of that state. -/
theorem Device.request_clearOf (d : Device) (i : Nat) (t : TermId) {c : Cause} {st st' : RecState}
    (hc : c = .leaseEnded ∨ c = .testEndedNoLease ∨ c = .attemptAbandoned) (ht : c.target st = some st') (hne : st' ≠ st)
    (hst : st = .fed ∨ st = .testing ∨ st = .waking) : (d.request i t c).clearOf i t st := by
  rintro q hq hid rfl
  obtain ⟨r, hr, hw⟩ := (Ebbs.request (keep := fun _ _ => True) d i t hc).back i q hq
  rw [request_taken hr (hw.sameId.symm.trans hid) (hw.state_of_active hst ▸ ht), rec?_modRec_same, hr] at hq
  obtain rfl := Option.some_inj.1 hq
  exact hne (r.enter_names c st').2.symm

namespace Subsides

variable {keep : Nat → Cmd → Prop} {d e f : Device}

theorem request (d : Device) (i : Nat) (t : TermId) {c : Cause} (hc : c = .leaseEnded ∨ c = .testEndedNoLease ∨ c = .attemptAbandoned) :
    Subsides keep d (d.request i t c) := by
  have h : Ebbs keep d (d.request i t c) := .request d i t hc
  obtain ⟨rs, he⟩ := request_eq d i t c
  rw [he] at h ⊢
  exact of_ebbs h rfl rfl rfl rfl

theorem modTest (d : Device) (i : Nat) {g : Test → Test} (hg : ∀ x, (g x).holder = x.holder) : Subsides keep d (d.modTest i g) := by
  refine { refl d with tests := fun k => ?_ }
  rw [test?_modTest, Option.map_map]
  refine congrArg (Option.map · (d.test? k)) (funext fun x => ?_)
  by_cases hx : x.index = i <;> simp [hx, hg]

theorem leaseEndRecord (d : Device) (i : Nat) (t : TermId) : Subsides keep d (d.leaseEndRecord i t) := by
  unfold Device.leaseEndRecord
  split
  · exact request d i t (.inl rfl)
  · exact (of_ebbs (.modRec d i fun r _ => .unleased r) rfl rfl rfl rfl).trans (modTest _ i fun _ => rfl)

theorem removeLease (d : Device) (l : Lease) : Subsides keep d (d.removeLease l) :=
  ofLease (fun _ h => (List.mem_filter.1 h).1) fun _ h => h

theorem onLineOf (d : Device) (i : Nat) : Subsides keep d (d.onLineOf i Device.orderOff) := by
  unfold Device.onLineOf
  split
  · exact orderOff d _
  · exact refl d

end Subsides

namespace Device

variable {d : Device}

theorem leaseEndRecord_clearOf (d : Device) (i : Nat) (t : TermId) : (d.leaseEndRecord i t).clearOf i t .fed := by
  rcases hf : d.inState i .fed with _ | _
  · refine (Subsides.leaseEndRecord (keep := fun _ _ => True) d i t).clearOf (.inl rfl) fun r hr _ hs => ?_
    rw [inState_eq hr, hs] at hf
    cases hf
  · rw [leaseEndRecord, hf, if_pos rfl]
    exact request_clearOf d i t (.inl rfl) rfl (by decide) (.inl rfl)

theorem leaseEndRecord_wake (d : Device) (i : Nat) (t : TermId) : (d.leaseEndRecord i t).wake = d.wake := by
  unfold leaseEndRecord
  split
  · obtain ⟨rs, he⟩ := request_eq d i t .leaseEnded
    rw [he]
  · rfl

end Device

/-! ## The Lease Manager's part -/

/-- What the Lease Manager makes of a device at outage end: these leases have ended. -/
structure LeasesEnded (ls : List Lease) (d e : Device) : Prop extends Subsides (fun _ c => c = .cut .mains) d e where
  wake   : e.wake = d.wake
  waits  : e.lease.claims = d.lease.claims
  gone   : ∀ l ∈ e.lease.leases, ∀ y ∈ ls, l.index ≠ y.index
  told   : ∀ y ∈ ls, ∀ n, d.heldSlot y.index y.id = some n → e.queued n (.cut .mains)
  unfed  : ∀ y ∈ ls, e.clearOf y.index y.id .fed

theorem LeasesEnded.endLeaseQuiet (d : Device) (y : Lease) : LeasesEnded [y] d (d.endLeaseQuiet y .mains) := by
  have hline : ∃ g, (if y.phase = .live then (d.removeLease y).onLineOf y.index orderOff else d.removeLease y) = g
      ∧ Subsides (fun _ c => c = Cmd.cut .mains) d g ∧ g.lease = (d.removeLease y).lease ∧ g.wake = d.wake := by
    refine ⟨_, rfl, ?_⟩
    split
    · refine ⟨(Subsides.removeLease d y).trans (Subsides.onLineOf _ _), (onLineOf_orderOff_parts _ _).1, ?_⟩
      unfold onLineOf
      split <;> rfl
    · exact ⟨Subsides.removeLease d y, rfl, rfl⟩
  obtain ⟨g, hg, hdg, hlease, hwake⟩ := hline
  have he : d.endLeaseQuiet y .mains = (g.leaseEndRecord y.index y.id).post y.index y.id (.cut .mains) := by
    rw [← hg]
    rfl
  have hrec : Subsides (fun _ c => c = Cmd.cut .mains) d (g.leaseEndRecord y.index y.id) := hdg.trans (.leaseEndRecord g _ _)
  have hpost : Subsides (fun _ c => c = Cmd.cut .mains) (g.leaseEndRecord y.index y.id) (d.endLeaseQuiet y .mains) :=
    he ▸ .post _ _ _ fun _ _ hc _ => .inl (.inl hc)
  have hl : (d.endLeaseQuiet y .mains).lease = (d.removeLease y).lease := by
    rw [he, post_lease, (leaseEndRecord_parts ..).1, hlease]
  refine { hrec.trans hpost with
    wake := by rw [he, post_wake, leaseEndRecord_wake, hwake]
    waits := by rw [hl]; rfl
    gone := fun l h z hz => ?_
    told := fun z hz n hn => ?_
    unfed := fun z hz => ?_ }
  all_goals obtain rfl := List.mem_singleton.1 hz
  · rw [hl] at h
    simpa using (List.mem_filter.1 h).2
  · rw [he]
    exact post_queued ((hrec.held _ _).trans hn)
  · exact hpost.clearOf (.inl rfl) (leaseEndRecord_clearOf g z.index z.id)

theorem LeasesEnded.cons {y : Lease} {ls : List Lease} {d e f : Device} (h : LeasesEnded [y] d e) (g : LeasesEnded ls e f) :
    LeasesEnded (y :: ls) d f where
  toSubsides := h.toSubsides.trans g.toSubsides
  wake := g.wake.trans h.wake
  waits := g.waits.trans h.waits
  gone l hl := List.forall_mem_cons.2 ⟨h.gone l (g.leases l hl) y (by simp), g.gone l hl⟩
  told := List.forall_mem_cons.2 ⟨fun n hn => g.queued n _ rfl (h.told y (by simp) n hn),
    fun z hz n hn => g.told z hz n ((h.held _ _).trans hn)⟩
  unfed := List.forall_mem_cons.2 ⟨g.clearOf (.inl rfl) (h.unfed y (by simp)), g.unfed⟩

theorem leasesEnded_foldl : ∀ (ls : List Lease) (d : Device), LeasesEnded ls d (ls.foldl (fun d l => d.endLeaseQuiet l .mains) d)
  | [], d => { Subsides.refl d with wake := rfl, waits := rfl, gone := by simp, told := by simp, unfed := by simp }
  | y :: ls, d => (LeasesEnded.endLeaseQuiet d y).cons (leasesEnded_foldl ls _)

/-- What the Lease Manager makes of a device at outage end: these claims are answered. -/
structure ClaimsDeferred (cs : List ClaimEntry) (d e : Device) : Prop
    extends Subsides (fun _ c => c = .cut .mains ∨ c = .defer .mains) d e where
  wake : e.wake = d.wake
  gone : ∀ c ∈ e.lease.claims, ∀ y ∈ cs, c.index ≠ y.index
  told : ∀ y ∈ cs, ∀ n, d.heldSlot y.index y.id = some n → e.queued n (.defer .mains)

theorem ClaimsDeferred.deferClaim (d : Device) (y : ClaimEntry) : ClaimsDeferred [y] d (d.deferClaim y .mains) := by
  have hclaim : Subsides (fun _ c => c = Cmd.cut .mains ∨ c = .defer .mains) d (d.removeClaim y.index) :=
    .ofLease (fun _ h => h) fun _ h => (List.mem_filter.1 h).1
  have hpost : Subsides (fun _ c => c = Cmd.cut .mains ∨ c = .defer .mains) (d.removeClaim y.index) (d.deferClaim y .mains) :=
    .post _ _ _ fun _ c hc _ => .inl (hc.elim (fun h => .inr (h ▸ ⟨rfl, by decide⟩)) .inl)
  refine { hclaim.trans hpost with
    wake := by rw [Device.deferClaim, post_wake, removeClaim_wake]
    gone := fun c h z hz => ?_
    told := fun z hz n hn => ?_ }
  all_goals obtain rfl := List.mem_singleton.1 hz
  · rw [Device.deferClaim, post_lease] at h
    simpa using (List.mem_filter.1 h).2
  · exact post_queued ((hclaim.held _ _).trans hn)

theorem ClaimsDeferred.cons {y : ClaimEntry} {cs : List ClaimEntry} {d e f : Device} (h : ClaimsDeferred [y] d e)
    (g : ClaimsDeferred cs e f) : ClaimsDeferred (y :: cs) d f where
  toSubsides := h.toSubsides.trans g.toSubsides
  wake := g.wake.trans h.wake
  gone c hc := List.forall_mem_cons.2 ⟨h.gone c (g.claims c hc) y (by simp), g.gone c hc⟩
  told := List.forall_mem_cons.2 ⟨fun n hn => g.queued n _ (.inr rfl) (h.told y (by simp) n hn),
    fun z hz n hn => g.told z hz n ((h.held _ _).trans hn)⟩

theorem claimsDeferred_foldl : ∀ (cs : List ClaimEntry) (d : Device),
    ClaimsDeferred cs d (cs.foldl (fun d c => d.deferClaim c .mains) d)
  | [], d => { Subsides.refl d with wake := rfl, gone := by simp, told := by simp }
  | y :: cs, d => (ClaimsDeferred.deferClaim d y).cons (claimsDeferred_foldl cs _)

/-- What the Lease Manager makes of a device at outage end (R132). -/
structure Unleased (d e : Device) : Prop extends Subsides (fun _ c => c = .cut .mains) d e where
  noLease  : e.lease.leases = []
  noClaim  : e.lease.claims = []
  busy     : d.wake.attempt.isSome = true → e.wake = d.wake
  cut      : ∀ l ∈ d.lease.leases, ∀ n, d.heldSlot l.index l.id = some n → e.queued n (.cut .mains)
  deferred : ∀ c ∈ d.lease.claims, ∀ n, d.heldSlot c.index c.id = some n → e.queued n (.defer .mains)
  unfed    : ∀ l ∈ d.lease.leases, e.clearOf l.index l.id .fed

theorem outageEndLeases_unleased {d : Device} (hm : d.mode.mode = .mains) : Unleased d d.outageEndLeases := by
  have h := leasesEnded_foldl d.lease.leases d
  unfold Device.outageEndLeases
  generalize d.lease.leases.foldl (fun d l => d.endLeaseQuiet l .mains) d = e at h ⊢
  have g := claimsDeferred_foldl e.lease.claims e
  dsimp only
  generalize e.lease.claims.foldl (fun d c => d.deferClaim c .mains) e = f at g ⊢
  have hexam : Subsides (fun _ _ => True) f f.examineWake := .examineWake (by rw [g.mode, h.mode, hm])
  have hall := (h.trans (g.mono fun _ _ => .inl)).trans (hexam.mono fun _ _ _ => trivial)
  have hwake : f.wake = d.wake := g.wake.trans h.wake
  exact { hall with
    noLease := List.eq_nil_iff_forall_not_mem.2 fun l hl => by
      have hle := g.leases l (hexam.leases l hl)
      exact h.gone l hle l (h.leases l hle) rfl
    noClaim := List.eq_nil_iff_forall_not_mem.2 fun c hc => by
      have hce := hexam.claims c hc
      exact g.gone c hce c (g.claims c hce) rfl
    busy := fun hb => by rw [examineWake_busy (by rw [hwake]; exact hb), hwake]
    cut := fun l hl n hn => hexam.queued n _ trivial (g.queued n _ (.inl rfl) (h.told l hl n hn))
    deferred := fun c hc n hn => hexam.queued n _ trivial (g.told c (h.waits ▸ hc) n ((h.held _ _).trans hn))
    unfed := fun l hl => hexam.clearOf (.inl rfl) (g.clearOf (.inl rfl) (h.unfed l hl)) }

/-! ## The Wake Sequencer's part -/

/-- What the Wake Sequencer makes of a device at outage end (R104). -/
structure Unqueued (d e : Device) : Prop extends Subsides (fun _ _ => True) d e where
  discoveries : ∀ x ∈ e.wake.queue, x.isDiscovery = true
  discovery   : ∀ a, e.wake.attempt = some a → ∃ l, a.target = .discovery l
  unwoken     : ∀ a i t p, d.wake.attempt = some a → a.target = .record i t p → e.clearOf i t .waking

theorem outageEndWakes_unqueued {d : Device} (hm : d.mode.mode = .mains) (hc : d.lease.claims = []) : Unqueued d d.outageEndWakes := by
  have hqueue : ∃ g, ({ d with wake := { d.wake with queue := d.wake.queue.filter fun e => e.isDiscovery } } : Device) = g
      ∧ Subsides (fun _ _ => True) d g ∧ (∀ x ∈ g.wake.queue, x.isDiscovery = true) ∧ g.wake.attempt = d.wake.attempt :=
    ⟨_, rfl, .ofWake (fun _ h => (List.mem_filter.1 h).1) fun a ha => .inl ⟨a, ha, rfl⟩, fun _ h => (List.mem_filter.1 h).2, rfl⟩
  obtain ⟨g, hg, hdg, hdisc, hatt⟩ := hqueue
  unfold Device.outageEndWakes
  rw [hg]
  dsimp only
  have hexam : Subsides (fun _ _ => True) g g.examineWake := .examineWake (hdg.mode ▸ hm)
  split
  · rename_i a ha
    split
    · rename_i i t p htarget
      have hreq : Subsides (fun _ _ => True) g (g.request i t .attemptAbandoned) := .request g i t (.inr (.inr rfl))
      obtain ⟨hab, hdiscovery⟩ := Subsides.abandonAttempt (keep := fun _ _ => True) (hreq.mode.trans hdg.mode ▸ hm)
        ((hdg.trans hreq).claims_nil hc)
      refine { (hdg.trans hreq).trans hab with
        discoveries := fun x hx => hdisc x (hreq.queue x (hab.queue x hx))
        discovery := hdiscovery
        unwoken := fun b j u q hb hbt => ?_ }
      obtain rfl := Option.some_inj.1 (ha.symm.trans (hatt.trans hb))
      obtain ⟨rfl, rfl, rfl⟩ := WakeTarget.record.inj (htarget.symm.trans hbt)
      exact hab.clearOf (.inr (.inr rfl)) (request_clearOf g i t (.inr (.inr rfl)) rfl (by decide) (.inr (.inr rfl)))
    · rename_i l htarget
      refine { hdg.trans hexam with
        discoveries := fun x hx => hdisc x (hexam.queue x hx)
        discovery := fun b hb => (hexam.attempt b hb).elim ?_ id
        unwoken := fun b j u q hb hbt => ?_ }
      · rintro ⟨b', hb', hbb⟩
        obtain rfl := Option.some_inj.1 (ha.symm.trans hb')
        exact ⟨l, hbb.symm.trans htarget⟩
      · obtain rfl := Option.some_inj.1 (ha.symm.trans (hatt.trans hb))
        cases htarget.symm.trans hbt
  · rename_i ha
    refine { hdg.trans hexam with
      discoveries := fun x hx => hdisc x (hexam.queue x hx)
      discovery := fun b hb => (hexam.attempt b hb).resolve_left ?_
      unwoken := fun b j u q hb _ => ?_ }
    · rintro ⟨b', hb', -⟩
      cases ha.symm.trans hb'
    · cases ha.symm.trans (hatt.trans hb)

end Sys2Proof.Machine
end


section
/-! The Test Engine's part in outage end (R168), and the obligation on outage end. -/

namespace Sys2Proof.Machine

open Device

/-- The answer to a test that outage end aborts. -/
def Cmd.testOver : Cmd := .testEnd (.aborted .mains)

namespace Device

variable {d e : Device}

theorem resumeRecord_unleased (h : d.lease.leases = []) (i : Nat) (t : TermId) :
    d.resumeRecord i t = d.request i t .testEndedNoLease := by
  have hnone : d.leaseOf i = none := leaseOf_none_iff.2 (by simp [h])
  have hresume : d.resume i = d := by
    unfold resume
    rw [hnone]
  unfold resumeRecord
  rw [hresume]
  dsimp only
  rw [hnone]
  rfl

/-- The record's part in a test that outage end aborts, and the answer posted (R164, R168). -/
theorem closeTest_mains {keep : Nat → Cmd → Prop} (hl : d.lease.leases = []) (t : Test) : ∃ e, Ebbs keep d e
    ∧ (∃ rs, e = { d with roster := rs })
    ∧ (∀ q, e.rec? t.index = some q → q.id = t.id → q.state ≠ .testing ∧ q.lastOutcome = some (.aborted .mains))
    ∧ d.closeTest t (.aborted .mains) 0 = e.post t.index t.id .testOver := by
  have hclear : (d.request t.index t.id .testEndedNoLease).clearOf t.index t.id .testing :=
    request_clearOf d _ _ (.inr (.inl rfl)) rfl (by decide) (.inr (.inl rfl))
  obtain ⟨rs, he⟩ := request_eq d t.index t.id .testEndedNoLease
  refine ⟨(d.request t.index t.id .testEndedNoLease).modRec t.index fun r => r.storeOutcome (.aborted .mains) 0,
    (Ebbs.request d _ _ (.inr (.inl rfl))).trans (.modRec _ _ fun r _ => .aborted r), ⟨_, by rw [he]; rfl⟩, fun q hq hid => ?_, ?_⟩
  · rw [rec?_modRec_same] at hq
    obtain ⟨r, hr, rfl⟩ := Option.map_eq_some_iff.1 hq
    exact ⟨hclear r hr hid, rfl⟩
  · rw [closeTest, resumeRecord_unleased hl]
    rfl

/-- What the aborts of outage end leave in the queue of a slot: TEST_END, a CUT, and all where no test's record holds the slot. -/
def keptByTests (d : Device) (n : Nat) (c : Cmd) : Prop :=
  c.outlasts .testOver ∨ ∀ k t, d.test? k = some t → d.heldSlot t.index t.id ≠ some n

end Device

/-- What the Test Engine makes of a device at outage end: the tests in these channels have ended. -/
structure TestsEnded (ks : List Nat) (d e : Device) : Prop extends Ebbs d.keptByTests d e where
  lease  : e.lease = d.lease
  wake   : e.wake = d.wake
  free   : ∀ k, e.test? k = if k ∈ ks then none else d.test? k
  told   : ∀ k ∈ ks, ∀ t n, d.test? k = some t → d.heldSlot t.index t.id = some n → e.queued n .testOver
  closed : ∀ k ∈ ks, ∀ t, d.test? k = some t → ∀ q, e.rec? t.index = some q → q.id = t.id →
    q.state ≠ .testing ∧ q.lastOutcome = some (.aborted .mains)

namespace TestsEnded

variable {d e f : Device}

theorem refl (d : Device) : TestsEnded [] d d :=
  { Ebbs.refl d with lease := rfl, wake := rfl, free := by simp, told := by simp, closed := by simp }

theorem keeps {ks : List Nat} (h : TestsEnded ks d e) {n : Nat} {c : Cmd} (hc : d.keptByTests n c) : e.keptByTests n c := by
  refine hc.imp id fun hc k t ht => ?_
  rw [h.free] at ht
  split at ht
  · cases ht
  · rw [h.held]
    exact hc k t ht

theorem cons {k : Nat} {ks : List Nat} (h : TestsEnded [k] d e) (g : TestsEnded ks e f) : TestsEnded (k :: ks) d f := by
  have hrest : ∀ j, j ≠ k → e.test? j = d.test? j := fun j hj => by rw [h.free, if_neg (by simpa using hj)]
  refine { h.toEbbs.trans (g.toEbbs.mono fun _ _ => h.keeps) with
    lease := g.lease.trans h.lease
    wake := g.wake.trans h.wake
    free := fun j => ?_
    told := fun j hj t n ht hn => ?_
    closed := fun j hj t ht q hq hid => ?_ }
  · rw [g.free, h.free]
    by_cases hjk : j = k <;> simp [hjk]
  · by_cases hjk : j = k
    · subst hjk
      exact g.queued n _ (.inl (.inl rfl)) (h.told j (by simp) t n ht hn)
    · exact g.told j ((List.mem_cons.1 hj).resolve_left hjk) t n ((hrest j hjk).trans ht) ((h.held _ _).trans hn)
  · by_cases hjk : j = k
    · subst hjk
      obtain ⟨p, hp, hw⟩ := g.back _ q hq
      obtain ⟨hstate, hout⟩ := h.closed j (by simp) t ht p hp (hw.sameId.symm.trans hid)
      exact ⟨fun hs => hstate ((hw.state_of_active (.inr (.inl hs))).trans hs), hw.outcome hout⟩
    · exact g.closed j ((List.mem_cons.1 hj).resolve_left hjk) t ((hrest j hjk).trans ht) q hq hid

theorem endTestMains (hl : d.lease.leases = []) (k : Nat) : TestsEnded [k] d (d.endTestMains k) := by
  unfold Device.endTestMains
  split
  · rename_i t ht
    obtain ⟨e, hde, ⟨rs, he⟩, hclosed, hclose⟩ := closeTest_mains (keep := d.keptByTests) hl t
    have hpost : Ebbs d.keptByTests e (e.post t.index t.id .testOver) :=
      .post _ _ _ fun n c hc _ => hc.imp id fun hc => by
        rw [hde.held]
        exact hc k t ht
    have hfree : Ebbs d.keptByTests (e.post t.index t.id .testOver) ((d.closeTest t (.aborted .mains) 0).putChannel k none) := by
      rw [hclose]
      exact .of_same rfl rfl
    have htest : (d.closeTest t (.aborted .mains) 0).test = d.test := by rw [hclose, post_test, he]
    refine { (hde.trans hpost).trans hfree with
      lease := by rw [hclose, putChannel_lease, post_lease, he]
      wake := by rw [hclose, putChannel_wake, post_wake, he]
      free := fun j => ?_
      told := fun j hj u n hu hn => ?_
      closed := fun j hj u hu q hq hid => ?_ }
    · rw [test?_putChannel_none]
      unfold test?
      rw [htest]
      by_cases hj : j = k
      · simp [hj]
      · simp [hj, Ne.symm hj]
    all_goals
      obtain rfl := List.mem_singleton.1 hj
      obtain rfl := Option.some_inj.1 (ht.symm.trans hu)
    · refine hfree.queued n _ (.inl (.inl rfl)) (post_queued ?_)
      rw [hde.held, hn]
    · obtain ⟨p, hp, hw⟩ := (hpost.trans hfree).back _ q hq
      obtain ⟨hstate, hout⟩ := hclosed p hp (hw.sameId.symm.trans hid)
      exact ⟨fun hs => hstate ((hw.state_of_active (.inr (.inl hs))).trans hs), hw.outcome hout⟩
  · rename_i ht
    refine { Ebbs.refl d with
      lease := rfl
      wake := rfl
      free := fun j => ?_
      told := fun j hj t n hjt => ?_
      closed := fun j hj t hjt => ?_ }
    · by_cases hj : j = k <;> simp [hj, ht]
    all_goals
      obtain rfl := List.mem_singleton.1 hj
      cases ht.symm.trans hjt

theorem foldl : ∀ (ks : List Nat) (d : Device), d.lease.leases = [] → TestsEnded ks d (ks.foldl Device.endTestMains d)
  | [], d, _ => refl d
  | k :: ks, _, hl => by
    have h := endTestMains hl k
    exact h.cons (foldl ks _ (by rw [h.lease]; exact hl))

end TestsEnded

/-! ## What outage end leaves of the device as a whole -/

theorem Handled.outageEndLeases (d : Device) : Handled d d.outageEndLeases :=
  ((Served.foldl (fun d l => Served.endLeaseQuiet d l .mains) _ d).trans
    ((Served.foldl (fun d c => Served.deferClaim d c .mains) _ _).trans (Served.examineWake _))).weaken

theorem Handled.outageEndWakes (d : Device) : Handled d d.outageEndWakes := by
  have hqueue : Served d { d with wake := { d.wake with queue := d.wake.queue.filter fun e => e.isDiscovery } } := Kept.ofWake _ rfl rfl
  refine (hqueue.trans ?_).weaken
  unfold Device.outageEndWakes
  dsimp only
  split
  · split
    · exact (Served.request _ _ _ _).trans (Served.abandonAttempt _)
    · exact Served.examineWake _
  · exact Served.examineWake _

theorem Handled.outageEndTests (d : Device) : Handled d d.outageEndTests := by
  have hfold : ∀ (ks : List Nat) (d : Device), Handled d (ks.foldl Device.endTestMains d) := by
    intro ks
    induction ks with
    | nil => exact Kept.refl _
    | cons k ks ih => exact fun d => (Handled.endTestMains d k).trans (ih _)
  exact (hfold _ d).trans (Kept.ofTest _ rfl)

/-! ## The three parts together -/

/-- A slot is held for one index. -/
theorem Device.heldSlot_index {d : Device} {i j n : Nat} {t u : TermId} (hi : d.heldSlot i t = some n) (hj : d.heldSlot j u = some n) :
    i = j := by
  obtain ⟨⟨x, g, hx, hg, hgi, -⟩, -⟩ := heldSlot_some_iff.1 hi
  obtain ⟨⟨y, k, hy, hk, hkj, -⟩, -⟩ := heldSlot_some_iff.1 hj
  obtain rfl := Option.some_inj.1 (hx.symm.trans hy)
  obtain rfl := SlotUse.held.inj (hg.symm.trans hk)
  exact hgi.symm.trans hkj

/-- The device after the three blocks' parts in outage end. -/
structure OutageOver (d e : Device) : Prop extends Ebbs (fun _ c => c = .cut .mains) d e where
  leases   : e.lease.leases = []
  claims   : e.lease.claims = []
  queue    : ∀ x ∈ e.wake.queue, x.isDiscovery = true
  attempt  : ∀ a, e.wake.attempt = some a → ∃ l, a.target = .discovery l
  channels : d.test.channels.length = 4 → ∀ k, e.test? k = none
  cut      : ∀ l ∈ d.lease.leases, ∀ n, d.heldSlot l.index l.id = some n → e.queued n (.cut .mains)
  deferred : ∀ c ∈ d.lease.claims, ∀ n, (∀ k t, d.test? k = some t → t.index ≠ c.index) → d.heldSlot c.index c.id = some n →
    e.queued n (.defer .mains)
  ended    : ∀ k t n, k < 4 → d.test? k = some t → d.heldSlot t.index t.id = some n → e.queued n .testOver
  unfed    : ∀ l ∈ d.lease.leases, e.clearOf l.index l.id .fed
  closed   : ∀ k t, k < 4 → d.test? k = some t → ∀ q, e.rec? t.index = some q → q.id = t.id →
    q.state ≠ .testing ∧ q.lastOutcome = some (.aborted .mains)
  unwoken  : ∀ a i t p, d.wake.attempt = some a → a.target = .record i t p → e.clearOf i t .waking

theorem Unleased.outageOver {d a b c : Device} (hA : Unleased d a) (hB : Unqueued a b) (hC : TestsEnded (List.range 4) b c) :
    OutageOver d c := by
  have hab : Subsides (fun _ c => c = Cmd.cut .mains) d b := hA.trans (hB.mono fun _ _ _ => trivial)
  have hcut : ∀ n, b.keptByTests n (.cut .mains) := fun _ => .inl (.inr ⟨rfl, by decide⟩)
  have htest : ∀ k t, d.test? k = some t → ∃ u, b.test? k = some u ∧ u.index = t.index ∧ u.id = t.id := fun k t ht => by
    have hkey := hab.tests k
    rw [ht] at hkey
    obtain ⟨u, hu, huv⟩ := Option.map_eq_some_iff.1 hkey
    exact ⟨u, hu, Prod.mk.inj huv⟩
  have hback : ∀ k u, b.test? k = some u → ∃ t, d.test? k = some t ∧ u.index = t.index := fun k u hu => by
    have hkey := (hab.tests k).symm
    rw [hu] at hkey
    obtain ⟨t, ht, htu⟩ := Option.map_eq_some_iff.1 hkey
    exact ⟨t, ht, (Prod.mk.inj htu).1.symm⟩
  refine { hab.toEbbs.trans (hC.mono fun n _ h => h ▸ hcut n) with
    leases := ?_
    claims := ?_
    queue := fun x hx => hB.discoveries x (hC.wake ▸ hx)
    attempt := fun x hx => hB.discovery x (hC.wake ▸ hx)
    channels := fun hlen k => ?_
    cut := fun l hl n hn => hC.queued n _ (hcut n) (hB.queued n _ trivial (hA.cut l hl n hn))
    deferred := fun x hx n hout hn => ?_
    ended := fun k t n hk ht hn => ?_
    unfed := fun l hl => hC.clearOf (.inl rfl) (hB.clearOf (.inl rfl) (hA.unfed l hl))
    closed := fun k t hk ht q hq hid => ?_
    unwoken := fun x i t p hx hp => hC.clearOf (.inr (.inr rfl)) (hB.unwoken x i t p ?_ hp) }
  · rw [hC.lease]
    exact List.eq_nil_iff_forall_not_mem.2 fun l hl => by simpa [hA.noLease] using hB.leases l hl
  · rw [hC.lease]
    exact hB.claims_nil hA.noClaim
  · rw [hC.free]
    split
    · rfl
    · rename_i hk
      have hd : d.test? k = none := by
        unfold test?
        rw [List.getElem?_eq_none (by simpa [hlen] using hk)]
        rfl
      simpa [hd] using hab.tests k
  · refine hC.queued n _ (.inr fun k u hu hun => ?_) (hB.queued n _ trivial (hA.deferred x hx n hn))
    obtain ⟨t, ht, hut⟩ := hback k u hu
    exact hout k t ht (hut.symm.trans (heldSlot_index hun ((hab.held _ _).trans hn)))
  · obtain ⟨u, hu, hi, hid⟩ := htest k t ht
    exact hC.told k (List.mem_range.2 hk) u n hu (by rw [hi, hid, hab.held, hn])
  · obtain ⟨u, hu, hi, hud⟩ := htest k t ht
    exact hC.closed k (List.mem_range.2 hk) u hu q (hi ▸ hq) (hid.trans hud.symm)
  · rw [hA.busy (by rw [hx]; rfl), hx]

namespace OutageOver

variable {d e : Device} {i : Nat} {r : Record}

/-- What outage end makes of a record. -/
theorem records (h : OutageOver d e) (hr : d.rec? i = some r) : ∃ q, e.rec? i = some q
    ∧ ((∃ l ∈ d.lease.leases, l.index = i ∧ l.id = r.id) → r.state = .fed → q.state = .attached ∧ q.lease = false)
    ∧ (∀ k t, k < 4 → d.test? k = some t → t.index = i → t.id = r.id → r.state = .testing →
        q.state = .attached ∧ q.lastOutcome = some (.aborted .mains))
    ∧ (∀ a p, d.wake.attempt = some a → a.target = .record i r.id p → r.state = .waking →
        q.state = .dormant ∧ q.slot = none ∧ q.wakeTimer = if r.wakeInterval = 0 then none else some r.wakeInterval)
    ∧ (r.state = .pending ∨ r.state = .dormant ∨ r.state = .attached ∨ r.state = .quarantined → q.state = r.state) := by
  obtain ⟨q, hq, hw⟩ := h.forth hr
  have hstate := hw.state
  refine ⟨q, hq, ?_, fun k t hk ht hi hid hs => ?_, fun a p ha hp hs => ?_, fun hs => ?_⟩
  · rintro ⟨l, hl, rfl, hid⟩ hs
    have hne : q.state ≠ .fed := h.unfed l hl q hq (hw.sameId.trans hid.symm)
    have hatt : q.state = .attached := by simpa [hs, hne] using hstate
    exact ⟨hatt, hw.freed hs hatt⟩
  · subst hi
    obtain ⟨hne, hout⟩ := h.closed k t hk ht q hq (hw.sameId.trans hid.symm)
    exact ⟨by simpa [hs, hne] using hstate, hout⟩
  · have hne : q.state ≠ .waking := h.unwoken a i r.id p ha hp q hq hw.sameId
    have hdormant : q.state = .dormant := by simpa [hs, hne] using hstate
    exact ⟨hdormant, hw.abandoned hs hdormant⟩
  · rcases hs with hs | hs | hs | hs <;> simpa [hs] using hstate

end OutageOver

/-- The device as outage end finds it back in MAINS (R37, R186). -/
def Device.mainsBack (d : Device) : Device := { d with
  mode := { d.mode with mode := .mains, highCount := 0 }
  port := { d.port with device := { d.port.device with mode := true } } }

theorem outageEnd_finish (d : Device) : ∃ e es, d.outageEnd.finish =
      { e with test := { e.test with agenda := [], inHand := none }, due := es }
    ∧ e.still Record.lasting = d.mainsBack.still Record.lasting ∧ OutageOver d.mainsBack e := by
  have hend : d.outageEnd = d.mainsBack.outageEndLeases.outageEndWakes.outageEndTests := rfl
  have hA : Unleased d.mainsBack d.mainsBack.outageEndLeases := outageEndLeases_unleased rfl
  have hleases := Handled.outageEndLeases d.mainsBack
  generalize d.mainsBack.outageEndLeases = a at hend hA hleases
  have hB : Unqueued a a.outageEndWakes := outageEndWakes_unqueued (by rw [hA.mode]; rfl) hA.noClaim
  have hwakes := Handled.outageEndWakes a
  generalize a.outageEndWakes = b at hend hB hwakes
  have hC := TestsEnded.foldl (List.range 4) b
    (List.eq_nil_iff_forall_not_mem.2 fun l hl => by simpa [hA.noLease] using hB.leases l hl)
  have htests := Handled.outageEndTests b
  have htest : b.outageEndTests = { (List.range 4).foldl Device.endTestMains b with
      test := { ((List.range 4).foldl Device.endTestMains b).test with agenda := [], inHand := none } } := rfl
  rw [htest] at hend htests
  generalize (List.range 4).foldl Device.endTestMains b = c at hend hC htests
  obtain ⟨es, hfinish⟩ := finish_quiet (d := d.outageEnd) (by rw [hend])
  refine ⟨c, es, by rw [hfinish, hend], ?_, hA.outageOver hB hC⟩
  exact ((hleases.trans hwakes).trans htests).1

/-- Settles O15: the three blocks take leases, attempt and tests down in turn (`Unleased`, `Unqueued`, `TestsEnded`), and each step
keeps in the queues what the blocks before it posted (`Ebbs`). -/
theorem outageEndEffect : Obligations.OutageEndEffect := by
  unfold Obligations.OutageEndEffect
  intro s d hd
  have hexec : exec .outageEnd s = .next ⟨d.outageEnd.finish, s.pending⟩ := (State.named_due hd :)
  obtain ⟨e, es, hfinish, hstill, h⟩ := outageEnd_finish d
  rw [hexec, hfinish]
  exact ⟨_, rfl, hstill, h.leases, h.claims, rfl, rfl, h.queue, h.attempt, h.channels,
    fun l n hl => h.cut l hl n, fun c n hc => h.deferred c hc n, h.ended, fun i r hr => h.records hr⟩

end Sys2Proof.Machine
end

section
/-! The slot map and the halves of a frame: which slot is the lowest FREE one (R59), the words that are sent (R53 to R56, R64, R191;
tables 10-1 to 10-3), and the words that are received (R57, R66, R67, R72). -/

namespace Sys2Proof.Machine

open Device

/-! ## Bytes and check bytes -/

theorem foldl_add_toNat : ∀ (bs : List Byte) (a : Byte),
    (bs.foldl (· + ·) a).toNat = (a.toNat + (bs.map BitVec.toNat).sum) % 256
  | [], a => (Nat.mod_eq_of_lt a.isLt).symm
  | b :: bs, a => by
    rw [List.foldl_cons, foldl_add_toNat bs, BitVec.toNat_add, List.map_cons, List.sum_cons]
    omega

/-- The sum of bytes is taken modulo 256. -/
theorem byteSum_toNat (bs : List Byte) : (byteSum bs).toNat = (bs.map BitVec.toNat).sum % 256 := by
  rw [byteSum, foldl_add_toNat]
  simp

/-- A check byte brings the sum of what it closes to 0 (R191). -/
theorem byteSum_add_checkByte (bs : List Byte) : byteSum bs + checkByte bs = 0 := by
  unfold checkByte
  bv_omega

theorem byteSum_withCheck (bs : List Byte) : byteSum (withCheck bs) = 0 := by
  rw [← byteSum_add_checkByte bs]
  exact List.foldl_append

theorem bytesBE_succ (w n : Nat) : bytesBE (w + 1) n = BitVec.ofNat 8 (n / 256 ^ w) :: bytesBE w n := by
  unfold bytesBE
  rw [List.range_succ_eq_map, List.map_cons, List.map_map]
  refine congrArg _ (List.map_congr_left fun k _ => ?_)
  rw [Function.comp_apply, show w + 1 - 1 - k.succ = w - 1 - k by omega]

theorem foldl_natBE : ∀ (bs : List Byte) (a : Nat),
    bs.foldl (fun a b => a * 256 + b.toNat) a = a * 256 ^ bs.length + natBE bs
  | [], a => by simp [natBE]
  | b :: bs, a => by
    rw [natBE, List.foldl_cons, List.foldl_cons, foldl_natBE bs, foldl_natBE bs, List.length_cons, Nat.pow_succ]
    ring

theorem natBE_cons (b : Byte) (bs : List Byte) : natBE (b :: bs) = b.toNat * 256 ^ bs.length + natBE bs := by
  rw [natBE, List.foldl_cons, foldl_natBE, Nat.zero_mul, Nat.zero_add]

theorem bytesBE_length (w n : Nat) : (bytesBE w n).length = w := by
  simp [bytesBE]

/-- What `w` bytes keep of a number. -/
theorem natBE_bytesBE (n : Nat) : ∀ w : Nat, natBE (bytesBE w n) = n % 256 ^ w
  | 0 => by simp [bytesBE, natBE, Nat.mod_one]
  | w + 1 => by
    have hpow : n % 256 ^ (w + 1) = n % 256 ^ w + 256 ^ w * (n / 256 ^ w % 256) := Nat.mod_pow_succ
    have hbyte : (BitVec.ofNat 8 (n / 256 ^ w)).toNat = n / 256 ^ w % 256 := BitVec.toNat_ofNat ..
    rw [bytesBE_succ, natBE_cons, natBE_bytesBE n w, bytesBE_length, hpow, hbyte, Nat.mul_comm, Nat.add_comm]

/-- The ID of a WAKE for any terminal (table 10-2). -/
theorem bytesBE_any : bytesBE 4 (0xFFFFFFFF#32).toNat = [0xFF, 0xFF, 0xFF, 0xFF] := by decide

theorem byteAt_eq (w : List Byte) (k : Nat) : byteAt w k = (w[k]?.getD 0).toNat := rfl

/-! ## The commands of the halves -/

theorem exec_beacon (s : State) : exec .beacon s = s.half true 1 .beacon := rfl

theorem exec_attachWord (s : State) : exec .attachWord s = s.half true 2 .attachWord := rfl

theorem exec_terminalDownlink (n : Nat) (s : State) :
    exec (.terminalDownlink n) s = s.half (slotNumber n) (2 * n) fun d => d.terminalDownlink n := rfl

theorem exec_repeatLimitLost (n : Nat) (s : State) :
    exec (.repeatLimitLost n) s = s.half (slotNumber n) (2 * n) fun d => d.repeatLimitLost n := rfl

theorem exec_attachUplink (w : List Byte) (s : State) : exec (.attachUplink w) s = s.half true 3 fun d => d.attachUplink w := rfl

theorem exec_terminalUplink (n : Nat) (w : List Byte) (s : State) :
    exec (.terminalUplink n w) s = s.half (slotNumber n) (2 * n + 1) fun d => d.terminalUplink n w := rfl

/-! ## The lowest FREE slot -/

namespace Device

variable {d : Device} {n p : Nat}

theorem isFree_iff {s : Slot} : s.isFree = true ↔ s.use = .free := by
  simp [Slot.isFree]

theorem isFree_false_iff {s : Slot} : s.isFree = false ↔ s.use ≠ .free := by
  simp [Slot.isFree]

theorem lowestFree_some_iff : d.lowestFree = some n ↔ (∃ x, d.slot? n = some x ∧ x.use = .free)
    ∧ ∀ m x, m < n → d.slot? m = some x → x.use ≠ .free := by
  unfold lowestFree
  rw [Option.map_eq_some_iff]
  constructor
  · rintro ⟨k, hk, rfl⟩
    obtain ⟨⟨x, hx, hfree⟩, hlow⟩ := findIdx?_some_iff.1 hk
    refine ⟨⟨x, (slot?_add_two d k).trans hx, isFree_iff.1 hfree⟩, fun m y hm hy => ?_⟩
    have hm2 := slot?_some_ge hy
    exact isFree_false_iff.1 (hlow (m - 2) y (by omega) (slot?_eq hm2 ▸ hy))
  · rintro ⟨⟨x, hx, hfree⟩, hlow⟩
    have hn := slot?_some_ge hx
    refine ⟨n - 2, findIdx?_some_iff.2 ⟨⟨x, slot?_eq hn ▸ hx, isFree_iff.2 hfree⟩, fun j y hj hy => ?_⟩, by omega⟩
    exact isFree_false_iff.2 (hlow (j + 2) y (by omega) ((slot?_add_two d j).trans hy))

theorem lowestFree_none_iff : d.lowestFree = none ↔ ∀ x ∈ d.riser.slots, x.use ≠ .free := by
  unfold lowestFree
  rw [Option.map_eq_none_iff, List.findIdx?_eq_none_iff]
  exact forall₂_congr fun x _ => isFree_false_iff

theorem lowestFree_isSome_iff : d.lowestFree.isSome = true ↔ ∃ x ∈ d.riser.slots, x.use = .free := by
  rw [Option.isSome_iff_ne_none, Ne, lowestFree_none_iff]
  simp

/-! ## Whose turn it is -/

theorem inTurn_next (hz : d.riser.frameZero = false) (hp : d.riser.half < p) : d.inTurn p = true := by
  simp [inTurn, hz, hp]

theorem inTurn_passed (h : d.riser.frameZero = true ∨ p ≤ d.riser.half) : d.inTurn p = false := by
  rcases h with h | h
  · simp [inTurn, h]
  · simp [inTurn, Nat.not_lt.mpr h]

/-! ## The words sent -/

theorem attachChoice_eq (d : Device) : d.attachChoice.bytes = withCheck (match d.riser.assignNow with
    | some (t, n) => [4] ++ bytesBE 4 t.toNat ++ [BitVec.ofNat 8 n]
    | none => match d.riser.backoffNow with
      | some t => [5] ++ bytesBE 4 t.toNat ++ [0]
      | none => match d.wake.attempt with
        | some a => match a.target with
          | .record _ t _ => [3] ++ bytesBE 4 t.toNat ++ [0]
          | .discovery _ => [3, 0xFF, 0xFF, 0xFF, 0xFF, 0]
        | none => if ∃ x ∈ d.riser.slots, x.use = .free then [1, 0, 0, 0, 0, 0] else [2, 0, 0, 0, 0, 0]) := by
  unfold attachChoice
  rcases d.riser.assignNow with _ | ⟨t, n⟩
  · rcases d.riser.backoffNow with _ | t
    · rcases d.wake.attempt with _ | ⟨target, _, _, _, _, _⟩
      · by_cases hfree : ∃ x ∈ d.riser.slots, x.use = .free
        · simp only [if_pos (lowestFree_isSome_iff.2 hfree), if_pos hfree]
          rfl
        · simp only [if_neg (mt lowestFree_isSome_iff.1 hfree), if_neg hfree]
          rfl
      · cases target with
        | record i t p => rfl
        | discovery l => exact congrArg (fun bs => withCheck (3 :: bs ++ [0])) bytesBE_any
    · rfl
  · rfl

theorem attachState_bits (d : Device) : d.attachState.beaconBits =
    if d.wake.attempt.isSome then 2 else if ∃ x ∈ d.riser.slots, x.use = .free then 0 else 1 := by
  unfold attachState
  rw [← if_congr (lowestFree_isSome_iff (d := d)) rfl rfl]
  split
  · rfl
  · split <;> rfl

/-- No word is sent but in a HELD slot that is open (R64). -/
theorem terminalDownlink_silent (h : ∀ x h, d.slot? n = some x → x.use = .held h → h.isOpen = false) :
    d.terminalDownlink n = d.drive (2 * n) none := by
  unfold terminalDownlink
  split
  · rename_i g hg
    obtain ⟨x, hx, hu⟩ := Option.map_eq_some_iff.1 hg
    rw [h x g hx hu, if_neg Bool.false_ne_true]
  · rfl

variable {x : Slot} {h : Holder} {e : QEntry} {es : List QEntry}

theorem slot_use (hx : d.slot? n = some x) (hu : x.use = .held h) : (d.slot? n).map Slot.use = some (.held h) := by
  rw [hx, Option.map_some, hu]

theorem terminalDownlink_nop (hx : d.slot? n = some x) (hu : x.use = .held h) (ho : h.isOpen = true) (hq : h.queue = []) :
    d.terminalDownlink n = d.drive (2 * n) (some (nopWord h.lastUp)) := by
  simp only [terminalDownlink, slot_use hx hu, ho, hq, if_true]

theorem terminalDownlink_sends (hx : d.slot? n = some x) (hu : x.use = .held h) (ho : h.isOpen = true) (hq : h.queue = e :: es)
    (hk : e.sends < d.settings.repeatLimit) : d.terminalDownlink n =
      (d.modHolder n fun h => { h with queue := { e with sends := e.sends + 1 } :: es }).drive (2 * n)
        (some (cmdWord e.cmd e.seq h.lastUp)) := by
  simp only [terminalDownlink, slot_use hx hu, ho, hq, if_true, if_neg (Nat.not_le.mpr hk)]

theorem terminalDownlink_lost (hx : d.slot? n = some x) (hu : x.use = .held h) (ho : h.isOpen = true) (hq : h.queue = e :: es)
    (hk : d.settings.repeatLimit ≤ e.sends) :
    d.terminalDownlink n = (d.drive (2 * n) none).declareLost h.index h.id := by
  simp only [terminalDownlink, slot_use hx hu, ho, hq, if_true, if_pos hk]

theorem repeatLimitLost_lost (hx : d.slot? n = some x) (hu : x.use = .held h) (ho : h.isOpen = true) (hq : h.queue = e :: es)
    (hk : d.settings.repeatLimit ≤ e.sends) :
    d.repeatLimitLost n = (d.drive (2 * n) none).declareLost h.index h.id := by
  simp only [repeatLimitLost, slot_use hx hu, ho, hq, decide_eq_true hk, Bool.and_self, if_true]

theorem silenceLost_held (hx : d.slot? n = some x) (hu : x.use = .held h) : d.silenceLost n = d.declareLost h.index h.id := by
  simp only [silenceLost, slot_use hx hu]

/-! ## The words received -/

theorem goodWord_iff {w : List Byte} : goodWord w = true ↔ 9 ≤ w.length ∧ byteSum (w.take 9) = 0 := by
  simp [goodWord]

theorem enterFifo_eq (d : Device) (e : FifoEntry) : d.enterFifo e = { d with riser := { d.riser with
    fifo := if d.riser.fifo.length < 16 then d.riser.fifo ++ [e] else d.riser.fifo } } := by
  unfold enterFifo
  split <;> rfl

theorem attachUplink_eq (d : Device) (w : List Byte) : d.attachUplink w = { d with riser := { d.riser with
    half := 3, drive := none
    fifo := if 9 ≤ w.length ∧ byteSum (w.take 9) = 0 ∧ d.riser.fifo.length < 16 then
      d.riser.fifo ++ [⟨.attach d.riser.frame, w.take 9⟩] else d.riser.fifo } } := by
  unfold attachUplink
  simp only [enterFifo_eq]
  by_cases hw : goodWord w = true
  · obtain ⟨hlen, hsum⟩ := goodWord_iff.1 hw
    simp only [if_pos hw, hlen, hsum, true_and]
  · have hbad : ¬ (9 ≤ w.length ∧ byteSum (w.take 9) = 0 ∧ d.riser.fifo.length < 16) :=
      fun h => hw (goodWord_iff.2 ⟨h.1, h.2.1⟩)
    simp only [if_neg hw, if_neg hbad]

/-- A word that is not good, or finds no open HELD slot, changes nothing but the half taken (R66). -/
theorem terminalUplink_dropped {w : List Byte} (h : ¬ (9 ≤ w.length ∧ byteSum (w.take 9) = 0)
      ∨ ∀ x h, d.slot? n = some x → x.use = .held h → h.isOpen = false) :
    d.terminalUplink n w = d.drive (2 * n + 1) none := by
  unfold terminalUplink
  rcases h with h | h
  · exact if_neg (mt goodWord_iff.1 h)
  · refine ite_eq_right_iff.2 fun _ => ?_
    split
    · rename_i x hx
      split
      · rename_i g hg
        exact if_neg (by simp [h x g hx hg])
      all_goals rfl
    · rfl

theorem terminalUplink_received {w : List Byte} {hold : Count16} (hlen : 9 ≤ w.length) (hsum : byteSum (w.take 9) = 0)
    (hx : d.slot? n = some ⟨hold, .held h⟩) (ho : h.isOpen = true) :
    d.terminalUplink n w =
      ((d.drive (2 * n + 1) none).modHolder n fun h => { h with silence := 0 }).enterFifo ⟨.terminal n hold, w.take 9⟩ := by
  have hx' : (d.drive (2 * n + 1) none).slot? n = some ⟨hold, .held h⟩ := hx
  unfold terminalUplink
  rw [if_pos (goodWord_iff.2 ⟨hlen, hsum⟩)]
  show (match (d.drive (2 * n + 1) none).slot? n with
    | some s => _
    | none => _) = _
  simp only [hx', ho, if_true]
  rfl

@[simp] theorem modHolder_fifo (d : Device) (n : Nat) (f : Holder → Holder) : (d.modHolder n f).riser.fifo = d.riser.fifo := by
  unfold modHolder modSlot
  split <;> rfl

end Device

theorem slotNumber_of {n : Nat} (h2 : 2 ≤ n) (h17 : n ≤ 17) : slotNumber n = true := by
  simp [slotNumber, h2, h17]

/-- Settles O17: each half in its turn by the equations of its word, and any other by `State.half_passed`. -/
theorem downlinkWords : Obligations.DownlinkWords := by
  unfold Obligations.DownlinkWords
  refine ⟨?_, ?_, ?_, ?_, fun c => ?_, fun bs => ?_, fun w n => ?_, ⟨rfl, natBE_cons⟩, fun w k => ?_⟩
  · rintro s d hd c p (⟨rfl, rfl⟩ | ⟨rfl, rfl⟩ | ⟨n, -, -, rfl, rfl⟩) hp
    · exact (exec_beacon s).trans (State.half_passed hd (inTurn_passed hp) _)
    · exact (exec_attachWord s).trans (State.half_passed hd (inTurn_passed hp) _)
    · exact (exec_terminalDownlink n s).trans (State.half_passed hd (inTurn_passed hp) _)
  · intro s d hd hz hp mode level attach
    have hmode : mode = d.mode.mode.beaconBits := by
      simp only [mode]
      cases d.mode.mode <;> rfl
    have hlevel : level = d.mode.level.beaconBits := by
      simp only [level]
      cases d.mode.level <;> rfl
    rw [hmode, hlevel, show attach = d.attachState.beaconBits from (attachState_bits d).symm, exec_beacon]
    exact State.half_settled hd rfl (inTurn_next hz hp) _
  · intro s d hd hz hp word
    have hword : withCheck word = d.attachChoice.bytes := (attachChoice_eq d).symm
    rw [hword, exec_attachWord]
    exact State.half_settled hd rfl (inTurn_next hz hp) _
  · intro s d n hd h2 h17 hz hp sent ack
    have hexec : exec (.terminalDownlink n) s = .next ⟨d.terminalDownlink n, s.pending⟩ :=
      (exec_terminalDownlink n s).trans (State.half_settled hd (slotNumber_of h2 h17) (inTurn_next hz hp) _)
    have hack : ∀ h, ack h = ackByte h.lastUp := fun h => by
      simp only [ack]
      cases h.lastUp <;> rfl
    refine ⟨fun hshut => ?_, fun x h hx hu ho => ⟨fun hq => ?_, fun e es hq => ⟨fun hk => ?_, fun hk => ?_⟩⟩⟩
    · rw [hexec, terminalDownlink_silent hshut]
      rfl
    · rw [hexec, terminalDownlink_nop hx hu ho hq, hack]
      rfl
    · rw [hexec, terminalDownlink_sends hx hu ho hq hk, hack]
      rfl
    · rw [hexec, terminalDownlink_lost hx hu ho hq hk]
      rfl
  · cases c with
    | defer why => cases why <;> rfl
    | cut why => cases why <;> rfl
    | testEnd o =>
      cases o with
      | verdict v => cases v <;> rfl
      | aborted why => cases why <;> rfl
    | _ => rfl
  · exact ⟨⟨checkByte bs, rfl, byteSum_add_checkByte bs⟩, rfl, byteSum_withCheck bs, byteSum_toNat bs⟩
  · exact ⟨rfl, bytesBE_succ w n, fun hn => (natBE_bytesBE n w).trans (Nat.mod_eq_of_lt hn)⟩
  · rw [byteAt_eq]
    cases w[k]? <;> rfl

/-- Settles O18: the three commands reach `declareLost` and `post` by the equations of their handlings. -/
theorem lossesAndIdleRest : Obligations.LossesAndIdleRest := by
  unfold Obligations.LossesAndIdleRest
  refine ⟨fun s d n x h e es hd h2 h17 hx hu ho hq hk => ⟨fun hz hp => ?_, fun hp => ?_⟩, fun s d n x h hd hx hu => ?_,
    fun s d i r hd hr hs => ?_⟩
  · have hexec : exec (.repeatLimitLost n) s = .next ⟨d.repeatLimitLost n, s.pending⟩ :=
      (exec_repeatLimitLost n s).trans (State.half_settled hd (slotNumber_of h2 h17) (inTurn_next hz hp) _)
    rw [hexec, repeatLimitLost_lost hx hu ho hq hk]
    rfl
  · exact (exec_repeatLimitLost n s).trans (State.half_passed hd (inTurn_passed hp) _)
  · have hexec : exec (.silenceLost n) s = .next ⟨(d.silenceLost n).finish, s.pending⟩ := (State.named_due hd :)
    rw [hexec, silenceLost_held hx hu]
  · have hexec : exec (.idleRest i) s = .next ⟨(d.idleRest i).finish, s.pending⟩ := (State.named_due hd :)
    have hrest : d.idleRest i = d.post i r.id .rest := by
      simp only [idleRest, hr, hs, if_true]
    rw [hexec, hrest]

/-- Settles O20: what each uplink half does to the FIFO (`attachUplink_eq`, `terminalUplink_dropped`, `terminalUplink_received`). -/
theorem uplinkReception : Obligations.UplinkReception := by
  unfold Obligations.UplinkReception
  refine ⟨fun s d w hd => ⟨fun hp => ?_, fun n _ _ hp => ?_⟩, fun s d w hd hz hp => ?_, ?_⟩
  · exact (exec_attachUplink w s).trans (State.half_passed hd (inTurn_passed hp) _)
  · exact (exec_terminalUplink n w s).trans (State.half_passed hd (inTurn_passed hp) _)
  · rw [← attachUplink_eq, exec_attachUplink]
    exact State.half_settled hd rfl (inTurn_next hz hp) _
  · intro s d n w hd h2 h17 hz hp e
    have hexec : exec (.terminalUplink n w) s = .next ⟨d.terminalUplink n w, s.pending⟩ :=
      (exec_terminalUplink n w s).trans (State.half_settled hd (slotNumber_of h2 h17) (inTurn_next hz hp) _)
    refine ⟨fun hdrop => ?_, fun hold h hlen hsum hx ho => ?_⟩
    · rw [hexec, terminalUplink_dropped hdrop]
      rfl
    · have hfifo : ((d.drive (2 * n + 1) none).modHolder n fun h => { h with silence := 0 }).riser.fifo = d.riser.fifo :=
        modHolder_fifo ..
      rw [hexec, terminalUplink_received hlen hsum hx ho, enterFifo_eq, hfifo]
      rfl

end Sys2Proof.Machine
end

section
/-! Posts to a downlink queue (R61 to R63). -/

namespace Sys2Proof.Machine

open Device

/-! ## One queue -/

theorem Cmd.kind_cut_iff {c : Cmd} : c.kind = 5 ↔ ∃ w, c = .cut w := by
  cases c <;> simp [Cmd.kind]

theorem Cmd.kind_rest_iff {c : Cmd} : c.kind = 6 ↔ c = .rest := by
  cases c <;> simp [Cmd.kind]

/-- What is dropped is the oldest entry that is neither CUT nor REST, where there is one (R63). -/
theorem dropOldest_split (q : List QEntry) : dropOldest q = q ∨ ∃ xs e ys, q = xs ++ e :: ys
    ∧ (∀ x ∈ xs, x.cmd.kind = 5 ∨ x.cmd.kind = 6) ∧ ¬ (e.cmd.kind = 5 ∨ e.cmd.kind = 6) ∧ dropOldest q = xs ++ ys := by
  induction q with
  | nil => exact .inl rfl
  | cons a q ih =>
    by_cases ha : a.cmd.kind = 5 ∨ a.cmd.kind = 6
    · have hdrop : dropOldest (a :: q) = a :: dropOldest q := if_pos ha
      rcases ih with h | ⟨xs, e, ys, rfl, hxs, he, h⟩
      · exact .inl (by rw [hdrop, h])
      · refine .inr ⟨a :: xs, e, ys, rfl, ?_, he, by rw [hdrop, h]; rfl⟩
        exact List.forall_mem_cons.2 ⟨ha, hxs⟩
    · exact .inr ⟨[], a, q, rfl, nofun, ha, if_neg ha⟩

theorem Holder.post_replaces {h : Holder} {c : Cmd} (hc : ∃ e ∈ h.queue, e.cmd.kind = c.kind) : h.post c =
    { h with queue := h.queue.map fun e => if e.cmd.kind = c.kind then { e with cmd := c } else e } :=
  if_pos (by simpa using hc)

theorem Holder.post_joins {h : Holder} {c : Cmd} (hc : ∀ e ∈ h.queue, e.cmd.kind ≠ c.kind) : h.post c =
    { h with
      queue := (if h.queue.length < 4 then h.queue else dropOldest h.queue) ++ [⟨c, h.nextSeq, 0⟩]
      nextSeq := seqAfter h.nextSeq } :=
  if_neg (by simpa using hc)

/-! ## The slot that a post reaches -/

namespace Device

variable {d : Device} {i n : Nat} {t : TermId}

theorem post_unheld (h : d.heldSlot i t = none) (c : Cmd) : d.post i t c = d := by
  simp only [post, h]

theorem post_held (h : d.heldSlot i t = some n) (c : Cmd) : d.post i t c = d.modHolder n fun g => g.post c := by
  simp only [post, h]

/-- A change of one slot is a change of the slot map alone. -/
theorem modSlot_eq (d : Device) (n : Nat) (f : Slot → Slot) :
    d.modSlot n f = { d with riser := { d.riser with slots := (d.modSlot n f).riser.slots } } := by
  unfold modSlot
  split <;> rfl

theorem slot?_modHolder_same {hold : Count16} {h : Holder} (hx : d.slot? n = some ⟨hold, .held h⟩) (f : Holder → Holder) :
    (d.modHolder n f).slot? n = some ⟨hold, .held (f h)⟩ := by
  unfold modHolder
  rw [slot?_modSlot, if_pos rfl, hx]
  rfl

theorem slot?_modHolder_other {m : Nat} (h : n ≠ m) (f : Holder → Holder) : (d.modHolder n f).slot? m = d.slot? m := by
  unfold modHolder
  rw [slot?_modSlot, if_neg h]

/-- A record that holds one slot alone. -/
theorem heldSlot_only {x : Slot} {h : Holder} (hx : d.slot? n = some x) (hu : x.use = .held h) (hi : h.index = i) (ht : h.id = t)
    (honly : ∀ m y k, d.slot? m = some y → y.use = .held k → k.index = i → k.id = t → m = n) : d.heldSlot i t = some n :=
  heldSlot_some_iff.2 ⟨⟨x, h, hx, hu, hi, ht⟩, fun m y k hm hy hk ⟨hki, hkt⟩ => hm.ne (honly m y k hy hk hki hkt)⟩

end Device

/-- Settles O21: `dropOldest_split` says which entry a full queue loses. -/
theorem downlinkPosts : Obligations.DownlinkPosts := by
  unfold Obligations.DownlinkPosts
  refine ⟨fun h c hok => ⟨Holder.post_replaces, fun hc => ⟨fun hlen => ?_, fun hlen => ?_⟩⟩,
    fun d i t c => ⟨fun hno => post_unheld (heldSlot_none_iff.2 hno) c, fun n x h hx hu hi ht honly => ?_⟩⟩
  · rw [Holder.post_joins hc, if_pos hlen]
    rfl
  · obtain ⟨-, hkinds, -⟩ := (Holder.ok_iff h).1 hok
    have hshorter := length_dropOldest hkinds (by omega)
    rcases dropOldest_split h.queue with hsame | ⟨xs, e, ys, hq, hxs, he, hdrop⟩
    · rw [hsame] at hshorter
      omega
    · refine ⟨xs, e, ys, hq, fun x hx => (hxs x hx).imp Cmd.kind_cut_iff.1 Cmd.kind_rest_iff.1,
        fun w hw => he (.inl (Cmd.kind_cut_iff.2 ⟨w, hw⟩)), fun hr => he (.inr (Cmd.kind_rest_iff.2 hr)), ?_⟩
      rw [Holder.post_joins hc, if_neg (by omega), hdrop]
      rfl
  · obtain ⟨hold, use⟩ := x
    obtain rfl : use = .held h := hu
    rw [post_held (heldSlot_only hx rfl hi ht honly) c]
    refine ⟨slot?_modHolder_same hx _, fun m hm => slot?_modHolder_other hm.symm _, ?_, ?_⟩
    · rw [modHolder, modSlot_eq]
    · rw [modHolder, modSlot_eq]

end Sys2Proof.Machine
end

section
/-! No due event changes the supplies and RESET_N: a device that takes events still takes them once every due event is handled
(R32, R33). -/

namespace Sys2Proof.Machine

open Device

theorem Kept.supply {part : Record → Record} {d e : Device} (h : Kept part d e) : e.supply = d.supply :=
  (congrArg Device.supply h.1 :)

namespace Device

theorem foldl_supply {α : Type} {g : Device → α → Device} (h : ∀ d a, (g d a).supply = d.supply) :
    ∀ (as : List α) (d : Device), (as.foldl g d).supply = d.supply
  | [], _ => rfl
  | a :: as, d => (foldl_supply h as (g d a)).trans (h d a)

theorem outageStart_supply (d : Device) : d.outageStart.supply = d.supply := by
  refine (Served.examineWake _).supply.trans (foldl_supply (fun d i => ?_) (List.range 80) d.outageMode.outageRecords)
  split
  · split
    · exact (Served.joinEntry _ _ _ _).supply
    · rfl
  · rfl

theorem outageEnd_supply (d : Device) : d.outageEnd.supply = d.supply :=
  (((Handled.outageEndLeases _).trans (Handled.outageEndWakes _)).trans (Handled.outageEndTests _)).supply

theorem wakeTimerExpired_supply (d : Device) (i : Nat) : (d.wakeTimerExpired i).supply = d.supply := by
  unfold wakeTimerExpired
  split
  · split
    · exact (Served.requestEntry _ _ _ _).supply
    · rfl
  · rfl

theorem testTimerExpired_supply (d : Device) (i : Nat) : (d.testTimerExpired i).supply = d.supply := by
  unfold testTimerExpired
  split
  · split
    · dsimp only
      split <;> rfl
    · rfl
  · rfl

theorem endDiscovery_supply (d : Device) (l : Nat) (res : DiscoveryResult) : (d.endDiscovery l res).supply = d.supply :=
  (Served.examineWake _).supply

theorem discoveryExpired_supply (d : Device) : d.discoveryExpired.supply = d.supply := by
  unfold discoveryExpired
  split
  · split
    · split
      · exact (endDiscovery_supply _ _ _).trans ((Served.stopPulse d).trans (Served.freeSlot _ _)).supply
      · rfl
    · rfl
  · rfl

theorem tripUnbound_supply (d : Device) (l : Nat) (sw : Switch) : (d.tripUnbound l sw).supply = d.supply := by
  unfold tripUnbound
  dsimp only
  split
  · split
    · split
      · exact (endDiscovery_supply _ _ _).trans ((Served.reportPulseEnd _ _).trans (Served.freeSlot _ _)).supply
      · rfl
    · rfl
  · rfl

theorem tripped_supply (d : Device) (l : Nat) : (d.tripped l).supply = d.supply := by
  unfold tripped
  split
  · split
    · rfl
    · rfl
    all_goals
      split
      · exact (Served.tripBound _ _ _ _).supply
      · exact tripUnbound_supply _ _ _
  · rfl

theorem tripDue_supply (d : Device) (l : Nat) : (d.tripDue l).supply = d.supply := by
  unfold tripDue
  split
  · split
    · exact tripped_supply d l
    · rfl
  · rfl

theorem changeLevel_supply (d : Device) : d.changeLevel.supply = d.supply := by
  unfold changeLevel
  dsimp only
  split
  · exact ((Served.shed _).trans (Served.examineWake _)).supply
  · exact (((Served.serve _).trans (Served.examineWake _)).trans (Served.examineAgenda _)).supply
  · rfl

theorem judgeRation_supply (d : Device) (i : Nat) : (d.judgeRation i).supply = d.supply := by
  unfold judgeRation
  split
  · split
    · dsimp only
      split
      · exact (((Served.raiseRec _ _ _ _).trans (Served.endLease _ _ _)).trans
          ((Served.deferClaim _ _ _).trans (Served.serve _))).supply
      · exact ((Served.raiseRec _ _ _ _).trans (Served.endLease _ _ _)).supply
    · rfl
  · rfl

theorem handle_supply (d : Device) (x : Due) : (d.handle x).supply = d.supply := by
  cases x with
  | outageStart => exact outageStart_supply d
  | outageEnd => exact outageEnd_supply d
  | outageMinute => rfl
  | wakeTimer i => exact wakeTimerExpired_supply d i
  | testTimer i => exact testTimerExpired_supply d i
  | silenceLost n => exact (Handled.silenceLost d n).supply
  | idleRest i => exact (Served.idleRest d i).supply
  | pulseEnd l => exact (Served.pulseEnded d l).supply
  | attachWindow => exact (Handled.attachExpired d).supply
  | discoveryWindow => exact discoveryExpired_supply d
  | leaseExpiry i => exact (Served.leaseExpired d i).supply
  | claimWait i => exact (Served.claimWaitExpired d i).supply
  | testWindow c => exact (Handled.testExpired d c .running).supply
  | testBegin c => exact (Handled.testExpired d c .beginning).supply
  | softstart l => exact (Served.softstartDone d l).supply
  | trip l => exact tripDue_supply d l
  | levelChange => exact changeLevel_supply d
  | rations => exact foldl_supply judgeRation_supply _ d
  | agendaExam => exact (Served.examineAgenda d).supply

theorem finish_supply (d : Device) : d.finish.supply = d.supply := by
  unfold finish
  split
  · exact (Served.examineAgenda _).supply
  · rfl

theorem handleFirst_supply (d : Device) : d.handleFirst.supply = d.supply := by
  unfold handleFirst
  split
  · rfl
  · exact (finish_supply _).trans (handle_supply _ _)

theorem settleLoop_supply : ∀ (k : Nat) (d : Device), (d.settleLoop k).supply = d.supply
  | 0, _ => rfl
  | k + 1, d => by
    unfold settleLoop
    split
    · rfl
    · exact (settleLoop_supply k _).trans (handleFirst_supply d)

theorem settle_supply (d : Device) : d.settle.supply = d.supply := settleLoop_supply _ d

theorem running_congr {d e : Device} (h : e.supply = d.supply) : e.running = d.running := by
  unfold running
  rw [h]

end Device

/-- A device that takes events takes them once every due event is handled. -/
theorem State.running_of_settled {s : State} {d : Device} (h : s.settled d) : d.running = true := by
  obtain ⟨hr, rfl⟩ := h
  rw [running_congr (settle_supply s.dev), hr]

/-- Where nothing is due the device is settled as it is. -/
theorem State.settled_still {d : Device} (hr : d.running = true) (hd : d.due = []) (q : List Instr) : (State.mk d q).settled d :=
  ⟨hr, settle_none hd⟩

end Sys2Proof.Machine
end

section
/-! Words taken from the uplink FIFO: what is discarded (R57, R68, R70), what an acknowledgement delivers (R65, R69, R74), and the
dispatch of NOP, REST_REQUEST, RENEW and RELEASE (R71, R73, R121, R123). -/

namespace Sys2Proof.Machine

open Device

/-! ## The fields of an uplink word (table 10-4, R191) -/

theorem byteAt_set {k : Nat} (h : k ≠ 1) (w : List Byte) (b : Byte) : byteAt (w.set 1 b) k = byteAt w k := by
  rw [byteAt_eq, byteAt_eq, List.getElem?_set_ne h.symm]

/-- A word with its acknowledgement byte cleared acknowledges nothing. -/
theorem upAck_cleared (w : List Byte) : upAck (w.set 1 0) = none := by
  have h : byteAt (w.set 1 0) 1 = 0 := by
    rw [byteAt_eq, List.getElem?_set_self']
    cases w[1]? <;> rfl
  unfold upAck
  rw [h]
  rfl

theorem upKind_cleared (w : List Byte) : upKind (w.set 1 0) = upKind w := by
  unfold upKind
  rw [byteAt_set (by decide)]

theorem upSeq_cleared (w : List Byte) : upSeq (w.set 1 0) = upSeq w := by
  unfold upSeq
  rw [byteAt_set (by decide)]

theorem claimSteps_cleared (w : List Byte) : claimSteps (w.set 1 0) = claimSteps w := by
  unfold claimSteps
  rw [byteAt_set (by decide)]

theorem reportOf_cleared (w : List Byte) : reportOf (w.set 1 0) = reportOf w := by
  have hbyte : ∀ k, k ≠ 1 → (w.set 1 0).getD k 0 = w.getD k 0 := fun k hk => by
    rw [List.getD_eq_getElem?_getD, List.getD_eq_getElem?_getD, List.getElem?_set_ne hk.symm]
  unfold reportOf
  rw [byteAt_set (by decide), byteAt_set (by decide), hbyte 2 (by decide), hbyte 3 (by decide), hbyte 5 (by decide),
    hbyte 6 (by decide)]

/-! ## Which command takes a word -/

theorem UpKind.command_spelt (k : UpKind) : (match k with
    | .claim => .claim | .renew => .renew | .release => .release | .report => .report | .restRequest => .restRequest
    | .nop => .nop | .announce => .announce | .unknown => .unknownUplinkKind : Instr) = k.command := by
  cases k <;> rfl

theorem FifoEntry.command_terminal (n : Nat) (hold : Count16) (w : List Byte) : (match upKind w with
    | .claim => .claim | .renew => .renew | .release => .release | .report => .report | .restRequest => .restRequest
    | .nop => .nop | .announce => .unknownUplinkKind | .unknown => .unknownUplinkKind : Instr)
      = (FifoEntry.mk (.terminal n hold) w).row.command := by
  unfold FifoEntry.row
  dsimp only
  cases upKind w <;> rfl

theorem FifoEntry.row_terminal_unknown {w : List Byte} (n : Nat) (h : upKind w = .announce ∨ upKind w = .unknown) :
    (FifoEntry.mk (.terminal n 0) w).row = .unknown := by
  unfold FifoEntry.row
  rcases h with h | h <;> simp only [h]

/-- The command of the oldest entry's row takes it (R67). -/
theorem State.exec_take {s : State} {d : Device} {e : FifoEntry} {rest : List FifoEntry} (hd : s.settled d)
    (hf : d.riser.fifo = e :: rest) : exec e.row.command s = .next ⟨d.takeWord, s.pending⟩ := by
  rw [UpKind.command_exec, outside_settled hd, takeRow_row hf rfl]

namespace Device

variable {d : Device} {i n : Nat} {t : TermId} {hold : Count16} {h : Holder} {w : List Byte} {rest : List FifoEntry} {r : Record}

/-- The device with these entries in its uplink FIFO. -/
def withFifo (d : Device) (es : List FifoEntry) : Device := { d with riser := { d.riser with fifo := es } }

theorem withFifo_self (h : d.riser.fifo = rest) : d.withFifo rest = d := by
  subst h
  rfl

theorem takeWord_terminal (hf : d.riser.fifo = ⟨.terminal n hold, w⟩ :: rest) :
    d.takeWord = (d.withFifo rest).takeTerminal n hold w := by
  unfold takeWord
  rw [hf]
  rfl

theorem takeWord_announce {f : Count16} (hf : d.riser.fifo = ⟨.attach f, w⟩ :: rest) (hk : upKind w = .announce) :
    d.takeWord = (d.withFifo rest).judgeAnnounce (announceOf w f) := by
  unfold takeWord
  rw [hf]
  exact if_pos hk

theorem takeWord_attach_other {f : Count16} (hf : d.riser.fifo = ⟨.attach f, w⟩ :: rest) (hk : upKind w ≠ .announce) :
    d.takeWord = d.withFifo rest := by
  unfold takeWord
  rw [hf]
  exact if_neg hk

/-! ## The take of a terminal-slot word -/

/-- A word from a hold of the slot that is over is discarded (R68). -/
theorem takeTerminal_stale (h : ∀ x h, d.slot? n = some x → x.use = .held h → x.hold ≠ hold) : d.takeTerminal n hold w = d := by
  unfold takeTerminal
  split
  · rename_i x hx
    split
    · rename_i g hg
      exact if_neg (h x g hx hg)
    all_goals rfl
  · rfl

theorem takeTerminal_held (hx : d.slot? n = some ⟨hold, .held h⟩) : d.takeTerminal n hold w =
    if (d.deliver n h (upAck w)).2 then (d.deliver n h (upAck w)).1.takeSequence n h w else (d.deliver n h (upAck w)).1 := by
  simp only [takeTerminal, hx, if_true]

theorem takeSequence_duplicate (hl : h.lastUp = some (upSeq w)) : d.takeSequence n h w = d := if_pos hl

theorem takeSequence_new (hl : h.lastUp ≠ some (upSeq w)) : d.takeSequence n h w =
    (d.modHolder n fun h => { h with lastUp := some (upSeq w) }).dispatch h.index h.id w := if_neg hl

theorem dispatch_cleared (d : Device) (i : Nat) (t : TermId) (w : List Byte) :
    d.dispatch i t (w.set 1 0) = d.dispatch i t w := by
  unfold dispatch
  rw [upKind_cleared, claimSteps_cleared, reportOf_cleared]

/-- The rest of a word is handled as that of the same word without an acknowledgement. -/
theorem takeSequence_cleared {g : Holder} (hi : g.index = h.index) (ht : g.id = h.id) (hl : g.lastUp = h.lastUp) :
    d.takeSequence n g (w.set 1 0) = d.takeSequence n h w := by
  unfold takeSequence
  rw [upSeq_cleared, dispatch_cleared, hi, ht, hl]

/-! ## Delivery (R65, R69, R74) -/

variable {e : QEntry} {es : List QEntry} {ack : Option Nat}

theorem deliver_nothing (ha : ∀ e, h.queue.head? = some e → ack ≠ some e.seq) : d.deliver n h ack = (d, true) := by
  unfold deliver
  split
  · rfl
  · rename_i x xs hq
    exact if_neg (ha x (by rw [hq]; rfl))

theorem deliver_plain (hq : h.queue = e :: es) (ha : ack = some e.seq) (hr : e.cmd ≠ .rest) (hb : ∀ k, e.cmd ≠ .testBegin k) :
    d.deliver n h ack = (d.modHolder n fun h => { h with queue := es }, true) := by
  unfold deliver
  rw [hq]
  refine (if_pos ha).trans ?_
  dsimp only
  split
  · exact absurd ‹_› hr
  · exact absurd ‹_› (hb _)
  all_goals rfl

theorem deliver_testBegin {k : Nat} (hq : h.queue = e :: es) (ha : ack = some e.seq) (hc : e.cmd = .testBegin k) :
    d.deliver n h ack = ((d.modHolder n fun h => { h with queue := es }).testBegun h.index k, true) := by
  simp only [deliver, hq, ha, hc, if_true]

theorem deliver_rest_refused (hq : h.queue = e :: es) (ha : ack = some e.seq) (hc : e.cmd = .rest)
    (hr : (d.modHolder n fun h => { h with queue := es }).restDelivered h.index h.id = none) :
    d.deliver n h ack = (d.modHolder n fun h => { h with queue := es }, true) := by
  simp only [deliver, hq, ha, hc, if_true, hr]

theorem deliver_rest_taken {d' : Device} (hq : h.queue = e :: es) (ha : ack = some e.seq) (hc : e.cmd = .rest)
    (hr : (d.modHolder n fun h => { h with queue := es }).restDelivered h.index h.id = some d') :
    d.deliver n h ack = (d', false) := by
  simp only [deliver, hq, ha, hc, if_true, hr]

theorem restDelivered_refused (h : ∀ r, d.rec? i = some r → r.id = t → r.state ≠ .attached) : d.restDelivered i t = none := by
  unfold restDelivered
  rw [Option.map_eq_none_iff]
  rcases hr : d.rec? i with _ | r
  · exact transition_none hr t _
  · by_cases hid : r.id = t
    · refine transition_unlisted hr ?_ t
      have hs := h r hr hid
      cases hst : r.state with
      | attached => exact absurd hst hs
      | _ => rfl
    · exact transition_other hr hid _

theorem restDelivered_taken (hr : d.rec? i = some r) (hid : r.id = t) (hs : r.state = .attached) :
    d.restDelivered i t = some ((((d.modRec i fun r => r.enter .restDelivered .dormant).releaseSlot i t).dropClaim
      i).completeEviction i t) := by
  unfold restDelivered
  rw [transition_taken hr hid (st := .dormant) (by rw [hs]; rfl), Option.map_some]

/-- The Test Engine's part in a delivered TEST_BEGIN touches neither the Riser Controller nor the events due. -/
theorem testBegun_parts (d : Device) (i k : Nat) : (d.testBegun i k).riser = d.riser ∧ (d.testBegun i k).due = d.due := by
  have hsuspend : ∀ e : Device, (e.suspend i).riser = e.riser ∧ (e.suspend i).due = e.due := by
    intro e
    unfold suspend onLineOf
    split
    · split <;> exact ⟨rfl, rfl⟩
    · exact ⟨rfl, rfl⟩
  unfold testBegun
  split
  · split
    · exact hsuspend _
    · exact ⟨rfl, rfl⟩
  · exact ⟨rfl, rfl⟩

/-! ## What a release takes with it (R60, R118) -/

theorem releaseSlot_unheld (h : d.heldSlot i t = none) : d.releaseSlot i t = d := by
  simp only [releaseSlot, h]

theorem releaseSlot_held (h : d.heldSlot i t = some n) : d.releaseSlot i t = d.modSlot n fun x => { x with use := .releasing } := by
  simp only [releaseSlot, h]

theorem hasClaim_iff : d.hasClaim i = true ↔ d.claimOf i ≠ none := by
  rw [hasClaim, Option.isSome_iff_ne_none]

theorem dropClaim_unqueued (h : d.claimOf i = none) : d.dropClaim i = d := if_neg (by simp [hasClaim_iff, h])

theorem dropClaim_queued (h : d.claimOf i ≠ none) : d.dropClaim i = (d.removeClaim i).serve := if_pos (hasClaim_iff.2 h)

/-! ## The dispatch by kind (R71) -/

theorem dispatch_nothing (h : upKind w = .nop ∨ upKind w = .announce ∨ upKind w = .unknown) : d.dispatch i t w = d := by
  rcases h with h | h | h <;> simp only [dispatch, h]

theorem dispatch_restRequest (h : upKind w = .restRequest) : d.dispatch i t w = (d.resetIdle i).takeRestRequest i t := by
  simp only [dispatch, h]

theorem dispatch_renew (h : upKind w = .renew) : d.dispatch i t w = (d.resetIdle i).takeRenew i t := by
  simp only [dispatch, h]

theorem dispatch_release (h : upKind w = .release) : d.dispatch i t w = (d.resetIdle i).takeRelease i t := by
  simp only [dispatch, h]

theorem rec?_resetIdle (hr : d.rec? i = some r) : (d.resetIdle i).rec? i = some { r with idle := 0 } := by
  rw [resetIdle, rec?_modRec_same, hr]
  rfl

theorem takeRestRequest_eq (hr : d.rec? i = some r) (t : TermId) : d.takeRestRequest i t =
    if r.state = .attached ∧ d.claimOf i = none ∧ d.inAgenda i = false then d.post i t .rest else d := by
  unfold takeRestRequest hasClaim
  simp [inState_eq hr, and_assoc]

theorem hasLive_iff : d.hasLive i = true ↔ (d.leaseOf i).map Lease.phase = some .live := by
  unfold hasLive
  cases d.leaseOf i <;> simp

/-- The lease of a record reloaded (R121). -/
def reload (d : Device) (i : Nat) : Device := d.modLease i fun l => { l with countdown := d.settings.leaseLength }

theorem takeRenew_fed (hr : d.rec? i = some r) (hid : r.id = t) (hs : r.state = .fed) : d.takeRenew i t = d.reload i := by
  simp only [takeRenew, hr, hid, hs, if_true]
  rfl

theorem takeRenew_testing (hr : d.rec? i = some r) (hid : r.id = t) (hs : r.state = .testing) :
    d.takeRenew i t = if (d.leaseOf i).map Lease.phase = some .live then d.reload i else d := by
  simp only [takeRenew, hr, hid, hs, if_true, hasLive_iff]
  rfl

theorem takeRenew_attached (hr : d.rec? i = some r) (hid : r.id = t) (hs : r.state = .attached) :
    d.takeRenew i t = d.post i t (if (d.claimOf i).isSome then .queued else .defer .noLease) := by
  simp only [takeRenew, hr, hid, hs, if_true, hasClaim]
  exact (apply_ite (d.post i t) _ _ _).symm

theorem takeRelease_leased (hr : d.rec? i = some r) (hid : r.id = t) (hs : r.state = .fed ∨ r.state = .testing) :
    d.takeRelease i t = d.endLease i .released := by
  rcases hs with hs | hs <;> simp only [takeRelease, hr, hid, hs, if_true]

theorem takeRelease_attached (hr : d.rec? i = some r) (hid : r.id = t) (hs : r.state = .attached) :
    d.takeRelease i t = d.dropClaim i := by
  simp only [takeRelease, hr, hid, hs, if_true]

end Device

/-- Settles O22: a stale word and a duplicate leave the device with the FIFO's rest (`takeTerminal_stale`, `takeSequence_duplicate`). -/
theorem takeDiscards : Obligations.TakeDiscards := by
  unfold Obligations.TakeDiscards
  refine ⟨?_, ?_⟩
  · intro s d e rest hd hf hcase c
    have hc : c = e.row.command := UpKind.command_spelt _
    rw [hc, State.exec_take hd hf]
    obtain ⟨origin, w⟩ := e
    rcases hcase with ⟨n, hold, rfl, hstale⟩ | ⟨⟨f, rfl⟩, hk⟩
    · rw [takeWord_terminal hf, takeTerminal_stale (d := d.withFifo rest) hstale]
      rfl
    · rw [takeWord_attach_other hf hk]
      rfl
  · intro s d n hold h w rest hd hf hx ha hl c
    have hc : c = (FifoEntry.mk (.terminal n hold) w).row.command := FifoEntry.command_terminal n hold w
    rw [hc, State.exec_take hd hf, takeWord_terminal hf, takeTerminal_held (d := d.withFifo rest) hx, deliver_nothing ha, if_pos rfl,
      takeSequence_duplicate hl]
    rfl

/-- The delivery of a head leaves a device from which the rest of the word is taken as that of the word without an acknowledgement. -/
theorem State.exec_delivers {s : State} {d after : Device} {n : Nat} {hold : Count16} {h : Holder} {w : List Byte}
    {rest : List FifoEntry} {es : List QEntry} (hd : s.settled d) (hf : d.riser.fifo = ⟨.terminal n hold, w⟩ :: rest)
    (hx : d.slot? n = some ⟨hold, .held h⟩) (hdel : (d.withFifo rest).deliver n h (upAck w) = (after, true))
    (hslot : after.slot? n = some ⟨hold, .held { h with queue := es }⟩) (hrest : after.riser.fifo = rest)
    (hdue : after.due = []) (hsup : after.supply = d.supply) :
    let c := (FifoEntry.mk (.terminal n hold) w).row.command
    exec c s = exec c ⟨after.withFifo (⟨.terminal n hold, w.set 1 0⟩ :: rest), s.pending⟩
    ∧ (upKind w = .nop → h.lastUp ≠ some (upSeq w) →
      exec c s = .next ⟨after.modHolder n fun h => { h with lastUp := some (upSeq w) }, s.pending⟩) := by
  intro c
  have hleft : exec c s = .next ⟨after.takeSequence n h w, s.pending⟩ := by
    rw [State.exec_take hd hf, takeWord_terminal hf, takeTerminal_held (d := d.withFifo rest) hx, hdel, if_pos rfl]
  have hc : c = (FifoEntry.mk (.terminal n hold) (w.set 1 0)).row.command := by
    rw [← FifoEntry.command_terminal, upKind_cleared, FifoEntry.command_terminal n hold w]
  have hrun : (after.withFifo (⟨.terminal n hold, w.set 1 0⟩ :: rest)).running = true :=
    (running_congr hsup).trans (State.running_of_settled hd)
  have hcleared : after.takeTerminal n hold (w.set 1 0) = after.takeSequence n h w := by
    rw [takeTerminal_held hslot, upAck_cleared, deliver_nothing (by simp)]
    exact takeSequence_cleared rfl rfl rfl
  have hright : exec c ⟨after.withFifo (⟨.terminal n hold, w.set 1 0⟩ :: rest), s.pending⟩
      = .next ⟨after.takeSequence n h w, s.pending⟩ := by
    rw [hc, State.exec_take (State.settled_still hrun hdue _) rfl, takeWord_terminal rfl,
      show (after.withFifo (⟨.terminal n hold, w.set 1 0⟩ :: rest)).withFifo rest = after from withFifo_self hrest,
      hcleared]
  refine ⟨hleft.trans hright.symm, fun hk hl => ?_⟩
  rw [hleft, takeSequence_new hl, dispatch_nothing (.inl hk)]

/-- Settles O23: `State.exec_delivers` for the device that each kind of head leaves; a REST that the Roster takes ends the take. -/
theorem takeDelivers : Obligations.TakeDelivers := by
  unfold Obligations.TakeDelivers
  refine ⟨fun d i t => ⟨releaseSlot_unheld, fun n => releaseSlot_held, dropClaim_unqueued, dropClaim_queued⟩, ?_⟩
  intro s d n hold h w rest e es hd hdue hf hx hq ha c d1 goesOn
  have hc : c = (FifoEntry.mk (.terminal n hold) w).row.command := FifoEntry.command_terminal n hold w
  have hslot : d1.slot? n = some ⟨hold, .held { h with queue := es }⟩ := slot?_modHolder_same (d := d.withFifo rest) hx _
  have hrest : d1.riser.fifo = rest := modHolder_fifo (d.withFifo rest) ..
  have hdue1 : d1.due = [] := (modHolder_due (d.withFifo rest) ..).trans hdue
  have hsup : d1.supply = d.supply := modHolder_supply (d.withFifo rest) ..
  have hroster : d1.roster = d.roster := modHolder_roster (d.withFifo rest) ..
  have hrec : d1.rec? h.index = d.rec? h.index := rec?_congr (congrArg Roster.records hroster) _
  have hgoes : ∀ {after : Device}, (d.withFifo rest).deliver n h (upAck w) = (after, true) → after.riser = d1.riser →
      after.due = [] → after.supply = d.supply → goesOn after := by
    intro after hdel hriser hdue' hsup'
    simp only [goesOn, hc]
    exact State.exec_delivers hd hf hx hdel ((slot?_congr hriser n).trans hslot) ((congrArg Riser.fifo hriser).trans hrest) hdue' hsup'
  refine ⟨fun hr hb => ?_, fun k hk => ?_, fun hr hno => ?_, fun r hr hrd hid hs => ?_⟩
  · exact hgoes (deliver_plain hq ha hr hb) rfl hdue1 hsup
  · obtain ⟨hriser, hdue2⟩ := testBegun_parts d1 h.index k
    exact hgoes (deliver_testBegin hq ha hk) hriser (hdue2.trans hdue1) ((Served.testBegun ..).supply.trans hsup)
  · have hrefused : d1.restDelivered h.index h.id = none := restDelivered_refused fun r hrd => hno r (hrec ▸ hrd)
    exact hgoes (deliver_rest_refused hq ha hr hrefused) rfl hdue1 hsup
  · have htaken := restDelivered_taken (d := d1) (hrec.trans hrd) hid hs
    rw [hc, State.exec_take hd hf, takeWord_terminal hf, takeTerminal_held (d := d.withFifo rest) hx,
      deliver_rest_taken (d := d.withFifo rest) hq ha hr htaken, if_neg Bool.false_ne_true]
    rfl

/-- Settles O24: what a new word's dispatch does by its kind, and the fields of a word byte by byte. -/
theorem takeNopAndRestRequest : Obligations.TakeNopAndRestRequest := by
  unfold Obligations.TakeNopAndRestRequest
  refine ⟨fun s n h r w d hw => ⟨fun hk => ?_, fun hk => ?_⟩, ?_, fun b0 b1 w => ⟨rfl, rfl, ?_⟩,
    fun b0 b1 b2 b3 b4 b5 b6 w frame => ?_⟩
  · refine (UpKind.command_exec .nop s).trans ((State.takeRow_new .nop hw (FifoEntry.row_terminal n hk nofun)).trans ?_)
    rw [dispatch_nothing (.inl hk)]
  · refine (UpKind.command_exec .unknown s).trans ((State.takeRow_new .unknown hw (FifoEntry.row_terminal_unknown n hk)).trans ?_)
    rw [dispatch_nothing (.inr hk)]
  · intro s n h r w d hw hk e
    obtain ⟨hr, -⟩ := State.newWord_rec hw
    refine (UpKind.command_exec .restRequest s).trans
      ((State.takeRow_new .restRequest hw (FifoEntry.row_terminal n hk nofun)).trans ?_)
    rw [dispatch_restRequest hk, takeRestRequest_eq (rec?_resetIdle hr)]
    rfl
  · have hbyte : byteAt (b0 :: b1 :: w) 1 = b1.toNat := rfl
    have hbit : b1.toNat / 128 = 1 ↔ 128 ≤ b1.toNat := by omega
    unfold upAck
    simp only [hbyte, hbit]
  · have hbit : (b6.toNat / 128 == 1) = decide (128 ≤ b6.toNat) := by
      have : b6.toNat / 128 = 1 ↔ 128 ≤ b6.toNat := by omega
      simp [beq_eq_decide, this]
    rw [← hbit, ← natBE_four]
    rfl

/-- Settles O25: RENEW and RELEASE by the state of the record. -/
theorem takeRenewAndRelease : Obligations.TakeRenewAndRelease := by
  unfold Obligations.TakeRenewAndRelease
  refine ⟨?_, ?_⟩
  · intro s n h r w d hw hk e reloaded
    obtain ⟨hr, hid⟩ := State.newWord_rec hw
    have hexec : exec .renew s = .next ⟨e.takeRenew h.index h.id, s.pending⟩ := by
      refine (UpKind.command_exec .renew s).trans ((State.takeRow_new .renew hw (FifoEntry.row_terminal n hk nofun)).trans ?_)
      rw [dispatch_renew hk]
      rfl
    have her : e.rec? h.index = some { r with idle := 0 } := rec?_resetIdle hr
    refine ⟨fun hs => ?_, fun hs => ?_, fun hs => ?_⟩
    · rw [hexec, takeRenew_fed her hid hs]
      rfl
    · rw [hexec, takeRenew_testing her hid hs]
      rfl
    · rw [hexec, takeRenew_attached her hid hs]
      rfl
  · intro s n h r w d hw hk e
    obtain ⟨hr, hid⟩ := State.newWord_rec hw
    have hexec : exec .release s = .next ⟨e.takeRelease h.index h.id, s.pending⟩ := by
      refine (UpKind.command_exec .release s).trans ((State.takeRow_new .release hw (FifoEntry.row_terminal n hk nofun)).trans ?_)
      rw [dispatch_release hk]
      rfl
    have her : e.rec? h.index = some { r with idle := 0 } := rec?_resetIdle hr
    refine ⟨fun hs => ?_, fun hs => ?_⟩
    · rw [hexec, takeRelease_leased her hid hs]
      rcases hy : d.leaseOf h.index with _ | y
      · rw [endLease_none (d := e) hy]
        rfl
      · rfl
    · rw [hexec, takeRelease_attached her hid hs]
      rcases hq : d.claimOf h.index with _ | q
      · rw [dropClaim_unqueued (d := e) hq]
        rfl
      · rw [dropClaim_queued (d := e) (i := h.index) (by rw [show e.claimOf h.index = some q from hq]; simp)]
        rfl

end Sys2Proof.Machine
end

section
/-! LOST where nothing waits (R75 to R77, R167), and the teardown that it shares with a restart (R97). -/

namespace Sys2Proof.Machine

open Device

/-! ## The teardown of LOST and of a restart -/

theorem Kept.mode {part : Record → Record} {d e : Device} (h : Kept part d e) : e.mode = d.mode :=
  (congrArg Device.mode h.1 :)

theorem Kept.settings {part : Record → Record} {d e : Device} (h : Kept part d e) : e.settings = d.settings :=
  (congrArg Device.settings h.1 :)

/-- A record that is DORMANT without a lease, where nothing else waits. -/
theorem Leaving.of_dormant {d : Device} {i : Nat} {r : Record} (hq : d.quiet) (hr : d.rec? i = some r) (hs : r.state = .dormant)
    (hl : r.lease = false) : Leaving i d := by
  obtain ⟨hc, hw, ha⟩ := hq
  refine ⟨hc, hw, by simp [ha], fun q hq => ?_⟩
  obtain rfl := Option.some_inj.1 (hr.symm.trans hq)
  exact ⟨by simp [hs], hl⟩

/-- What the end of the lease of a record that leaves service changes: the lease table, the record's line and its channel's lease held
field. -/
structure LeaseOver (i : Nat) (d e : Device) : Prop where
  roster  : e.roster = d.roster
  riser   : e.riser = d.riser
  wake    : e.wake = d.wake
  port    : e.port = d.port
  claims  : e.lease.claims = d.lease.claims
  agenda  : e.test.agenda = d.test.agenda
  channel : e.channelOf i = d.channelOf i
  lease   : e.leaseOf i = none

theorem Device.onLineOf_orderOff_lines (d : Device) (i : Nat) : ∃ ls, d.onLineOf i orderOff = { d with lines := ls } := by
  unfold onLineOf
  split <;> exact ⟨_, rfl⟩

theorem Device.leaseOf_congr {d e : Device} (h : e.lease = d.lease) (i : Nat) : e.leaseOf i = d.leaseOf i := by
  unfold leaseOf
  rw [h]

theorem leaseOver_endLease {d : Device} {i : Nat} (h : Leaving i d) {w : LeaseEnd} (hw : w.cut = none) :
    LeaseOver i d (d.endLease i w) := by
  unfold Device.endLease
  rcases hy : d.leaseOf i with _ | y
  · exact ⟨rfl, rfl, rfl, rfl, rfl, rfl, rfl, hy⟩
  · obtain ⟨-, rfl⟩ := leaseOf_some hy
    have hnone : (d.removeLease y).leaseOf y.index = none := leaseOf_none_iff.2 fun z hz => by
      simpa using (List.mem_filter.1 hz).2
    obtain ⟨ls, hls⟩ : ∃ ls, (if y.phase = .live then (d.removeLease y).onLineOf y.index orderOff else d.removeLease y)
        = { d.removeLease y with lines := ls } := by
      split
      · exact onLineOf_orderOff_lines _ _
      · exact ⟨_, rfl⟩
    have hleaving : Leaving y.index ({ d.removeLease y with lines := ls } : Device) := ⟨h.claims, h.queue, h.agenda, h.out⟩
    unfold endLeaseQuiet
    simp only [hw, hls]
    rw [leaseEndRecord_leaving hleaving]
    generalize hf : Device.modTest _ _ _ = f
    have hserve : f.serve = f := serve_none (by rw [← hf]; exact h.claims) (by rw [← hf]; exact h.queue)
    have hchannel : f.channelOf y.index = d.channelOf y.index :=
      (congrArg (Device.channelOf · y.index) hf.symm).trans
        (channelOf_modTest (fun x : Test => { x with leaseHeld := false }) (fun _ => rfl) y.index)
    rw [hserve]
    subst hf
    exact ⟨rfl, rfl, rfl, rfl, rfl, rfl, hchannel, hnone⟩

/-- What the abort of a record's test as LOST changes: the record's last outcome, and its channel (R167). -/
structure AbortedLost (i : Nat) (d e : Device) : Prop where
  record : e.rec? i = (d.rec? i).map fun r =>
    { r with lastOutcome := if (d.channelOf i).isSome then some (.aborted .lost) else r.lastOutcome }
  riser  : e.riser = d.riser
  wake   : e.wake = d.wake
  port   : e.port = d.port
  lease  : e.lease = d.lease
  agenda : e.test.agenda = d.test.agenda
  free   : ∀ c, d.channelOf i = some c → e.test? c = none

theorem abortedLost_abortLost {d : Device} (h : d.test.agenda = []) (i : Nat) : AbortedLost i d (d.abortLost i) := by
  unfold abortLost
  rcases hc : d.channelOf i with _ | c
  · refine ⟨?_, rfl, rfl, rfl, rfl, rfl, fun c h => nomatch hc.symm.trans h⟩
    rw [hc]
    cases d.rec? i <;> rfl
  · dsimp only
    rw [examineAgenda_none (by exact h)]
    refine ⟨?_, rfl, rfl, rfl, rfl, rfl, fun b hb => ?_⟩
    · rw [hc]
      exact rec?_modRec_same d i _
    · rw [test?_putChannel_none, if_pos (Option.some_inj.1 (hc.symm.trans hb))]

/-- The completion of an eviction, where nothing waits, ends that eviction at most (R102). -/
theorem Device.completeEviction_quiet {d : Device} (h : d.wake.queue = []) (i : Nat) (t : TermId) :
    ∃ v, d.completeEviction i t = { d with wake := { d.wake with eviction := v } } ∧ (d.wake.eviction = none → v = none) := by
  rw [completeEviction_none h]
  split
  · exact ⟨none, rfl, fun _ => rfl⟩
  · exact ⟨d.wake.eviction, rfl, id⟩

/-- What the teardown that LOST and a restart share leaves of a record that leaves service, where nothing waits. -/
structure LostDown (i : Nat) (t : TermId) (d e : Device) : Prop where
  record   : e.rec? i = (d.rec? i).map fun r =>
    { r with lastOutcome := if (d.channelOf i).isSome then some (.aborted .lost) else r.lastOutcome }
  riser    : e.riser = (d.releaseSlot i t).riser
  port     : e.port = d.port
  quiet    : e.quiet
  attempt  : e.wake.attempt = d.wake.attempt
  arrival  : e.wake.arrival = d.wake.arrival
  eviction : d.wake.eviction = none → e.wake.eviction = none
  lease    : e.leaseOf i = none
  free     : ∀ c, d.channelOf i = some c → e.test? c = none
  mode     : e.mode = d.mode
  settings : e.settings = d.settings

theorem lostDown_lostTeardown {d : Device} {i : Nat} (h : Leaving i d) (ha : d.test.agenda = []) (t : TermId) :
    LostDown i t d (d.lostTeardown i t) := by
  have hkept := Handled.lostTeardown d i t
  have hreleased : Leaving i (d.releaseSlot i t) := (Quits.releaseSlot d).leaving h
  have hover := leaseOver_endLease hreleased (w := .lost) rfl
  have habort := abortedLost_abortLost (d := (d.releaseSlot i t).endLease i .lost)
    (by rw [hover.agenda, releaseSlot_test, ha]) i
  have hwake : (((d.releaseSlot i t).endLease i .lost).abortLost i).wake = d.wake := by
    rw [habort.wake, hover.wake, releaseSlot_wake]
  have hclaims : ((d.releaseSlot i t).endLease i .lost).lease.claims = [] := hover.claims.trans hreleased.claims
  have hchannel : ((d.releaseSlot i t).endLease i .lost).channelOf i = d.channelOf i := by
    rw [hover.channel, channelOf, releaseSlot_test]
    rfl
  obtain ⟨v, hv, hnone⟩ := completeEviction_quiet ((congrArg Wake.queue hwake).trans h.queue) i t
  have hteardown : d.lostTeardown i t = { ((d.releaseSlot i t).endLease i .lost).abortLost i with
      wake := { d.wake with eviction := v } } := by
    rw [← hwake, ← hv]
    unfold lostTeardown
    rw [dropClaim_none hclaims]
  exact {
    mode := hkept.mode
    settings := hkept.settings
    record := by
      rw [hteardown]
      refine habort.record.trans ?_
      rw [hchannel, rec?_congr (congrArg Roster.records (hover.roster.trans (releaseSlot_roster d i t)))]
    riser := by rw [hteardown]; exact habort.riser.trans hover.riser
    port := by rw [hteardown]; exact habort.port.trans (hover.port.trans (releaseSlot_port d i t))
    quiet := by
      rw [hteardown]
      exact ⟨(congrArg LeaseMgr.claims habort.lease).trans hclaims, h.queue,
        habort.agenda.trans (hover.agenda.trans ((congrArg TestEngine.agenda (releaseSlot_test d i t)).trans ha))⟩
    attempt := by rw [hteardown]
    arrival := by rw [hteardown]
    eviction := by
      rw [hteardown]
      exact fun hno => hnone ((congrArg Wake.eviction hwake).trans hno)
    lease := by
      rw [hteardown]
      exact (leaseOf_congr habort.lease i).trans hover.lease
    free := by
      rw [hteardown, ← hchannel]
      exact habort.free }

/-! ## LOST taken -/

/-- The record once LOST is counted (R76). -/
def Record.losing (r : Record) : Record := { r.enter .lost .dormant with lost := min (r.lost + 1) 15 }

/-- The record after the whole teardown; `tested`: it had a test (R76, R167). -/
def Record.bereft (r : Record) (tested : Bool) : Record :=
  { r.losing with lastOutcome := if tested then some (.aborted .lost) else r.lastOutcome }

/-- A state that LOST is taken from (R75). -/
def RecState.losable (st : RecState) : Prop := st = .attached ∨ st = .fed ∨ st = .testing

namespace Device

variable {d e : Device} {i : Nat} {t : TermId} {r : Record}

/-- The device between the transition of LOST and its teardown. -/
def losing (d : Device) (i : Nat) : Device :=
  { d.modRec i Record.losing with
    port := { d.port with records := d.port.records.modify i fun x => { x with lost := true } } }

theorem rec?_losing (hr : d.rec? i = some r) : (d.losing i).rec? i = some r.losing :=
  (rec?_modRec_same d i _).trans (by rw [hr]; rfl)

theorem declareLost_discarded (hr : d.rec? i = some r) (hs : ¬ r.state.losable) : d.declareLost i t = d := by
  have hnone : d.transition i t .lost = none := by
    refine transition_unlisted hr ?_ t
    unfold RecState.losable at hs
    cases hst : r.state <;> simp [hst, Cause.target] at hs ⊢
  unfold declareLost
  rw [hnone]

theorem declareLost_taken (hr : d.rec? i = some r) (hs : r.state.losable) :
    d.declareLost i r.id = ((d.losing i).lostTeardown i r.id).judgeLost i r.id := by
  have htarget : Cause.target .lost r.state = some .dormant := by
    rcases hs with hs | hs | hs <;> rw [hs] <;> rfl
  have hnames : (d.modRec i Record.losing).names i r.id = true := by
    rw [names_eq (r := r.losing) (by rw [rec?_modRec_same, hr]; rfl)]
    exact beq_self_eq_true r.id
  unfold declareLost
  simp only [transition_taken hr rfl htarget, modRec_modRec]
  show ((Device.raiseRec (d.modRec i Record.losing) i r.id _).lostTeardown i r.id).judgeLost i r.id = _
  rw [raiseRec, if_pos hnames]
  rfl

/-- The teardown of LOST on a quiet device. -/
theorem lostDown_losing (hq : d.quiet) (hr : d.rec? i = some r) :
    LostDown i t (d.losing i) ((d.losing i).lostTeardown i t)
    ∧ ((d.losing i).lostTeardown i t).rec? i = some (r.bereft (d.channelOf i).isSome) := by
  have hquiet : (d.losing i).quiet := hq
  have hdown := lostDown_lostTeardown (Leaving.of_dormant hquiet (rec?_losing hr) rfl rfl) hq.2.2 t
  refine ⟨hdown, hdown.record.trans ?_⟩
  rw [rec?_losing hr]
  rfl

theorem judgeLost_within (hr : e.rec? i = some r) (hk : r.lost < e.settings.lostLimit)
    (hc : r.cls ≠ .lifeline ∨ e.mode.mode ≠ .outage) : e.judgeLost i t = e := by
  simp only [judgeLost, hr]
  rw [if_neg (Nat.not_le.mpr hk), if_neg fun h => hc.elim (absurd h.1) (absurd h.2)]

theorem judgeLost_limit (hr : e.rec? i = some r) (hk : e.settings.lostLimit ≤ r.lost) :
    e.judgeLost i t = e.quarantineD i t .lostLimit := by
  simp only [judgeLost, hr, if_pos hk]

/-- The re-wake of a LIFELINE record waits while an attempt stands (R77, R85). -/
theorem judgeLost_rewakes (hq : e.quiet) (hr : e.rec? i = some r) (hid : r.id = t) (hs : r.state = .dormant)
    (hk : r.lost < e.settings.lostLimit) (hc : r.cls = .lifeline) (hm : e.mode.mode = .outage) (ha : e.wake.attempt.isSome = true) :
    e.judgeLost i t = e.joinWake (.record i t .rewake) false := by
  subst hid
  have hnone : e.wakeEntryOf i = none := by simp [wakeEntryOf, hq.2.1]
  have hjoin : e.joinEntry i r.id .rewake = e.joinWake (.record i r.id .rewake) false := by
    rw [joinEntry_eq hr, if_pos ⟨hs, by rw [hm]; rfl, hnone⟩]
  simp only [judgeLost, hr]
  rw [if_neg (Nat.not_le.mpr hk), if_pos ⟨hc, hm⟩, requestEntry, hjoin, headCheck,
    examineWake_busy (show (e.joinWake (.record i r.id .rewake) false).wake.attempt.isSome = true from ha), ite_self]

/-- A LOST that is neither the last nor followed by a re-wake ends with its teardown. -/
theorem declareLost_within (hq : d.quiet) (hr : d.rec? i = some r) (hs : r.state.losable)
    (hk : min (r.lost + 1) 15 < d.settings.lostLimit) (hc : r.cls ≠ .lifeline ∨ d.mode.mode ≠ .outage) :
    d.declareLost i r.id = (d.losing i).lostTeardown i r.id := by
  obtain ⟨hdown, hrec⟩ := lostDown_losing (t := r.id) hq hr
  rw [declareLost_taken hr hs]
  exact judgeLost_within hrec (by rw [hdown.settings]; exact hk) (by rw [hdown.mode]; exact hc)

theorem declareLost_limit (hq : d.quiet) (hr : d.rec? i = some r) (hs : r.state.losable)
    (hk : d.settings.lostLimit ≤ min (r.lost + 1) 15) :
    (d.declareLost i r.id).rec? i = some ((r.bereft (d.channelOf i).isSome).enter .lostLimit .quarantined)
    ∧ ∀ c, d.channelOf i = some c → (d.declareLost i r.id).test? c = none := by
  obtain ⟨hdown, hrec⟩ := lostDown_losing (t := r.id) hq hr
  rw [declareLost_taken hr hs, judgeLost_limit hrec (by rw [hdown.settings]; exact hk)]
  have hfree := hdown.free
  have hquiet := hdown.quiet
  generalize (d.losing i).lostTeardown i r.id = e at hrec hfree hquiet ⊢
  have hquar : e.quarantineD i r.id .lostLimit = (e.quarantining i .lostLimit).teardown i r.id .quarantine := by
    unfold quarantineD
    rw [show r.id = (r.bereft (d.channelOf i).isSome).id from rfl, quarantine_taken hrec rfl]
    rfl
  have hleaving : Leaving i (e.quarantining i .lostLimit) :=
    leaving_quarantining hrec hquiet.1 hquiet.2.1 (by simp [hquiet.2.2])
  have htorn := tornDown hleaving (w := .quarantine) rfl r.id
  rw [hquar]
  exact ⟨(htorn.rec? i).trans (rec?_quarantining hrec), fun c hc => htorn.vacant c (hfree c hc)⟩

end Device

/-- Settles O19: the teardown on a quiet device is `LostDown`; what follows it is judged by the count of losses (R77). -/
theorem lostTaken : Obligations.LostTaken := by
  unfold Obligations.LostTaken
  refine ⟨?_, fun d i r hr => ⟨fun hs => ?_, fun hq hs hk => ?_, fun hq hs hk hc hm ha => ?_⟩⟩
  · intro d i n hold h r hok hq hheld hi hh hs hk hc e
    obtain ⟨-, hr, hid⟩ := hh
    subst hi
    rw [← hid] at hheld
    have he : e = (d.losing h.index).lostTeardown h.index r.id := by
      simp only [e, ← hid]
      exact declareLost_within hq hr hs hk hc
    obtain ⟨hdown, hrec⟩ := lostDown_losing (t := r.id) hq hr
    have hstill : e.still Record.lasting = d.still Record.lasting := (Handled.declareLost d h.index h.id).1
    rw [← he] at hdown hrec
    have hlen : h.index < d.port.records.length := by
      obtain ⟨hrecords, hport⟩ := sizes_of_ok hok
      have := rec?_length hr
      omega
    refine ⟨hrec, ?_, hdown.lease, ?_, hdown.free, hstill⟩
    · rw [slot?_congr hdown.riser]
      exact releaseSlot_released (d := d.losing h.index) hheld
    · have hreasons : (d.losing h.index).port.records[h.index]? = some { d.port.records[h.index] with lost := true } := by
        simp [losing, hlen]
      rw [reasonsOf, hdown.port, List.getD, hreasons]
      rfl
  · exact declareLost_discarded hr fun h => h.elim hs.1 fun h => h.elim hs.2.1 hs.2.2
  · obtain ⟨hrec, hfree⟩ := declareLost_limit hq hr hs hk
    exact ⟨⟨_, hrec, rfl, rfl, rfl, rfl, rfl⟩, hfree⟩
  · obtain ⟨hdown, hrec⟩ := lostDown_losing (t := r.id) hq hr
    have hrewake : d.declareLost i r.id
        = ((d.losing i).lostTeardown i r.id).joinWake (.record i r.id .rewake) false := by
      rw [declareLost_taken hr hs]
      exact judgeLost_rewakes hdown.quiet hrec rfl rfl (by rw [hdown.settings]; exact hk) hc (by rw [hdown.mode]; exact hm)
        (by rw [hdown.attempt]; exact ha)
    rw [hrewake]
    refine ⟨?_, ⟨_, hrec, rfl, rfl⟩, hdown.free⟩
    show ((d.losing i).lostTeardown i r.id).wake.queue ++ [⟨_, ((d.losing i).lostTeardown i r.id).wake.arrival, _⟩] = _
    rw [hdown.quiet.2.1, hdown.arrival]
    rfl

end Sys2Proof.Machine
end

section
/-! The take of an announce (R93), and its acceptance (R96). -/

namespace Sys2Proof.Machine

open Device

namespace Device

variable {d e : Device} {i m n : Nat} {t : TermId} {r : Record} {c : Cause} {a : Announce}

/-! ## Records and slots -/

/-- A change of a known record depends on what it makes of that record alone. -/
theorem modRec_congr_at {f g : Record → Record} (hr : d.rec? i = some r) (h : f r = g r) : d.modRec i f = d.modRec i g := by
  rw [modRec_eq hr, modRec_eq hr, h]

theorem modSlot_modRec (d : Device) (i n : Nat) (f : Slot → Slot) (g : Record → Record) :
    (d.modSlot n f).modRec i g = (d.modRec i g).modSlot n f := by
  unfold modSlot
  split <;> rfl

theorem rec?_of_findId (h : d.findId t = some i) (hr : d.rec? i = some r) : r.id = t := by
  obtain ⟨⟨q, hq, hid⟩, -⟩ := findId_some_iff.1 h
  obtain rfl := Option.some_inj.1 (hr.symm.trans hq)
  exact hid

theorem lowestFree_iff_any : d.lowestFree = some n ↔
    (d.slot? n).any Slot.isFree = true ∧ ∀ m, m < n → (d.slot? m).any Slot.isFree = false := by
  rw [lowestFree_some_iff]
  refine and_congr ?_ (forall_congr' fun m => ?_)
  · cases d.slot? n <;> simp [Slot.isFree]
  · cases d.slot? m <;> simp [Slot.isFree]

theorem lowestFree_congr (h : ∀ k, (e.slot? k).any Slot.isFree = (d.slot? k).any Slot.isFree) : e.lowestFree = d.lowestFree :=
  Option.ext fun k => by simp only [lowestFree_iff_any, h]

/-- A release frees no slot at once, nor takes a FREE one (R60). -/
theorem lowestFree_releaseSlot (d : Device) (i : Nat) (t : TermId) : (d.releaseSlot i t).lowestFree = d.lowestFree := by
  rcases hm : d.heldSlot i t with _ | m
  · rw [releaseSlot_unheld hm]
  · obtain ⟨⟨x, h, hx, hu, -⟩, -⟩ := heldSlot_some_iff.1 hm
    refine lowestFree_congr fun k => ?_
    rw [releaseSlot_held hm, slot?_modSlot]
    split
    · rename_i hk
      rw [← hk, hx]
      simp [Slot.isFree, hu]
    · rfl

/-! ## Acceptance (R96) -/

theorem clearInHand_eq (d : Device) (i : Nat) : d.clearInHand i = { d with test := { d.test with
    inHand := if (d.test.inHand.map Prod.fst) = some i then none else d.test.inHand } } := by
  by_cases h : d.test.inHand.map Prod.fst = some i
  · obtain ⟨⟨j, u⟩, hin, hj⟩ := Option.map_eq_some_iff.1 h
    rw [if_pos h]
    simp only [clearInHand, hin]
    exact if_pos hj
  · rw [if_neg h]
    unfold clearInHand
    split
    · rename_i j u hin
      exact if_neg fun hj => h (by rw [hin, Option.map_some, hj])
    · rfl

/-- The record on its slot (R59, R96), its capabilities stored with this demand. -/
def seated (d : Device) (i n : Nat) (a : Announce) (demand : Nat) : Device :=
  (d.modRec i fun r => { r with
      state := .attached, lease := false, slot := some n, capabilities := some ⟨a.markWake, demand⟩
      failedWakes := 0 }).modSlot n fun x =>
    { hold := x.hold + 1
      use := .held { index := i, id := a.id, isOpen := false, queue := [], nextSeq := 1, lastUp := none, silence := 0 } }

/-- The device once an announce is accepted, before the examinations that this calls for. -/
def accepted (d : Device) (i n : Nat) (a : Announce) (demand : Nat) : Device :=
  { d.seated i n a demand with
    riser := { (d.seated i n a demand).riser with assignNext := some (a.id, n) }
    test := { (d.seated i n a demand).test with
      inHand := if ((d.seated i n a demand).test.inHand.map Prod.fst) = some i then none
        else (d.seated i n a demand).test.inHand } }

theorem accepted_wake (d : Device) (i n : Nat) (a : Announce) (k : Nat) : (d.accepted i n a k).wake = d.wake :=
  modSlot_wake (d.modRec i _) n _

theorem accepted_lease (d : Device) (i n : Nat) (a : Announce) (k : Nat) : (d.accepted i n a k).lease = d.lease :=
  modSlot_lease (d.modRec i _) n _

theorem accepted_port (d : Device) (i n : Nat) (a : Announce) (k : Nat) : (d.accepted i n a k).port = d.port :=
  modSlot_port (d.modRec i _) n _

theorem seated_test (d : Device) (i n : Nat) (a : Announce) (k : Nat) : (d.seated i n a k).test = d.test :=
  modSlot_test (d.modRec i _) n _

theorem agenda_accepted (d : Device) (i n : Nat) (a : Announce) (k : Nat) : (d.accepted i n a k).test.agenda = d.test.agenda :=
  (congrArg TestEngine.agenda (seated_test d i n a k) :)

theorem channels_accepted (d : Device) (i n : Nat) (a : Announce) (k : Nat) :
    (d.accepted i n a k).test.channels = d.test.channels :=
  (congrArg TestEngine.channels (seated_test d i n a k) :)

theorem inAgenda_accepted (d : Device) (i n : Nat) (a : Announce) (k : Nat) : (d.accepted i n a k).inAgenda i = d.inAgenda i := by
  unfold inAgenda
  rw [agenda_accepted]

theorem test?_accepted (d : Device) (i n : Nat) (a : Announce) (k b : Nat) : (d.accepted i n a k).test? b = d.test? b := by
  unfold test?
  rw [channels_accepted]

theorem rec?_accepted (hr : d.rec? i = some r) (n : Nat) (a : Announce) (k : Nat) : (d.accepted i n a k).rec? i = some { r with
    state := .attached, lease := false, slot := some n, capabilities := some ⟨a.markWake, k⟩, failedWakes := 0 } := by
  refine (rec?_congr (d := d.modRec i _) (congrArg Roster.records (modSlot_roster (d.modRec i _) n _)) i).trans ?_
  rw [rec?_modRec_same, hr]
  rfl

theorem slot?_accepted_other (h : n ≠ m) (i : Nat) (a : Announce) (k : Nat) : (d.accepted i n a k).slot? m = d.slot? m :=
  (slot?_modSlot (d.modRec i _) n m _).trans (if_neg h)

theorem slot?_accepted_same {x : Slot} (hx : d.slot? n = some x) (i : Nat) (a : Announce) (k : Nat) :
    (d.accepted i n a k).slot? n = some ⟨x.hold + 1, .held ⟨i, a.id, false, [], 1, none, 0⟩⟩ := by
  refine (slot?_modSlot (d.modRec i _) n n _).trans ?_
  rw [if_pos rfl, show Device.slot? (d.modRec i _) n = some x from hx]
  rfl

/-- An acceptance that the Roster takes: the record seated, then the agenda examined and an eviction completed (R102, R156). -/
theorem accept_taken (hr : d.rec? i = some r) (hid : r.id = a.id) (hc : c.target r.state = some .attached) (n : Nat) :
    d.accept i c n a = (if d.inAgenda i = true then (d.accepted i n a (storedDemand r.cls a.demand)).examineAgenda
      else d.accepted i n a (storedDemand r.cls a.demand)).completeEviction i a.id := by
  have hseated : (((d.modRec i fun r => r.enter c .attached).modRec i fun r => { r with slot := some n }).assignSlot n i
        a.id).modRec i (fun r => { r with capabilities := some ⟨a.markWake, storedDemand r.cls a.demand⟩, failedWakes := 0 })
      = d.seated i n a (storedDemand r.cls a.demand) := by
    rw [assignSlot, modSlot_modRec, modRec_modRec, modRec_modRec]
    exact congrArg (Device.modSlot · n _) (modRec_congr_at hr rfl)
  have haccepted : (((((d.modRec i fun r => r.enter c .attached).modRec i fun r => { r with slot := some n }).assignSlot n i
        a.id).handAssign a.id n).modRec i
          (fun r => { r with capabilities := some ⟨a.markWake, storedDemand r.cls a.demand⟩, failedWakes := 0 })).clearInHand i
      = d.accepted i n a (storedDemand r.cls a.demand) := by
    rw [clearInHand_eq, accepted, ← hseated]
    rfl
  unfold accept
  simp only [transition_taken hr hid hc, haccepted, inAgenda_accepted]

theorem completeEviction_free (h : d.wake.eviction = none) (i : Nat) (t : TermId) : d.completeEviction i t = d :=
  if_neg (by simp [h])

/-- Where nothing waits and no eviction stands, an acceptance calls for nothing else. -/
theorem accept_quiet (hq : d.quiet) (hv : d.wake.eviction = none) (hr : d.rec? i = some r) (hid : r.id = a.id)
    (hc : c.target r.state = some .attached) (n : Nat) : d.accept i c n a = d.accepted i n a (storedDemand r.cls a.demand) := by
  have hagenda : ¬ d.inAgenda i = true := by simp [inAgenda, hq.2.2]
  rw [accept_taken hr hid hc, if_neg hagenda,
    completeEviction_free ((congrArg Wake.eviction (accepted_wake d i n a _)).trans hv)]

end Device

/-! ## The take of an announce -/

theorem FifoEntry.row_attach_announce {w : List Byte} (h : upKind w = .announce) (f : Count16) :
    (FifoEntry.mk (.attach f) w).row = .announce := h

/-- The `announce` command judges the announce taken. -/
theorem State.exec_heard {s : State} {d : Device} {a : Announce} (h : s.heard a d) :
    exec .announce s = .next ⟨d.judgeAnnounce a, s.pending⟩ := by
  obtain ⟨d0, w, f, rest, hd, hf, hk, rfl, -, rfl⟩ := h
  have htake := State.exec_take hd hf
  rw [FifoEntry.row_attach_announce hk, takeWord_announce hf hk] at htake
  exact htake

theorem State.validId_of_heard {s : State} {d : Device} {a : Announce} (h : s.heard a d) : validId a.id = true := by
  obtain ⟨-, -, -, -, -, -, -, -, hv, -⟩ := h
  exact hv

/-- An announce that no attempt and no discovery waits for. -/
def Device.unawaited (d : Device) (a : Announce) : Prop :=
  d.wake.attempt = none ∨ (a.cause = .self ∧ ∃ x l, d.wake.attempt = some x ∧ x.target = .discovery l)

namespace Device

variable {d : Device} {a : Announce} {x : Attempt}

theorem judgeAnnounce_unawaited (hv : validId a.id = true) (h : d.unawaited a) : d.judgeAnnounce a = d.announceSpontaneous a := by
  obtain hnone | ⟨hself, x, l, hx, ht⟩ := h
  · simp [judgeAnnounce, hv, hnone]
  · simp [judgeAnnounce, hv, hx, ht, hself]

theorem judgeAnnounce_match {i : Nat} {p : Purpose} (hv : validId a.id = true) (hx : d.wake.attempt = some x)
    (ht : x.target = .record i a.id p) : d.judgeAnnounce a = d.announceMatch i x a := by
  simp [judgeAnnounce, hv, hx, ht]

theorem judgeAnnounce_foreign {i : Nat} {t : TermId} {p : Purpose} (hv : validId a.id = true) (hx : d.wake.attempt = some x)
    (ht : x.target = .record i t p) (hid : a.id ≠ t) : d.judgeAnnounce a = d.announceForeign a := by
  simp [judgeAnnounce, hv, hx, ht, hid]

theorem judgeAnnounce_discovery {l : Nat} (hv : validId a.id = true) (hx : d.wake.attempt = some x) (ht : x.target = .discovery l)
    (hw : a.cause = .woken) : d.judgeAnnounce a = d.decideDiscovery x l a := by
  simp [judgeAnnounce, hv, hx, ht, hw]

end Device

end Sys2Proof.Machine
end

section
/-! Spontaneous announces and restarts (R95, R97). -/

namespace Sys2Proof.Machine

open Device

theorem storedDemand_spelt (cls : Class) (demand : Nat) : (if demand = 0 ∨ demand = 63 then (match cls with
      | .lifeline => 12 | .standard => 10 | .deferrable => 8) else min demand 40) = storedDemand cls demand := by
  cases cls <;> rfl

/-- The record between the transition of a restart and its teardown (R97). -/
def Record.restarting (r : Record) : Record := r.enter .restartTeardown .dormant

/-- The record after the teardown of a restart; `tested`: it had a test (R97, R167). -/
def Record.restarted (r : Record) (tested : Bool) : Record :=
  { r.restarting with lastOutcome := if tested then some (.aborted .lost) else r.lastOutcome }

namespace Device

variable {d e : Device} {i m n : Nat} {t : TermId} {r : Record} {a : Announce}

/-! ## Spontaneous announces (R95) -/

theorem announceDormant_full (h : d.lowestFree = none) : d.announceDormant i a = d.handBackoff a.id := by
  simp only [announceDormant, h]

theorem announceDormant_free (h : d.lowestFree = some n) : d.announceDormant i a =
    headCheck d ((d.dropWakeRecord i).accept i .spontaneousAnnounce n a) := by
  simp only [announceDormant, h]

theorem dropWakeRecord_none (h : d.wake.queue = []) (i : Nat) : d.dropWakeRecord i = d := by
  have hfilter : (d.wake.queue.filter fun x => !x.isRecord i) = d.wake.queue := by
    rw [h]
    rfl
  unfold dropWakeRecord
  rw [hfilter]

/-- The announce of a DORMANT record where nothing waits. -/
theorem announceDormant_quiet (hq : d.quiet) (hv : d.wake.eviction = none) (hr : d.rec? i = some r) (hid : r.id = a.id)
    (hs : r.state = .dormant) (hn : d.lowestFree = some n) :
    d.announceDormant i a = d.accepted i n a (storedDemand r.cls a.demand) := by
  rw [announceDormant_free hn, dropWakeRecord_none hq.2.1, accept_quiet hq hv hr hid (by rw [hs]; rfl)]
  exact headCheck_none ((congrArg Wake.queue (accepted_wake d i n a _)).trans hq.2.1)

theorem announceSpontaneous_unknown (h : d.findId a.id = none) :
    d.announceSpontaneous a = (d.handBackoff a.id).offerStranger a.id none a.frame := by
  simp only [announceSpontaneous, h]

theorem announceSpontaneous_quarantined (h : d.findId a.id = some i) (hr : d.rec? i = some r) (hs : r.state = .quarantined) :
    d.announceSpontaneous a = d.handBackoff a.id := by
  simp only [announceSpontaneous, h, hr, Option.map_some, hs]

theorem announceSpontaneous_dormant (h : d.findId a.id = some i) (hr : d.rec? i = some r) (hs : r.state = .dormant) :
    d.announceSpontaneous a = d.announceDormant i a := by
  simp only [announceSpontaneous, h, hr, Option.map_some, hs]

theorem announceSpontaneous_pending (h : d.findId a.id = some i) (hr : d.rec? i = some r) (hs : r.state = .pending) :
    d.announceSpontaneous a = { d.handBackoff a.id with port := { d.port with
      records := d.port.records.modify i fun x => { x with unplaced := true } } } := by
  have hnames : (d.handBackoff a.id).names i a.id = true := by
    rw [names_eq (d := d.handBackoff a.id) hr]
    exact beq_iff_eq.2 (rec?_of_findId h hr)
  simp only [announceSpontaneous, h, hr, Option.map_some, hs, raiseRec, hnames, if_true]
  rfl

theorem announceSpontaneous_restarted (h : d.findId a.id = some i) (hr : d.rec? i = some r) (hs : r.state.losable) :
    d.announceSpontaneous a = (d.restartTeardown i a.id).announceAgain i a := by
  rcases hs with hs | hs | hs <;> simp only [announceSpontaneous, h, hr, Option.map_some, hs]

/-! ## Restarts (R97) -/

/-- The device between the transition of a restart and its teardown. -/
def restarting (d : Device) (i : Nat) : Device := d.modRec i Record.restarting

theorem rec?_restarting (hr : d.rec? i = some r) : (d.restarting i).rec? i = some r.restarting := by
  rw [restarting, rec?_modRec_same, hr]
  rfl

theorem restartTeardown_taken (hr : d.rec? i = some r) (hid : r.id = t) (hs : r.state.losable) :
    d.restartTeardown i t = (d.restarting i).lostTeardown i t := by
  have htarget : Cause.target .restartTeardown r.state = some .dormant := by
    rcases hs with hs | hs | hs <;> rw [hs] <;> rfl
  unfold restartTeardown
  rw [transition_taken hr hid htarget]
  rfl

theorem announceAgain_idle (h : d.wake.attempt = none) : d.announceAgain i a = d.announceDormant i a := by
  simp only [announceAgain, h]

/-- The teardown of a restart on a quiet device. -/
theorem lostDown_restarting (hq : d.quiet) (hr : d.rec? i = some r) :
    LostDown i t (d.restarting i) ((d.restarting i).lostTeardown i t)
    ∧ ((d.restarting i).lostTeardown i t).rec? i = some (r.restarted (d.channelOf i).isSome) := by
  have hquiet : (d.restarting i).quiet := hq
  have hdown := lostDown_lostTeardown (Leaving.of_dormant hquiet (rec?_restarting hr) rfl rfl) hq.2.2 t
  refine ⟨hdown, hdown.record.trans ?_⟩
  rw [rec?_restarting hr]
  rfl

/-- What a restart leaves: the slot, the lease and the test gone, and no attention raised. -/
structure Restarted (d : Device) (i m : Nat) (e : Device) : Prop where
  slot  : (e.slot? m).map Slot.use = some .releasing
  lease : e.leaseOf i = none
  port  : e.port = d.port
  free  : ∀ c, d.channelOf i = some c → e.test? c = none

theorem Restarted.of_lostDown (hdown : LostDown i t (d.restarting i) e) (hm : d.heldSlot i t = some m) : Restarted d i m e where
  slot := by
    rw [slot?_congr hdown.riser]
    exact releaseSlot_released (d := d.restarting i) hm
  lease := hdown.lease
  port := hdown.port
  free := hdown.free

/-- A released slot is not FREE before the next frame: the record restarts on another (R60, R97). -/
theorem Restarted.ne_free (h : Restarted d i m e) (hn : e.lowestFree = some n) : n ≠ m := by
  rintro rfl
  obtain ⟨⟨x, hx, hu⟩, -⟩ := lowestFree_some_iff.1 hn
  have hslot := h.slot
  rw [hx, Option.map_some, hu] at hslot
  cases hslot

theorem Restarted.accepted (h : Restarted d i m e) (hn : e.lowestFree = some n) (a : Announce) (k : Nat) :
    Restarted d i m (e.accepted i n a k) where
  slot := by
    rw [slot?_accepted_other (h.ne_free hn)]
    exact h.slot
  lease := (leaseOf_congr (accepted_lease e i n a k) i).trans h.lease
  port := (accepted_port e i n a k).trans h.port
  free c hc := (test?_accepted e i n a k c).trans (h.free c hc)

theorem Restarted.handBackoff (h : Restarted d i m e) (t : TermId) : Restarted d i m (e.handBackoff t) :=
  ⟨h.slot, h.lease, h.port, h.free⟩

end Device

/-- Settles O28: each case of R95 by the state of the record named; a restart tears the record down to DORMANT, and what
`Restarted` says of it stays through the acceptance on another slot or the BACKOFF. -/
theorem spontaneousAnnounce : Obligations.SpontaneousAnnounce := by
  unfold Obligations.SpontaneousAnnounce
  refine ⟨fun d => ⟨fun n => ⟨fun h => ?_, fun h => lowestFree_some_iff.2 h.2⟩, lowestFree_none_iff⟩, ?_, ?_, ?_, ?_⟩
  · obtain ⟨⟨x, hx, hu⟩, hlow⟩ := lowestFree_some_iff.1 h
    exact ⟨slot?_some_ge hx, ⟨x, hx, hu⟩, hlow⟩
  · intro s d a hh hw e
    have hexec := (State.exec_heard hh).trans (by rw [judgeAnnounce_unawaited (State.validId_of_heard hh) hw])
    refine ⟨fun hnone => ?_, fun i r hi hr => ⟨fun hs => ?_, fun hs hfull => ?_, fun hs => ?_⟩⟩
    · rw [hexec, announceSpontaneous_unknown hnone]
      rfl
    · rw [hexec, announceSpontaneous_quarantined hi hr hs]
      rfl
    · rw [hexec, announceSpontaneous_dormant hi hr hs, announceDormant_full (lowestFree_none_iff.2 hfull)]
      rfl
    · rw [hexec, announceSpontaneous_pending hi hr hs]
      rfl
  · intro s d a i n r hh hw hq hv hi hr hs hn demand e
    rw [State.exec_heard hh, judgeAnnounce_unawaited (State.validId_of_heard hh) (.inl hw), announceSpontaneous_dormant hi hr hs,
      announceDormant_quiet hq hv hr (rec?_of_findId hi hr) hs hn, ← storedDemand_spelt]
    rfl
  · intro s d a i n r hh hw hi hr hs hn e
    rw [State.exec_heard hh, judgeAnnounce_unawaited (State.validId_of_heard hh) hw, announceSpontaneous_dormant hi hr hs,
      announceDormant_free hn]
    rfl
  · intro s d a i m r hh hw hq hv hok hi hr hs hm demand out
    obtain ⟨hdown, hrec⟩ := lostDown_restarting (t := a.id) hq hr
    have hid := rec?_of_findId hi hr
    have hexec : exec .announce s = .next ⟨((d.restarting i).lostTeardown i a.id).announceDormant i a, s.pending⟩ := by
      rw [State.exec_heard hh, judgeAnnounce_unawaited (State.validId_of_heard hh) (.inl hw),
        announceSpontaneous_restarted hi hr hs, restartTeardown_taken hr hid hs,
        announceAgain_idle (hdown.attempt.trans hw)]
    have hfree : ((d.restarting i).lostTeardown i a.id).lowestFree = d.lowestFree :=
      (lowestFree_congr fun k => by rw [slot?_congr hdown.riser]).trans (lowestFree_releaseSlot (d.restarting i) i a.id)
    have hrestarted := Restarted.of_lostDown hdown hm
    have hquiet := hdown.quiet
    have heviction := hdown.eviction hv
    generalize (d.restarting i).lostTeardown i a.id = e at hexec hfree hrestarted hrec hquiet heviction
    rw [← hfree]
    rcases hn : e.lowestFree with _ | n
    · rw [announceDormant_full hn] at hexec
      obtain ⟨hslot, hlease, hport, hchan⟩ := hrestarted.handBackoff a.id
      exact ⟨_, hexec, hslot, hlease, hport, hchan, nofun, fun _ => ⟨hrec, rfl⟩⟩
    · rw [announceDormant_quiet hquiet heviction hrec hid rfl hn] at hexec
      obtain ⟨hslot, hlease, hport, hchan⟩ := hrestarted.accepted hn a (storedDemand r.cls a.demand)
      refine ⟨_, hexec, hslot, hlease, hport, hchan, fun k hk => ?_, nofun⟩
      obtain rfl := Option.some_inj.1 hk
      obtain ⟨⟨x, hx, -⟩, -⟩ := lowestFree_some_iff.1 hn
      refine ⟨?_, ?_, rfl⟩
      · rw [rec?_accepted hrec, ← storedDemand_spelt]
        rfl
      · rw [slot?_accepted_same hx]
        rfl

end Sys2Proof.Machine
end

section
/-! The announces that an attempt or a discovery waits for (R94, R98), and the stop of a pulse (R89). -/

namespace Sys2Proof.Machine

open Device

namespace Device

variable {d : Device} {i n l : Nat} {t : TermId} {r : Record} {c : Cause} {a : Announce} {x : Attempt}

/-! ## The stop of a pulse (R89) -/

theorem returnPermit_eq (d : Device) : d.returnPermit = match d.lease.permit with
    | some k => ({ d with lease := { d.lease with permit := none, committed := d.lease.committed - k } } : Device).serve
    | none => d := by
  unfold returnPermit clearPermit
  cases d.lease.permit <;> rfl

theorem stopPulse_over (h : ∀ x, d.wake.attempt = some x → x.pulsing = false) : d.stopPulse = d := by
  unfold stopPulse
  split
  · rename_i x hx
    exact if_neg (by simp [h x hx])
  · rfl

theorem targetLine_eq (d : Device) (t : WakeTarget) : d.targetLine t = match t with
    | .record i _ _ => (d.rec? i).bind Record.line
    | .discovery l => some l := by
  unfold targetLine lineOf
  cases t with
  | record i _ _ => cases d.rec? i <;> rfl
  | discovery l => rfl

/-- The device with the line named switched OFF, where one is. -/
def lineOff (d : Device) (o : Option Nat) : Device := match o with
  | some l => d.orderOff l
  | none => d

theorem lineOff_eq (d : Device) (o : Option Nat) : d.lineOff o = match o with
    | some l => d.modLine l fun y => { y with switch := if y.switch = .tripped then .tripped else .off }
    | none => d := by
  cases o with
  | some l => exact orderOff_eq d l
  | none => rfl

theorem lineOff_wake (d : Device) (o : Option Nat) : (d.lineOff o).wake = d.wake := by
  cases o <;> rfl

theorem lineOff_lease (d : Device) (o : Option Nat) : (d.lineOff o).lease = d.lease := by
  cases o <;> rfl

theorem stopPulse_running (hx : d.wake.attempt = some x) (hp : x.pulsing = true) :
    d.stopPulse = (d.lineOff (d.targetLine x.target)).pulseOver.returnPermit := by
  unfold stopPulse
  simp only [hx, hp, if_true]
  rfl

theorem pulseOver_eq (hx : d.wake.attempt = some x) : d.pulseOver =
    { d with wake := { d.wake with attempt := some { x with pulsing := false, permit := false } } } := by
  unfold pulseOver
  rw [hx]
  rfl

/-! ## The announces of an attempt (R94) -/

theorem freeSlot_eq (d : Device) (n : Nat) : d.freeSlot n = d.modSlot n fun x => { x with use := match x.use with
    | .reserved _ => .free
    | use => use } := by
  unfold freeSlot
  refine congrArg (d.modSlot n) (funext fun x => ?_)
  obtain ⟨hold, use⟩ := x
  cases use <;> rfl

theorem announceForeign_eq (d : Device) (a : Announce) : d.announceForeign a =
    if d.findId a.id = none then (d.handBackoff a.id).offerStranger a.id none a.frame else d.handBackoff a.id := by
  simp only [announceForeign, Option.isNone_iff_eq_none]
  rfl

/-! ## The announces of a discovery (R98) -/

theorem decideDiscovery_unknown (h : d.stopPulse.findId a.id = none) : d.decideDiscovery x l a =
    (((d.stopPulse.freeSlot x.slot).handBackoff a.id).offerStranger a.id (some l) a.frame).endDiscovery l .stranger := by
  simp only [decideDiscovery, h]

theorem decideDiscovery_known (h : d.stopPulse.findId a.id = some i) (hr : d.stopPulse.rec? i = some r)
    (hs : r.state ≠ .pending) : d.decideDiscovery x l a =
    ((d.stopPulse.freeSlot x.slot).handBackoff a.id).endDiscovery l .conflict := by
  simp only [decideDiscovery, h, inState_eq hr, beq_iff_eq, if_neg hs]

theorem decideDiscovery_pending (h : d.stopPulse.findId a.id = some i) (hr : d.stopPulse.rec? i = some r)
    (hs : r.state = .pending) : d.decideDiscovery x l a =
    (((d.stopPulse.bindLine i l).accept i .discoveryBound x.slot a).raiseRec i a.id fun y => { y with bound := true }).endDiscovery
      l .bound := by
  simp only [decideDiscovery, h, inState_eq hr, beq_iff_eq, if_pos hs]

end Device

/-- Settles O30: each case of R89, R94, R96 and R98 is one equation above. -/
theorem announceInAttempt : Obligations.AnnounceInAttempt := by
  unfold Obligations.AnnounceInAttempt
  refine ⟨fun d => ⟨stopPulse_over, ?_⟩, ?_, freeSlot_eq, ?_, ?_⟩
  · intro x hx hp line e f
    have he : d.lineOff (d.targetLine x.target) = e := by
      rw [targetLine_eq]
      exact lineOff_eq d line
    have hf : e.pulseOver = f := pulseOver_eq (by rw [← he, lineOff_wake, hx])
    have hpermit : d.lease.permit = f.lease.permit := by rw [← lineOff_lease d (d.targetLine x.target), he]
    rw [stopPulse_running hx hp, he, hf, hpermit]
    exact returnPermit_eq f
  · intro d i n c a r hr hid hc demand e f
    have htarget : c.target r.state = some .attached := by
      obtain ⟨rfl, hs⟩ | ⟨rfl, hs⟩ | ⟨rfl, hs⟩ := hc <;> rw [hs] <;> rfl
    rw [accept_taken hr hid htarget, ← storedDemand_spelt]
    rfl
  · intro s d a x i t p hh hx ht
    have hv := State.validId_of_heard hh
    rw [State.exec_heard hh]
    refine ⟨fun hid => ?_, fun hid => ?_⟩
    · rw [judgeAnnounce_match hv hx (hid ▸ ht)]
      rfl
    · rw [judgeAnnounce_foreign hv hx ht hid, announceForeign_eq]
      rfl
  · intro s d a x l hh hx ht hw ended e f refused
    rw [State.exec_heard hh, judgeAnnounce_discovery (State.validId_of_heard hh) hx ht hw]
    refine ⟨fun hnone => ?_, fun i r hi hr => ⟨fun hs => ?_, fun hs => ?_⟩⟩
    · rw [decideDiscovery_unknown hnone]
      rfl
    · rw [decideDiscovery_known hi hr hs]
      rfl
    · rw [decideDiscovery_pending hi hr hs]
      rfl

end Sys2Proof.Machine
end

section
/-! The window expiries of an attempt and of a discovery (R90, R99). -/

namespace Sys2Proof.Machine

open Device

namespace Device

variable {d : Device} {i l : Nat} {t : TermId} {p : Purpose} {r : Record} {x : Attempt}

/-- The device with one more failed wake of the record counted (R90). -/
def wakeFailed (d : Device) (i : Nat) : Device := d.modRec i fun r => { r with failedWakes := min (r.failedWakes + 1) 7 }

theorem rec?_wakeFailed (hr : d.rec? i = some r) :
    (d.wakeFailed i).rec? i = some { r with failedWakes := min (r.failedWakes + 1) 7 } := by
  rw [wakeFailed, rec?_modRec_same, hr]
  rfl

theorem wakeFailed_eq (hr : d.rec? i = some r) :
    d.wakeFailed i = d.modRec i fun q => { q with failedWakes := min (r.failedWakes + 1) 7 } :=
  modRec_congr_at hr rfl

/-- The record of an attempt that has run out, DORMANT again; the reserved slot freed and the attempt over (R90). -/
def lapsed (d : Device) (i n : Nat) : Device := ((d.modRec i fun r => r.enter .windowExpired .dormant).freeSlot n).clearAttempt

theorem rec?_lapsed (hr : d.rec? i = some r) (n : Nat) : (d.lapsed i n).rec? i = some (r.enter .windowExpired .dormant) := by
  have hroster : (d.lapsed i n).roster = (d.modRec i fun r => r.enter .windowExpired .dormant).roster := modSlot_roster _ _ _
  rw [rec?_congr (congrArg Roster.records hroster), rec?_modRec_same, hr]
  rfl

/-- Below wake attempts the Roster takes the expiry, and the record's entry is asked for again (R90). -/
theorem attachExpired_retry (hx : d.wake.attempt = some x) (ht : x.target = .record i t p) (hw : x.window = 0)
    (hr : d.stopPulse.rec? i = some r) (hid : r.id = t) (hs : r.state = .waking)
    (hfails : min (r.failedWakes + 1) 7 < d.stopPulse.settings.wakeAttempts) :
    d.attachExpired = ((((d.stopPulse.wakeFailed i).lapsed i x.slot).joinEntry i t p)).examineWake := by
  have hrec : (((d.stopPulse.wakeFailed i).freeSlot x.slot).clearAttempt).rec? i
      = some { r with failedWakes := min (r.failedWakes + 1) 7 } :=
    (rec?_congr (congrArg Roster.records (modSlot_roster _ _ _)) i).trans (rec?_wakeFailed hr)
  have htaken := transition_taken (t := t) (c := .windowExpired) hrec hid (by rw [hs]; rfl)
  have hlapsed : (((d.stopPulse.wakeFailed i).freeSlot x.slot).clearAttempt).modRec i (fun r => r.enter .windowExpired .dormant)
      = (d.stopPulse.wakeFailed i).lapsed i x.slot := congrArg clearAttempt (freeSlot_modRec _ i x.slot _).symm
  have hcount := rec?_wakeFailed hr
  unfold attachExpired
  simp only [hx, ht, hw, if_true]
  unfold wakeFailed at hcount htaken hlapsed ⊢
  simp only [hcount, modRec_settings, if_pos hfails, htaken, hlapsed]

/-- From wake attempts on the record is quarantined as NO_WAKE (R90). -/
theorem attachExpired_last (hx : d.wake.attempt = some x) (ht : x.target = .record i t p) (hw : x.window = 0)
    (hr : d.stopPulse.rec? i = some r) (hfails : d.stopPulse.settings.wakeAttempts ≤ min (r.failedWakes + 1) 7) :
    d.attachExpired = ((d.stopPulse.wakeFailed i).quarantineD i t .attemptsExhausted).examineWake := by
  have hcount := rec?_wakeFailed hr
  unfold attachExpired
  simp only [hx, ht, hw, if_true]
  unfold wakeFailed at hcount ⊢
  simp only [hcount, modRec_settings]
  exact if_neg (Nat.not_lt.2 hfails)

theorem discoveryExpired_out (hx : d.wake.attempt = some x) (ht : x.target = .discovery l) (hw : x.window = 0) :
    d.discoveryExpired = (d.stopPulse.freeSlot x.slot).endDiscovery l .empty := by
  unfold discoveryExpired
  simp only [hx, ht, hw, if_true]

end Device

/-- Settles O31: an expiry of an attempt by the count of failed wakes, and that of a discovery by `endDiscovery`. -/
theorem windowExpiries : Obligations.WindowExpiries := by
  unfold Obligations.WindowExpiries
  refine ⟨?_, ?_⟩
  · rintro s d e x i t p r hd hx ht hw rfl hr rfl hs fails f
    have hexec : exec .attachWindowExpiry s = .next ⟨d.attachExpired.finish, s.pending⟩ := (State.named_due hd :)
    have hf : d.stopPulse.wakeFailed i = f := wakeFailed_eq hr
    have hfr : f.rec? i = some { r with failedWakes := fails } := hf ▸ rec?_wakeFailed hr
    refine ⟨?_, fun hhigh => ?_⟩
    · intro hlow g h
      have hh : f.lapsed i x.slot = h := rfl
      have hjoin := joinEntry_eq (hh ▸ rec?_lapsed hfr x.slot) p
      rw [hexec, attachExpired_retry hx ht hw hr rfl hs hlow, hf, hh]
      exact congrArg (fun y : Device => (.next ⟨y.examineWake.finish, s.pending⟩ : Answered))
        (hjoin.trans (if_congr (and_iff_right rfl) rfl rfl))
    · rw [hexec, attachExpired_last hx ht hw hr hhigh, hf]
  · intro s d x l hd hx ht hw e
    have hexec : exec .discoveryWindowExpiry s = .next ⟨d.discoveryExpired.finish, s.pending⟩ := (State.named_due hd :)
    rw [hexec, discoveryExpired_out hx ht hw]
    rfl

end Sys2Proof.Machine
end

section
/-! The stranger list (R100) and ATTENTION_CLEAR (R189, R192). -/

namespace Sys2Proof.Machine

open Device

/-! ## An offer to the stranger list -/

namespace Device

variable {d : Device} {t : TermId} {x : Stranger}

/-- An ID that is listed gains at most a line (R100). -/
theorem offerStranger_listed (h : d.wake.strangers.find? (fun x => x.id == t) = some x) (line : Option Nat) (f : Count16) :
    d.offerStranger t line f = if x.line = none ∧ line ≠ none then
      (d.setStrangers (d.wake.strangers.map fun y => if y.id = t then { y with line := line } else y)).raiseStranger else d := by
  unfold offerStranger
  simp only [h]
  exact if_congr (by rw [Bool.and_eq_true, Option.isNone_iff_eq_none, Option.isSome_iff_ne_none]) rfl rfl

/-- An ID that is not listed joins, or marks the overflow of a full list (R100). -/
theorem offerStranger_new (h : d.wake.strangers.find? (fun x => x.id == t) = none) (line : Option Nat) (f : Count16) :
    d.offerStranger t line f = (if d.wake.strangers.length < 4 then d.setStrangers (d.wake.strangers ++ [⟨t, line, f⟩])
      else { d with wake := { d.wake with overflow := true } }).raiseStranger := by
  unfold offerStranger
  simp only [h]
  exact (apply_ite raiseStranger _ _ _).symm

end Device

/-- Settles O29, by whether the list has the ID. -/
theorem strangerOffer : Obligations.StrangerOffer := by
  unfold Obligations.StrangerOffer
  intro d t line f raised
  exact ⟨fun x hx => offerStranger_listed hx line f, fun hnone => offerStranger_new hnone line f⟩

/-! ## ATTENTION_CLEAR -/

/-- The parameters of ATTENTION_CLEAR that draw BAD_VALUE (R189, R192). -/
def clearsNothing (target dev rec_ : Byte) : Prop :=
  31 < dev.toNat ∨ 63 < rec_.toNat ∨ (79 < target.toNat ∧ target ≠ 255) ∨ (dev = 0 ∧ rec_ = 0) ∨ (target = 255 ∧ rec_ ≠ 0)
    ∨ (target ≠ 255 ∧ dev ≠ 0)

namespace Device

variable {d : Device} {target dev rec_ : Byte}

/-- ATTENTION_CLEAR of three bytes is judged by their ranges, and then by its target. -/
theorem carryAttentionClear_eq (target dev rec_ : Byte) (d : Device) : carryAttentionClear [target, dev, rec_] d =
    if (79 < target.toNat ∧ target ≠ 255) ∨ 31 < dev.toNat ∨ 63 < rec_.toNat ∨ (dev = 0 ∧ rec_ = 0) then (d, .badValue, [])
    else if target = 255 then if rec_ ≠ 0 then (d, .badValue, []) else (d.clearDevice dev, .ok, [])
    else if dev ≠ 0 then (d, .badValue, [])
    else if d.rec? target.toNat = none then (d, .notFound, []) else (d.clearRecord target.toNat rec_, .ok, []) := by
  have htarget : byteAt [target, dev, rec_] 0 = 255 ↔ target = 255 := (BitVec.toNat_inj (x := target) (y := 255) :)
  unfold carryAttentionClear
  simp only [ne_eq, htarget, not_true_eq_false, List.length_cons, List.length_nil, false_or, Option.isNone_iff_eq_none]
  rfl

theorem carryAttentionClear_badValue (h : clearsNothing target dev rec_) :
    carryAttentionClear [target, dev, rec_] d = (d, .badValue, []) := by
  rw [carryAttentionClear_eq]
  split
  · rfl
  · rename_i hrange
    unfold clearsNothing at h
    split
    · exact if_pos (by tauto)
    · exact if_pos (by tauto)

theorem carryAttentionClear_device (h : ¬ clearsNothing target dev rec_) (ht : target = 255) :
    carryAttentionClear [target, dev, rec_] d = (d.clearDevice dev, .ok, []) := by
  unfold clearsNothing at h
  rw [carryAttentionClear_eq, if_neg (by tauto), if_pos ht, if_neg (by tauto)]

theorem carryAttentionClear_record (h : ¬ clearsNothing target dev rec_) (ht : target ≠ 255) :
    carryAttentionClear [target, dev, rec_] d =
      if d.rec? target.toNat = none then (d, .notFound, []) else (d.clearRecord target.toNat rec_, .ok, []) := by
  unfold clearsNothing at h
  rw [carryAttentionClear_eq, if_neg (by tauto), if_neg ht, if_neg (by tauto)]

theorem clearDevice_eq (d : Device) (b : Byte) : d.clearDevice b =
    if d.port.device.stranger = true ∧ b.getLsbD 3 = true then (d.raiseDev fun r => r.clear b).clearStrangers
    else d.raiseDev fun r => r.clear b := if_congr (Bool.and_eq_true _ _ ▸ Iff.rfl) rfl rfl

end Device

/-- Settles O52: the parameters are judged first, then the reasons go from the device or from the record. -/
theorem attentionClearEffect : Obligations.AttentionClearEffect := by
  unfold Obligations.AttentionClearEffect
  intro s d target dev rec_ hs w bad
  refine ⟨fun hbad => State.request_takes hs (carryAttentionClear_badValue hbad), fun hgood ht => ?_,
    fun hgood ht => ⟨fun hnone => ?_, fun r hr => ?_⟩⟩
  · exact State.request_takes hs ((carryAttentionClear_device (d := w) hgood ht).trans (by rw [clearDevice_eq]; rfl))
  · exact State.request_takes hs ((carryAttentionClear_record (d := w) hgood ht).trans (if_pos hnone))
  · exact State.request_takes hs ((carryAttentionClear_record (d := w) hgood ht).trans (if_neg (by simp [w, hr])))

end Sys2Proof.Machine
end

section
/-! The switch of a line: the end of a pulse and of a soft start (R136, R137), and trips (R139 to R142). -/

namespace Sys2Proof.Machine

open Device

namespace Device

variable {d : Device} {i l : Nat} {r : Record} {x : Line} {a : Attempt}

/-- A change of a known line depends on what it makes of that line alone. -/
theorem modLine_congr_at {f g : Line → Line} (hx : d.line? l = some x) (h : f x = g x) : d.modLine l f = d.modLine l g := by
  have hlines : d.lines.modify l f = d.lines.modify l g := by
    refine List.ext_getElem? fun j => ?_
    have hl : d.lines[l]? = some x := hx
    by_cases hj : l = j
    · subst hj
      simp [hl, h]
    · simp [hj]
  simp only [modLine, hlines]

/-- The device with a line's switch OFF. -/
def switchedOff (d : Device) (l : Nat) : Device := d.modLine l fun x => { x with switch := .off }

/-- The device with a line's switch TRIPPED. -/
def switchedTripped (d : Device) (l : Nat) : Device := d.modLine l fun x => { x with switch := .tripped }

theorem switchedTripped_off (d : Device) (l : Nat) : (d.switchedTripped l).switchedOff l = d.switchedOff l :=
  modLine_modLine d l _ _

/-! ## The end of a pulse and of a soft start -/

theorem reportPulseEnd_idle (h : d.wake.attempt = none) (l : Nat) : d.reportPulseEnd l = d := by
  simp only [reportPulseEnd, h]

/-- The report of a pulse's end on a line concerns the attempt in progress where its running pulse is on that line (R89, R137). -/
theorem reportPulseEnd_eq (ha : d.wake.attempt = some a) (l : Nat) : d.reportPulseEnd l =
    if a.pulsing = true ∧ d.targetLine a.target = some l then d.pulseOver.returnPermit else d := by
  simp only [reportPulseEnd, ha]
  exact if_congr (by simp) rfl rfl

theorem pulseEnded_out {o : Claimant} (hx : d.line? l = some x) (hs : x.switch = .pulse 0 o) :
    d.pulseEnded l = (d.switchedOff l).reportPulseEnd l := by
  have hoff : d.orderOff l = d.switchedOff l := by
    rw [orderOff_eq]
    exact modLine_congr_at hx (by rw [hs]; rfl)
  simp only [pulseEnded, hx, Option.map_some, hs, hoff]

theorem softstartDone_out (hx : d.line? l = some x) (hs : x.switch = .softstart 0) :
    d.softstartDone l = d.modLine l fun x => { x with switch := .on } := by
  simp only [softstartDone, hx, Option.map_some, hs]

/-! ## The handling of a trip -/

theorem tripDue_released (hx : d.line? l = some x) (h : x.tripLow = false) : d.tripDue l = d := by
  simp only [tripDue, hx, h, Bool.false_eq_true, if_false]

theorem tripDue_asserted (hx : d.line? l = some x) (h : x.tripLow = true) : d.tripDue l = d.tripped l := by
  simp only [tripDue, hx, h, if_true]

theorem tripped_out (hx : d.line? l = some x) (h : x.switch = .off ∨ x.switch = .tripped) : d.tripped l = d := by
  rcases h with h | h <;> simp only [tripped, hx, h]

theorem tripped_unbound (hx : d.line? l = some x) (hb : x.binding = none) (ho : x.switch ≠ .off) (ht : x.switch ≠ .tripped) :
    d.tripped l = d.tripUnbound l x.switch := by
  unfold tripped
  rw [hx]
  cases hs : x.switch with
  | off => exact absurd hs ho
  | tripped => exact absurd hs ht
  | pulse n o => simp only [hs, hb]
  | softstart n => simp only [hs, hb]
  | on => simp only [hs, hb]

/-- A trip of an unbound line that no discovery pulses (R141). -/
theorem tripUnbound_apart {sw : Switch}
    (h : ∀ k a, sw = .pulse k .discovery → d.wake.attempt = some a → a.target ≠ .discovery l) :
    d.tripUnbound l sw = d.switchedOff l := by
  unfold tripUnbound
  dsimp only [modLine_wake]
  split
  · rename_i k a ha
    split
    · rename_i m hm
      exact if_neg fun hml : m = l => h k a rfl ha (hml ▸ hm)
    · rfl
  · rfl

/-- A trip during the pulse of the discovery in progress decides it (R99, R141). -/
theorem tripUnbound_discovery {k : Nat} (ha : d.wake.attempt = some a) (ht : a.target = .discovery l) :
    d.tripUnbound l (.pulse k .discovery) =
      (((d.switchedOff l).reportPulseEnd l).freeSlot a.slot).endDiscovery l .short := by
  unfold tripUnbound
  simp only [modLine_wake, ha, ht, if_true]
  rfl

/-- A trip of a bound line whose record no quarantine takes (R140). -/
theorem tripBound_refused (h : ∀ r, d.rec? i = some r → Cause.target .trip r.state = none) (wasPulse : Bool) :
    d.tripBound l i wasPulse = if wasPulse then (d.switchedOff l).reportPulseEnd l else d.switchedOff l := by
  have hnone : ∀ t, (d.switchedTripped l).quarantine i t .trip = none := fun t => by
    refine Option.map_eq_none_iff.2 ?_
    rcases hr : d.rec? i with _ | r
    · exact transition_none (d := d.switchedTripped l) hr t .trip
    · exact transition_unlisted (d := d.switchedTripped l) hr (h r hr) t
  unfold tripBound
  simp only [← switchedTripped.eq_1, hnone, ← switchedOff.eq_1, switchedTripped_off]

/-- A trip of a bound line whose record is quarantined (R140). -/
theorem tripBound_taken (hr : d.rec? i = some r) (h : Cause.target .trip r.state = some .quarantined) (wasPulse : Bool) :
    d.tripBound l i wasPulse = if wasPulse then ((d.switchedTripped l).quarantineD i r.id .trip).reportPulseEnd l
      else (d.switchedTripped l).quarantineD i r.id .trip := by
  have hr' : (d.switchedTripped l).rec? i = some r := hr
  unfold tripBound
  simp only [← switchedTripped.eq_1, hr', Option.map_some, Option.getD_some, quarantineD, quarantine_taken hr' h]

theorem trip_refused (h : r.state = .pending ∨ r.state = .dormant ∨ r.state = .quarantined) :
    Cause.target .trip r.state = none := by
  rcases h with h | h | h <;> rw [h] <;> rfl

theorem trip_taken (h : r.state = .waking ∨ r.state = .attached ∨ r.state = .fed ∨ r.state = .testing) :
    Cause.target .trip r.state = some .quarantined := by
  rcases h with h | h | h | h <;> rw [h] <;> rfl

/-! ## The command -/

theorem tripPin_still {ns : Nat} (hx : d.line? l = some x) (h : ns < 50000 ∨ x.tripLow = true) : d.tripPin l (.low ns) = d := by
  unfold tripPin
  exact if_pos (by simpa [hx] using h)

/-- An assertion is handled as a trip at once (R139). -/
theorem tripPin_handles {ns : Nat} (hx : d.line? l = some x) (hns : 50000 ≤ ns) (hlow : x.tripLow = false) :
    d.tripPin l (.low ns) = (d.modLine l fun x => { x with tripLow := true }).handle (.trip l) := by
  have hx' : (d.modLine l fun x => { x with tripLow := true }).line? l = some { x with tripLow := true } := by
    rw [line?_modLine_same, hx]
    rfl
  rw [tripPin_asserts hx hns hlow]
  exact (tripDue_asserted hx' rfl).symm

end Device

/-- The TRIP command changes the pin once the due events, or a due trip of its line, have been handled (logs 1, 11). -/
theorem State.exec_tripPin {s : State} {d : Device} {l : Nat}
    (h : (s.settled d ∧ Due.trip l ∉ s.dev.due) ∨ ∃ e, s.dueNow (.trip l) e ∧ d = (e.handle (.trip l)).finish) (pin : TripPin) :
    exec (.trip l pin) s = .next ⟨d.tripPin l pin, s.pending⟩ := by
  have hcmd : s.dev.tripCommand l pin = d.tripPin l pin := by
    unfold tripCommand
    obtain ⟨⟨hrun, rfl⟩, hdue⟩ | ⟨e, ⟨hrun, hdue, rfl⟩, rfl⟩ := h
    · rw [if_pos hrun, if_neg (by simpa using hdue)]
    · have hcontains : s.dev.due.contains (.trip l) = true := by simpa using hdue
      rw [if_pos hrun, if_pos hcontains, takeDue, if_pos hcontains]
  rw [← hcmd]
  rfl

/-- Settles O33: the events by their handlings, a trip by its line's switch, binding and record. -/
theorem lineSwitchEvents : Obligations.LineSwitchEvents := by
  unfold Obligations.LineSwitchEvents
  intro ended reported
  have hended : ∀ d a, d.wake.attempt = some a → d.pulseOver.returnPermit = ended d a := fun d a ha =>
    (congrArg returnPermit (pulseOver_eq ha)).trans (returnPermit_eq _)
  have hreported : reported = reportPulseEnd := by
    funext d l
    rcases ha : d.wake.attempt with _ | a
    · rw [reportPulseEnd_idle ha]
      simp only [reported, ha]
    · have hline := congrArg (fun o => a.pulsing = true ∧ o = some l) (targetLine_eq d a.target)
      rw [reportPulseEnd_eq ha]
      simp only [reported, ha]
      exact (if_congr (iff_of_eq hline) (hended d a ha) rfl).symm
  clear_value reported
  subst hreported
  refine ⟨fun s d l x o hd hx hs => ?_, fun s d l x hd hx hs => ?_, fun d l x hx => ?_, fun s d l ns x hd hx => ?_⟩
  · rw [show exec (.pulseEnd l) s = .next ⟨(d.pulseEnded l).finish, s.pending⟩ from State.named_due hd, pulseEnded_out hx hs]
    rfl
  · rw [show exec (.softstartComplete l) s = .next ⟨(d.softstartDone l).finish, s.pending⟩ from State.named_due hd,
      softstartDone_out hx hs]
  · intro off
    refine ⟨fun h => ?_, fun hlow ho ht => ⟨fun hb => ⟨fun hapart => ?_, fun k a hs ha hat => ?_⟩, fun i hb => ?_⟩⟩
    · change d.tripDue l = d
      cases hlow : x.tripLow with
      | false => exact tripDue_released hx hlow
      | true => exact (tripDue_asserted hx hlow).trans (tripped_out hx (h.resolve_left (by simp [hlow])))
    · exact (tripDue_asserted hx hlow).trans ((tripped_unbound hx hb ho ht).trans (tripUnbound_apart hapart))
    · refine (tripDue_asserted hx hlow).trans ((tripped_unbound hx hb ho ht).trans ?_)
      rw [hs]
      exact tripUnbound_discovery ha hat
    · intro told
      have htold : ∀ e, told e = if x.switch.pulses then e.reportPulseEnd l else e := fun e => by
        dsimp only [told]
        cases x.switch <;> rfl
      have htrip : d.handle (.trip l) = d.tripBound l i x.switch.pulses :=
        (tripDue_asserted hx hlow).trans (tripped_bound hx hb ho ht)
      refine ⟨fun hrefused => ?_, fun r hr htaken => ?_⟩
      · rw [htrip, htold]
        exact tripBound_refused (fun r hr => trip_refused (hrefused r hr)) _
      · rw [htrip, htold]
        exact tripBound_taken hr (trip_taken htaken) _
  · have hpin := State.exec_tripPin hd
    refine ⟨hpin .release, fun h => ?_, fun hns hlow => ?_⟩
    · rw [hpin, tripPin_still hx h]
    · rw [hpin, tripPin_handles hx hns hlow]

end Sys2Proof.Machine
end

section
/-! The wake queue: the order of its entries (R84), and which record an eviction picks (R101). -/

namespace Sys2Proof.Machine

open Device

/-! ## The order of the entries -/

/-- The place of a target among entries that share an arrival order, as a pair in lexicographic order (R84). -/
def WakeTarget.tieKey : WakeTarget → ℕ ×ₗ ℕ
  | .record i _ _ => toLex (0, i)
  | .discovery l => toLex (1, l)

theorem WakeTarget.tieBefore_iff (a b : WakeTarget) : a.tieBefore b = true ↔ a.tieKey < b.tieKey := by
  cases a <;> cases b <;> simp [tieBefore, tieKey, Prod.Lex.toLex_lt_toLex]

/-- The arrival order of an entry as it counts: the highest first among returned entries (R84). -/
def WakeEntry.turn (e : WakeEntry) : ℤ := if e.returned then -e.arrival else e.arrival

namespace Device

variable {d : Device} {e x : WakeEntry}

/-- The place of an entry in the wake queue, in lexicographic order: its band, whether it is not a returned one, its arrival order,
its target (R84). -/
def wakeKey (d : Device) (e : WakeEntry) : ℕ ×ₗ Bool ×ₗ ℤ ×ₗ ℕ ×ₗ ℕ :=
  toLex (d.wakeBand e, toLex (!e.returned, toLex (e.turn, e.target.tieKey)))

theorem wakeBefore_iff (d : Device) (e x : WakeEntry) : d.wakeBefore e x = true ↔ d.wakeKey e < d.wakeKey x := by
  simp only [wakeBefore, wakeKey, Prod.Lex.toLex_lt_toLex, ← WakeTarget.tieBefore_iff, WakeEntry.turn]
  by_cases hb : d.wakeBand e = d.wakeBand x
  · cases he : e.returned <;> cases hx : x.returned <;> by_cases ha : e.arrival = x.arrival <;> simp [hb, ha]
  · simp [hb]

/-- An entry that none comes before: the cases of R84. -/
theorem wakeKey_le_iff (d : Device) (e x : WakeEntry) : d.wakeKey e ≤ d.wakeKey x ↔ d.wakeBand e < d.wakeBand x
    ∨ (d.wakeBand e = d.wakeBand x ∧ ((e.returned = true ∧ x.returned = false)
      ∨ (e.returned = true ∧ x.returned = true ∧ x.arrival < e.arrival)
      ∨ (e.returned = false ∧ x.returned = false ∧ e.arrival < x.arrival)
      ∨ (e.returned = x.returned ∧ e.arrival = x.arrival ∧ e.target.tieKey ≤ x.target.tieKey))) := by
  simp only [wakeKey, Prod.Lex.toLex_le_toLex, WakeEntry.turn]
  cases e.returned <;> cases x.returned <;> simp

/-- One entry met in the search for the head. -/
def wakePick (d : Device) (best : Option WakeEntry) (e : WakeEntry) : Option WakeEntry := match best with
  | some b => if d.wakeBefore e b then some e else some b
  | none => some e

theorem wakeHead_eq (d : Device) : d.wakeHead = d.wake.queue.foldl d.wakePick none := rfl

theorem wakePick_some (d : Device) (b e : WakeEntry) : ∃ c, d.wakePick (some b) e = some c ∧ (c = b ∨ c = e)
    ∧ d.wakeKey c ≤ d.wakeKey b ∧ d.wakeKey c ≤ d.wakeKey e := by
  by_cases h : d.wakeBefore e b = true
  · exact ⟨e, if_pos h, .inr rfl, ((wakeBefore_iff d e b).1 h).le, le_rfl⟩
  · exact ⟨b, if_neg h, .inl rfl, le_rfl, not_lt.1 ((wakeBefore_iff d e b).not.1 h)⟩

/-- The search keeps an entry that none comes before. -/
theorem foldl_wakePick (d : Device) (xs : List WakeEntry) (b : WakeEntry) : ∃ e, xs.foldl d.wakePick (some b) = some e
    ∧ e ∈ b :: xs ∧ ∀ x ∈ b :: xs, d.wakeKey e ≤ d.wakeKey x := by
  induction xs generalizing b with
  | nil => exact ⟨b, rfl, List.mem_singleton.2 rfl, by simp⟩
  | cons x xs ih =>
    obtain ⟨c, hc, hcmem, hcb, hcx⟩ := wakePick_some d b x
    obtain ⟨e, he, hmem, hleast⟩ := ih c
    have hec := hleast c List.mem_cons_self
    refine ⟨e, by rw [List.foldl_cons, hc, he], ?_, ?_⟩
    · simp only [List.mem_cons] at hmem ⊢
      rcases hmem with rfl | hmem
      · exact hcmem.imp id .inl
      · exact .inr (.inr hmem)
    · simp only [List.forall_mem_cons] at hleast ⊢
      exact ⟨hec.trans hcb, hec.trans hcx, hleast.2⟩

theorem wakeHead_some (h : d.wake.queue ≠ []) : ∃ e, d.wakeHead = some e ∧ e ∈ d.wake.queue
    ∧ ∀ x ∈ d.wake.queue, d.wakeKey e ≤ d.wakeKey x := by
  obtain ⟨b, xs, hxs⟩ := List.exists_cons_of_ne_nil h
  rw [wakeHead_eq, hxs]
  exact foldl_wakePick d xs b

theorem wakeHead_none (h : d.wake.queue = []) : d.wakeHead = none := by
  rw [wakeHead_eq, h]
  rfl

/-! ## The record that an eviction picks -/

/-- The record at an index may be evicted for a head of a rank (R101). -/
def mayEvict (d : Device) (rank j : Nat) (r : Record) : Prop :=
  d.rec? j = some r ∧ d.idleEligible j = true ∧ rank ≤ r.cls.rank

/-- One index met in the search for the record to evict. -/
def evictPick (d : Device) (rank : Nat) (best : Option (Nat × Record)) (i : Nat) : Option (Nat × Record) := match d.rec? i with
  | some r => if d.evictable rank i then match best with
      | some (_, b) => if b.idle < r.idle then some (i, r) else best
      | none => some (i, r)
    else best
  | none => best

theorem evictee_eq (d : Device) (rank : Nat) : d.evictee rank = (List.range 80).foldl (d.evictPick rank) none := rfl

variable {rank i n : Nat} {r : Record}

theorem evictable_iff : d.evictable rank i = true ↔ ∃ r, d.mayEvict rank i r := by
  unfold evictable mayEvict
  cases d.rec? i <;> simp

theorem evictPick_passes (h : ∀ r, ¬ d.mayEvict rank i r) (best : Option (Nat × Record)) : d.evictPick rank best i = best := by
  have hnot : ¬ d.evictable rank i = true := fun he => (evictable_iff.1 he).elim h
  unfold evictPick
  split
  · exact if_neg hnot
  · rfl

theorem evictPick_first (h : d.mayEvict rank i r) : d.evictPick rank none i = some (i, r) := by
  simp only [evictPick, h.1, if_pos (evictable_iff.2 ⟨r, h⟩)]

theorem evictPick_next (h : d.mayEvict rank i r) (j : Nat) (b : Record) :
    d.evictPick rank (some (j, b)) i = if b.idle < r.idle then some (i, r) else some (j, b) := by
  simp only [evictPick, h.1, if_pos (evictable_iff.2 ⟨r, h⟩)]

/-- What the search holds once it has met the indexes below `n`: the evictable record with the most idle frames, the lowest index
among equals; nothing where there is none. -/
def Picked (d : Device) (rank n : Nat) : Option (Nat × Record) → Prop
  | none => ∀ j < n, ∀ q, ¬ d.mayEvict rank j q
  | some (i, r) => i < n ∧ d.mayEvict rank i r
    ∧ ∀ j < n, ∀ q, d.mayEvict rank j q → q.idle < r.idle ∨ (q.idle = r.idle ∧ i ≤ j)

theorem picked_evictPick {best : Option (Nat × Record)} (h : Picked d rank n best) :
    Picked d rank (n + 1) (d.evictPick rank best n) := by
  by_cases hn : ∃ r, d.mayEvict rank n r
  · obtain ⟨r, hr⟩ := hn
    have hsame : ∀ q, d.mayEvict rank n q → q = r := fun q hq => Option.some_inj.1 (hq.1.symm.trans hr.1)
    have hself : ∀ q, d.mayEvict rank n q → q.idle < r.idle ∨ (q.idle = r.idle ∧ n ≤ n) := fun q hq =>
      .inr ⟨congrArg Record.idle (hsame q hq), le_rfl⟩
    rcases best with _ | ⟨i, b⟩
    · rw [evictPick_first hr]
      exact ⟨n.lt_succ_self, hr, Nat.forall_lt_succ_right.2 ⟨fun j hj q hq => absurd hq (h j hj q), hself⟩⟩
    · obtain ⟨hi, hb, hbest⟩ := h
      rw [evictPick_next hr]
      split
      · rename_i hlt
        refine ⟨n.lt_succ_self, hr, Nat.forall_lt_succ_right.2 ⟨fun j hj q hq => ?_, hself⟩⟩
        have := hbest j hj q hq
        omega
      · rename_i hge
        refine ⟨hi.trans n.lt_succ_self, hb, Nat.forall_lt_succ_right.2 ⟨hbest, fun q hq => ?_⟩⟩
        rw [hsame q hq]
        omega
  · have hnone : ∀ r, ¬ d.mayEvict rank n r := fun r hr => hn ⟨r, hr⟩
    rw [evictPick_passes hnone]
    rcases best with _ | ⟨i, b⟩
    · exact Nat.forall_lt_succ_right.2 ⟨h, hnone⟩
    · obtain ⟨hi, hb, hbest⟩ := h
      exact ⟨hi.trans n.lt_succ_self, hb, Nat.forall_lt_succ_right.2 ⟨hbest, fun q hq => absurd hq (hnone q)⟩⟩

theorem picked_range (d : Device) (rank n : Nat) : Picked d rank n ((List.range n).foldl (d.evictPick rank) none) := by
  induction n with
  | zero => exact fun _ h => absurd h (Nat.not_lt_zero _)
  | succ n ih =>
    rw [List.range_succ, List.foldl_append]
    exact picked_evictPick ih

theorem picked_evictee (d : Device) (rank : Nat) : Picked d rank 80 (d.evictee rank) := picked_range d rank 80

theorem evictee_absent (h : ∀ j < 80, ∀ q, ¬ d.mayEvict rank j q) : d.evictee rank = none := by
  have hpicked := picked_evictee d rank
  rcases hev : d.evictee rank with _ | ⟨i, r⟩
  · rfl
  · rw [hev] at hpicked
    obtain ⟨hi, hr, -⟩ := hpicked
    exact absurd hr (h i hi r)

theorem evictee_best (hi : i < 80) (hr : d.mayEvict rank i r)
    (hbest : ∀ j < 80, ∀ q, d.mayEvict rank j q → q.idle < r.idle ∨ (q.idle = r.idle ∧ i ≤ j)) :
    d.evictee rank = some (i, r) := by
  have hpicked := picked_evictee d rank
  rcases hev : d.evictee rank with _ | ⟨j, q⟩
  · rw [hev] at hpicked
    exact absurd hr (hpicked i hi r)
  · rw [hev] at hpicked
    obtain ⟨hj, hq, hleast⟩ := hpicked
    have hji := hbest j hj q hq
    have hij := hleast i hi r hr
    obtain rfl : i = j := by omega
    rw [Option.some_inj.1 (hq.1.symm.trans hr.1)]

/-! ## The judgement of eviction -/

theorem anyReleasing_iff : d.anyReleasing = true ↔ ∃ x ∈ d.riser.slots, x.use = .releasing := by
  simp [anyReleasing]

theorem judgeEviction_held (h : d.wake.eviction.isSome = true ∨ ∃ x ∈ d.riser.slots, x.use = .releasing) (rank : Nat) :
    d.judgeEviction rank = d := by
  unfold judgeEviction
  exact if_pos (by rwa [Bool.or_eq_true, anyReleasing_iff])

theorem judgeEviction_open (h : ¬(d.wake.eviction.isSome = true ∨ ∃ x ∈ d.riser.slots, x.use = .releasing)) :
    (d.evictee rank = none → d.judgeEviction rank = d)
    ∧ ∀ i r, d.evictee rank = some (i, r) → d.judgeEviction rank = (d.post i r.id .rest).setEviction (some (i, r.id)) := by
  have hopen : ¬(d.wake.eviction.isSome || d.anyReleasing) = true := by rwa [Bool.or_eq_true, anyReleasing_iff]
  unfold judgeEviction
  rw [if_neg hopen]
  exact ⟨fun hnone => by rw [hnone], fun i r hsome => by rw [hsome]⟩

end Device

end Sys2Proof.Machine
end

section
/-! The examination of the head of the wake queue (R85 to R88, R101, R102): when a record or a discovery starts. -/

namespace Sys2Proof.Machine

open Device

namespace Device

variable {d : Device} {e : WakeEntry} {i l n : Nat} {t : TermId} {p : Purpose} {r : Record} {v : HeadView} {x : Line}

/-- The method of a record's attempt (R87). -/
theorem callMethod_auto (h : r.method = .auto) : d.callMethod r =
    if r.capabilities.any Capabilities.markWake = true ∧ r.failedWakes + 1 < d.settings.wakeAttempts then .mark else .pulse := by
  unfold callMethod
  rw [h]
  cases r.capabilities with
  | none => simp
  | some c => simp

theorem permitOk_iff : d.permitOk = true ↔
    d.lease.permit = none ∧ d.settings.pulseAllowance ≤ d.mode.ceiling - d.lease.committed := by
  unfold permitOk
  rw [Bool.and_eq_true, decide_eq_true_eq, Option.isNone_iff_eq_none]
  rfl

theorem not_permitOk (h : d.lease.permit.isSome = true ∨ d.mode.ceiling - d.lease.committed < d.settings.pulseAllowance) :
    ¬ d.permitOk = true := by
  rw [permitOk_iff]
  rintro ⟨hnone, hfits⟩
  rcases h with h | h
  · rw [hnone] at h
    cases h
  · exact absurd hfits (Nat.not_le.2 h)

/-! ## The view of a head -/

theorem headView_record (ht : e.target = .record i t p) (hr : d.rec? i = some r) (hid : r.id = t) :
    d.headView e = some ⟨r.cls.rank, d.callMethod r, r.line, d.mode.mode.inOutage⟩ := by
  simp only [headView, ht, hr, if_pos hid]

theorem headView_discovery (ht : e.target = .discovery l) : d.headView e = some ⟨1, .pulse, some l, true⟩ := by
  simp only [headView, ht]

/-! ## One examination, by the view of the head -/

section Head

variable (ha : d.wake.attempt = none) (hh : d.wakeHead = some e) (hv : d.headView e = some v)
include ha hh hv

/-- A head whose mode or level condition fails changes nothing (R86). -/
theorem examineWake_barred (h : v.modeOk = false ∨ (v.method = .pulse ∧ d.mode.level = .exhausted)) : d.examineWake = d := by
  unfold examineWake examineLoop
  simp only [ha, hh, hv, Option.isSome_none, Bool.false_eq_true, if_false]
  split
  · rfl
  · rename_i hmode
    exact if_pos (h.resolve_left (by simpa using hmode))

/-- A head held back by the slot condition alone (R86, R101). -/
theorem examineWake_slotless (hm : v.modeOk = true) (hl : v.method = .pulse → d.mode.level ≠ .exhausted)
    (hs : d.lowestFree = none) : d.examineWake = d.judgeEviction v.rank := by
  have hlevel : ¬(v.method = .pulse ∧ d.mode.level = .exhausted) := fun h => hl h.1 h.2
  unfold examineWake examineLoop
  simp only [ha, hh, hv, hm, hs, Option.isSome_none, Bool.not_true, Bool.false_eq_true, if_false, if_neg hlevel]

/-- A PULSE head whose permit cannot be granted changes nothing (R86, R126). -/
theorem examineWake_unpermitted (hp : v.method = .pulse) (hs : d.lowestFree = some n) (hk : ¬ d.permitOk = true) :
    d.examineWake = d := by
  unfold examineWake examineLoop
  simp only [ha, hh, hv, hs, Option.isSome_none, Bool.false_eq_true, if_false]
  split
  · rfl
  · split
    · rfl
    · exact if_pos ⟨hp, by simpa using hk⟩

/-- A head that meets every condition starts (R86, R88). -/
theorem examineWake_starts {f : Device} (hm : v.modeOk = true)
    (hp : v.method = .pulse → d.mode.level ≠ .exhausted ∧ d.permitOk = true) (hs : d.lowestFree = some n)
    (hf : d.startTransition e n = some f) : d.examineWake = f.startAttempt e v n := by
  have hlevel : ¬(v.method = .pulse ∧ d.mode.level = .exhausted) := fun h => (hp h.1).1 h.2
  have hpermit : ¬(v.method = .pulse ∧ (!d.permitOk) = true) := fun h => by simp [(hp h.1).2] at h
  unfold examineWake examineLoop
  simp only [ha, hh, hv, hm, hs, hf, Option.isSome_none, Bool.not_true, Bool.false_eq_true, if_false, if_neg hlevel,
    if_neg hpermit]

end Head

/-! ## The start -/

/-- A PULSE order to a line that is OFF; where its TRIP_N is asserted the trip is due at once (R135, R137). -/
theorem orderPulse_off (hx : d.line? l = some x) (hs : x.switch = .off) (o : Claimant) : d.orderPulse l o = { d with
    lines := d.lines.modify l fun x => { x with switch := .pulse d.settings.pulseLength o }
    due := if x.tripLow = true then d.due.takeWhile Due.urgent ++ .trip l :: d.due.dropWhile Due.urgent else d.due } := by
  have hx' : (d.modLine l fun x => { x with switch := .pulse d.settings.pulseLength o }).line? l
      = some { x with switch := .pulse d.settings.pulseLength o } := by
    rw [line?_modLine_same, hx]
    rfl
  unfold orderPulse
  simp only [hx, if_pos hs, tripIfAsserted, hx']
  cases x.tripLow <;> rfl

/-- The device with the slot of a start reserved. -/
def claimed (d : Device) (e : WakeEntry) (n : Nat) : Device := d.modSlot n fun x => { x with use := .reserved e.target.claimant }

theorem startAttempt_mark (hm : v.method = .mark) : d.startAttempt e v n = { d.claimed e n with
    wake := { (d.claimed e n).wake with
      queue := (d.claimed e n).wake.queue.filter fun y => y.target != e.target
      attempt := some ⟨e.target, .mark, n, d.settings.attachWindow, false, false⟩ } } := by
  have hsettings : (d.reserveSlot n e.target.claimant).settings = d.settings := modSlot_settings d n _
  unfold startAttempt
  simp only [hm, reduceCtorEq, if_false, dropEntry_settings, hsettings]
  rfl

theorem startAttempt_pulse (hm : v.method = .pulse) (hl : v.line = some l) (hx : d.line? l = some x) (hs : x.switch = .off) :
    d.startAttempt e v n = { d.claimed e n with
      wake := { (d.claimed e n).wake with
        queue := (d.claimed e n).wake.queue.filter fun y => y.target != e.target
        attempt := some ⟨e.target, .pulse, n, d.settings.attachWindow, true, true⟩ }
      lines := (d.claimed e n).lines.modify l fun x => { x with switch := .pulse d.settings.pulseLength e.target.claimant }
      due := if x.tripLow = true then d.due.takeWhile Due.urgent ++ .trip l :: d.due.dropWhile Due.urgent else d.due
      lease := { (d.claimed e n).lease with
        permit := some d.settings.pulseAllowance
        committed := (d.claimed e n).lease.committed + d.settings.pulseAllowance } } := by
  have hline : ∀ a, (((d.grantPermit.reserveSlot n e.target.claimant).dropEntry e).setAttempt a).line? l = some x := fun _ =>
    (line?_congr (modSlot_lines d.grantPermit n _) l).trans hx
  unfold startAttempt
  simp only [hm, hl, if_true]
  refine (orderPulse_off (hline _) hs _).trans ?_
  unfold claimed reserveSlot modSlot
  split <;> rfl

/-- The device with the record WAKING with the reserved slot (R88). -/
def woken (d : Device) (i n : Nat) : Device := d.modRec i fun r => { r with state := .waking, idle := 0, slot := some n }

theorem startTransition_dormant (ht : e.target = .record i t p) (hr : d.rec? i = some r) (hid : r.id = t)
    (hs : r.state = .dormant) (n : Nat) : d.startTransition e n = some (d.woken i n) := by
  simp only [startTransition, ht]
  rw [transition_taken hr hid (st := .waking) (by rw [hs]; rfl), Option.map_some, modRec_modRec]
  rfl

theorem startTransition_discovery (ht : e.target = .discovery l) (n : Nat) : d.startTransition e n = some d := by
  simp only [startTransition, ht]

end Device

/-- Settles O32: an examination goes by the view of the head; the head is the least entry by `wakeKey`, and the record evicted is
the one that `Picked` describes. -/
theorem wakeQueueHead : Obligations.WakeQueueHead := by
  unfold Obligations.WakeQueueHead
  refine ⟨fun d h => h.elim examineWake_busy examineWake_none, ?_, ?_, ?_, fun d i t => ⟨fun h => if_neg h, fun h => if_pos h⟩,
    fun d => ?_, fun d r => ?_⟩
  · intro d e i n t p r ha hh ht hr hid urgent
    have hv := headView_record ht hr hid
    have hclaimant : e.target.claimant = .record i t := by rw [ht]; rfl
    have hurgent : urgent = Due.urgent := by funext x; cases x <;> rfl
    clear_value urgent
    subst hurgent
    refine ⟨fun hm => examineWake_barred ha hh hv (.inl hm), fun hp hl => examineWake_barred ha hh hv (.inr ⟨hp, hl⟩),
      fun hp hk hs => examineWake_unpermitted ha hh hv hp hs (not_permitOk hk), fun hs hm hn => ?_⟩
    · have hstart := startTransition_dormant ht hr hid hs n
      intro w started
      have hw : (d.woken i n).claimed e n = w := by
        unfold claimed
        rw [hclaimant]
        rfl
      refine ⟨fun hmark => ?_, fun l x hp hl hnone hfits hline hx hoff => ?_⟩
      · rw [examineWake_starts ha hh hv hm (fun hp => by simp [hmark] at hp) hn hstart, startAttempt_mark hmark, hw]
        rfl
      · rw [examineWake_starts ha hh hv hm (fun _ => ⟨hl, permitOk_iff.2 ⟨hnone, hfits⟩⟩) hn hstart,
          startAttempt_pulse (d := d.woken i n) hp hline hx hoff, hw, hclaimant]
        rfl
  · intro d e l n ha hh ht urgent
    have hv := headView_discovery (d := d) ht
    have hurgent : urgent = Due.urgent := by funext x; cases x <;> rfl
    clear_value urgent
    subst hurgent
    refine ⟨fun hl => examineWake_barred ha hh hv (.inr ⟨rfl, hl⟩),
      fun hn hk => examineWake_unpermitted ha hh hv rfl hn (not_permitOk hk), ?_⟩
    · intro x hl hn hnone hfits hx hoff w
      have hw : d.claimed e n = w := by
        unfold claimed
        rw [ht]
        rfl
      rw [examineWake_starts ha hh hv rfl (fun _ => ⟨hl, permitOk_iff.2 ⟨hnone, hfits⟩⟩) hn (startTransition_discovery ht n),
        startAttempt_pulse rfl rfl hx hoff, hw, ht]
      rfl
  · intro d e rank ha hh hn hcond cand
    have hjudged : d.examineWake = d.judgeEviction rank := by
      cases ht : e.target with
      | record i t p =>
        rw [ht] at hcond
        obtain ⟨r, hr, hid, hm, rfl, hl⟩ := hcond
        exact (examineWake_slotless ha hh (headView_record ht hr hid) hm hl hn :)
      | discovery l =>
        rw [ht] at hcond
        obtain ⟨hl, rfl⟩ := hcond
        exact (examineWake_slotless ha hh (headView_discovery ht) rfl (fun _ => hl) hn :)
    rw [hjudged]
    refine ⟨fun h => judgeEviction_held h rank, fun hfree hrel => ?_⟩
    obtain ⟨hnobody, hpicks⟩ := judgeEviction_open (d := d) (rank := rank) fun h => h.elim (by simp [hfree]) fun ⟨x, hx, hu⟩ =>
      hrel x hx hu
    refine ⟨fun h => hnobody (evictee_absent fun j hj q hq => h j q ⟨hj, hq⟩), fun j r ⟨hj, hr⟩ hbest => ?_⟩
    exact hpicks j r (evictee_best hj hr fun k hk q hq => hbest k q ⟨hk, hq⟩)
  · intro band tied
    have hband : ∀ x, d.wakeBand x = band x := fun x => by
      cases ht : x.target with
      | discovery l => simp only [band, wakeBand, ht]
      | record i t p =>
        rcases hr : d.rec? i with _ | r
        · simp only [band, wakeBand, ht, hr, Option.map_none]
        · simp only [band, wakeBand, ht, hr, Option.map_some]
          cases r.cls <;> rfl
    refine ⟨wakeHead_none, fun h => ?_⟩
    obtain ⟨e, he, hmem, hleast⟩ := wakeHead_some h
    refine ⟨e, he, hmem, fun x hx => ?_⟩
    have hle := (wakeKey_le_iff d e x).1 (hleast x hx)
    rw [hband, hband] at hle
    have htied : e.target.tieKey ≤ x.target.tieKey → tied e x := fun hk => by
      dsimp only [tied]
      revert hk
      cases e.target <;> cases x.target <;> simp [WakeTarget.tieKey, Prod.Lex.toLex_le_toLex]
    exact hle.imp id fun ⟨hb, hrest⟩ => ⟨hb, hrest.imp id (.imp id (.imp id fun ⟨hr, ha, hk⟩ => ⟨hr, ha, htied hk⟩))⟩
  · cases hm : r.method with
    | mark => simp only [callMethod, hm]
    | pulse => simp only [callMethod, hm]
    | auto => exact callMethod_auto hm

end Sys2Proof.Machine
end

section
/-! WAKE, TEST and DISCOVER (R83, R155, R180), and the examination of the agenda (R156 to R159). -/

namespace Sys2Proof.Machine

open Device

namespace Device

variable {d : Device} {x : AgendaEntry} {r : Record} {c l : Nat}

/-! ## Which records may be tested (R157, R158) -/

/-- The mode, the battery report and the level allow a test of the record (conditions 1, 3 and 4 of R157). -/
def fit (d : Device) (r : Record) : Prop :=
  d.mode.mode = .outage ∧ (∀ b, r.report = some b → d.settings.testFloor ≤ b.voltage)
    ∧ (d.mode.level = .normal ∨ (d.mode.level = .low ∧ r.cls ≠ .lifeline))

theorem fit_iff : d.fit r ↔ d.mode.mode = .outage ∧ d.testable r = true := by
  unfold fit testable
  rw [Bool.and_eq_true]
  refine and_congr_right fun _ => and_congr ?_ ?_
  · cases r.report <;> simp
  · cases d.mode.level <;> simp

/-- The record lets its entry's test start (R157). -/
def startsTest (d : Device) (x : AgendaEntry) (r : Record) : Prop :=
  r.id = x.id ∧ d.fit r ∧ (r.state = .fed ∨ (r.state = .attached ∧ d.claimOf x.index = none))

theorem eligible_iff : d.eligible x = true ↔ ∃ r, d.rec? x.index = some r ∧ d.startsTest x r := by
  unfold eligible startsTest
  rcases d.rec? x.index with _ | r
  · simp
  · simp only [fit_iff, hasClaim, Bool.and_eq_true, Bool.or_eq_true, Bool.not_eq_true', beq_iff_eq, Option.isSome_eq_false_iff,
      Option.isNone_iff_eq_none, Option.some_inj, exists_eq_left']
    tauto

/-- The record of the entry may be woken for its test (R158). -/
def wakeable (d : Device) (x : AgendaEntry) : Prop :=
  ∃ r, d.rec? x.index = some r ∧ r.id = x.id ∧ r.state = .dormant ∧ d.fit r

/-- The test of an entry in the search for the one to wake (R158). -/
def mayWake (d : Device) (x : AgendaEntry) : Bool := match d.rec? x.index with
  | some r => r.id == x.id && r.state == .dormant && d.mode.mode == .outage && d.testable r
  | none => false

theorem wakeCandidate_eq (d : Device) : d.wakeCandidate = d.test.agenda.find? d.mayWake := rfl

theorem mayWake_iff : d.mayWake x = true ↔ d.wakeable x := by
  unfold mayWake wakeable
  rcases d.rec? x.index with _ | r
  · simp
  · simp only [fit_iff, Bool.and_eq_true, beq_iff_eq, Option.some_inj, exists_eq_left', and_assoc]

theorem wakeCandidate_none (h : ∀ y ∈ d.test.agenda, ¬ d.wakeable y) : d.wakeCandidate = none := by
  rw [wakeCandidate_eq, List.find?_eq_none]
  exact fun y hy => mayWake_iff.not.2 (h y hy)

theorem wakeCandidate_first {xs ys : List AgendaEntry} (hsplit : d.test.agenda = xs ++ x :: ys) (hxs : ∀ y ∈ xs, ¬ d.wakeable y)
    (hx : d.wakeable x) : d.wakeCandidate = some x := by
  rw [wakeCandidate_eq, List.find?_eq_some_iff_append]
  exact ⟨mayWake_iff.2 hx, xs, ys, hsplit, fun y hy => by simpa using mayWake_iff.not.2 (hxs y hy)⟩

/-! ## Channels -/

theorem freeChannel_none_iff : d.freeChannel = none ↔ ∀ o ∈ d.test.channels, o.isSome = true := by
  unfold freeChannel
  rw [List.findIdx?_eq_none_iff]
  exact forall₂_congr fun o _ => by cases o <;> simp

theorem freeChannel_lowest (hc : d.test.channels[c]? = some none) (hlow : ∀ j, j < c → (d.test? j).isSome = true) :
    d.freeChannel = some c := by
  refine findIdx?_some_iff.2 ⟨⟨none, hc, rfl⟩, fun j o hj ho => ?_⟩
  obtain ⟨y, hy⟩ := Option.isSome_iff_exists.1 (hlow j hj)
  obtain rfl := Option.some_inj.1 (ho.symm.trans (test?_eq.1 hy))
  rfl

/-! ## The walk of R157 -/

theorem walkEntry_stays (h : (∀ r, d.rec? x.index = some r → ¬ d.startsTest x r) ∨ ∀ o ∈ d.test.channels, o.isSome = true) :
    d.walkEntry x = d := by
  unfold walkEntry
  split
  · rename_i helig
    rcases h with h | h
    · obtain ⟨r, hr, hstarts⟩ := eligible_iff.1 helig
      exact absurd hstarts (h r hr)
    · rw [freeChannel_none_iff.2 h]
  · rfl

theorem walkEntry_starts (hr : d.rec? x.index = some r) (hx : d.startsTest x r) (hc : d.freeChannel = some c) :
    d.walkEntry x = d.startTest x c := by
  unfold walkEntry
  rw [if_pos (eligible_iff.2 ⟨r, hr, hx⟩), hc]

/-- The start of a test (R159): the record TESTING, the channel taken, the entry gone, TEST_BEGIN posted. -/
theorem startTest_eq (hr : d.rec? x.index = some r) (hid : r.id = x.id) (hs : r.state = .fed ∨ r.state = .attached) (c : Nat) :
    d.startTest x c = ({ d.modRec x.index (fun r => { r with state := .testing, idle := 0 }) with
      test := { d.test with
        agenda := d.test.agenda.filter fun y => y.index != x.index
        channels := d.test.channels.set c (some ⟨x.index, x.id, .beginning, d.settings.testWindow, r.state == .fed, none, none⟩)
        inHand := if d.test.inHand.map Prod.fst = some x.index then none else d.test.inHand } } : Device).post x.index x.id
          (.testBegin d.settings.testWindow) := by
  have htarget : Cause.target .testStarted r.state = some .testing := by
    rcases hs with hs | hs <;> rw [hs] <;> rfl
  unfold startTest removeAgenda
  simp only [transition_taken hr hid htarget, clearInHand_eq, inState_eq hr]
  rfl

/-! ## The test wake (R158) -/

theorem testWake_none (h : (∀ o ∈ d.test.channels, o.isSome = true) ∨ d.test.inHand.isSome = true
    ∨ ∀ y ∈ d.test.agenda, ¬ d.wakeable y) : d.testWake = d := by
  unfold testWake
  split
  · rename_i hopen
    obtain ⟨hfree, hhand⟩ := Bool.and_eq_true_iff.1 hopen
    rcases h with h | h | h
    · rw [freeChannel_none_iff.2 h] at hfree
      cases hfree
    · rw [Option.isNone_iff_eq_none.1 hhand] at h
      cases h
    · rw [wakeCandidate_none h]
  · rfl

theorem judgeEntry_dormant {i : Nat} (hr : d.rec? i = some r) (hs : r.state = .dormant) (hm : d.mode.mode.inOutage = true) :
    d.judgeEntry i r.id ≠ .refused := by
  have hasked : ¬(!(d.names i r.id) || !(d.inState i .dormant) || !d.mode.mode.inOutage) = true := by
    simp [names_eq hr, inState_eq hr, hs, hm]
  unfold judgeEntry
  rw [if_neg hasked]
  split <;> exact nofun

/-- The first entry whose record may be woken is taken in hand, and a TEST entry asked for. -/
theorem testWake_asks (hc : ∃ o ∈ d.test.channels, o = none) (hhand : d.test.inHand = none) (hx : d.wakeCandidate = some x)
    (hr : d.rec? x.index = some r) (hid : r.id = x.id) (hs : r.state = .dormant) (hfit : d.fit r) :
    d.testWake = if d.wakeEntryOf x.index = none then
      headCheck (d.setInHand x.index x.id) ((d.setInHand x.index x.id).joinWake (.record x.index x.id .test) false)
    else d.setInHand x.index x.id := by
  have hfree : d.freeChannel.isSome = true := by
    rw [Option.isSome_iff_ne_none, Ne, freeChannel_none_iff]
    obtain ⟨o, ho, rfl⟩ := hc
    exact fun h => absurd (h none ho) (by simp)
  have hm : d.mode.mode.inOutage = true := by rw [hfit.1]; rfl
  have hopen : (d.freeChannel.isSome && d.test.inHand.isNone) = true := by rw [hfree, hhand]; rfl
  unfold testWake
  simp only [if_pos hopen, hx, ← hid, if_neg (judgeEntry_dormant hr hs hm)]
  exact (requestEntry_eq (d := d.setInHand x.index r.id) hr .test).trans
    (if_congr ((and_iff_right hs).trans (and_iff_right hm)) rfl rfl)

/-! ## The orders -/

theorem discovering_iff : d.discovering l = true ↔ ∃ a, d.wake.attempt = some a ∧ a.target = .discovery l := by
  unfold discovering
  rcases d.wake.attempt with _ | a
  · simp
  · cases h : a.target <;> simp [h]

/-- A discovery of the line is queued or in progress (R83). -/
def discoveryStands (d : Device) (l : Nat) : Prop :=
  (∃ e ∈ d.wake.queue, e.target = .discovery l) ∨ ∃ a, d.wake.attempt = some a ∧ a.target = .discovery l

/-- DISCOVER of a line is judged by R83 in this order. -/
theorem carryDiscover_eq {b : Byte} {y : Line} (hb : b.toNat ≤ 63) (hy : d.line? b.toNat = some y) : carryDiscover [b] d =
    if y.binding.isSome = true then (d, .lineTaken, [])
    else if d.wake.queue.any (fun e => e.isLine b.toNat) || d.discovering b.toNat then (d, .already, [])
    else if 4 ≤ (d.wake.queue.filter WakeEntry.isDiscovery).length then (d, .queueFull, [])
    else (headCheck d (d.joinWake (.discovery b.toNat) false), .ok, []) := by
  have hlayout : ¬([b].length ≠ 1 ∨ 63 < byteAt [b] 0) := fun h => h.elim (fun h => h rfl) (Nat.not_lt.2 hb)
  have hbinding : (d.line? (byteAt [b] 0)).bind Line.binding = y.binding := congrArg (fun o => o.bind Line.binding) hy
  unfold carryDiscover
  simp only [if_neg hlayout, hbinding]
  rfl

theorem discoveryStands_iff :
    (d.wake.queue.any (fun e => e.isLine l) || d.discovering l) = true ↔ d.discoveryStands l := by
  unfold discoveryStands
  rw [Bool.or_eq_true, List.any_eq_true, discovering_iff]
  simp only [isLine_iff]

end Device

/-- Settles O58: WAKE, TEST and DISCOVER by what their keys and lines name, the agenda entry by entry. -/
theorem hostOrders : Obligations.HostOrders := by
  unfold Obligations.HostOrders
  refine ⟨?_, ?_, fun d => ?_, ?_⟩
  · intro s d p k i r hs hm hk hr w
    have hcarry : carryWake p w = if r.state ≠ .dormant then (w, .wrongState, [])
        else if (w.wakeEntryOf i).isSome then (w, .already, []) else (w.requestEntry i r.id .host, .ok, []) :=
      inOutageMode_found (d := w) hm hk ((working_keyed d 0x20 p k).trans hr) _
    have hrec : w.rec? i = some r := rec?_of_keyed hr
    refine ⟨fun hstate => ?_, fun hstate hentry => ?_, fun hstate hentry => ?_⟩
    · exact State.request_takes hs (hcarry.trans (if_pos hstate))
    · exact State.request_takes hs (hcarry.trans ((if_neg (not_not.2 hstate)).trans (if_pos hentry)))
    · have hnone : w.wakeEntryOf i = none := hentry
      have hmode : w.mode.mode.inOutage = true := by rw [show w.mode.mode = .outage from hm]; rfl
      rw [if_neg (not_not.2 hstate), if_neg (by simp [hnone]), requestEntry_eq hrec, if_pos ⟨hstate, hmode, hnone⟩] at hcarry
      exact State.request_takes hs hcarry
  · intro s d p k i r hs hm hk hr w barred
    have hcarry : carryTest p w = if barred then (w, .wrongState, [])
        else if w.inAgenda i then (w, .already, []) else ((w.joinAgenda i r.id .host).examineAgenda, .ok, []) :=
      inOutageMode_found (d := w) hm hk ((working_keyed d 0x21 p k).trans hr) _
    refine ⟨fun hbarred => ?_, fun hfree hentry => ?_, fun hfree hentry => ?_⟩
    · exact State.request_takes hs (hcarry.trans (if_pos hbarred))
    · exact State.request_takes hs (hcarry.trans ((if_neg hfree).trans (if_pos hentry)))
    · have hout : ¬ w.inAgenda i = true := Bool.eq_false_iff.1 hentry
      exact State.request_takes hs (hcarry.trans ((if_neg hfree).trans (if_neg hout)))
  · intro fit inHand wakeable
    refine ⟨examineAgenda_none, fun h => if_neg (by simpa using h), fun x => ⟨walkEntry_stays, ?_⟩,
      testWake_none, ?_⟩
    · intro r c hr hx hc hlow
      have hstate : r.state = .fed ∨ r.state = .attached := hx.2.2.imp id And.left
      rw [walkEntry_starts hr hx (freeChannel_lowest hc hlow), startTest_eq hr hx.1 hstate]
    · intro xs x ys hsplit hxs hx hc hhand e
      have hcand := wakeCandidate_first hsplit hxs hx
      obtain ⟨r, hr, hid, hs, hfit⟩ := hx
      have hasks := testWake_asks hc hhand hcand hr hid hs hfit
      refine ⟨fun hentry => ?_, fun hentry => ?_⟩
      · rw [if_neg (Option.isSome_iff_ne_none.1 hentry)] at hasks
        exact hasks
      · rw [if_pos hentry] at hasks
        exact hasks
  · intro s d b y hs hb hy w standing
    have hcarry := carryDiscover_eq (d := w) hb hy
    have hstands : (w.wake.queue.any (fun e => e.isLine b.toNat) || w.discovering b.toNat) = true ↔ standing :=
      discoveryStands_iff
    have hunbound : y.binding = none → ¬ y.binding.isSome = true := fun h => by simp [h]
    refine ⟨fun hbound => ?_, fun hfree hstanding => ?_, fun hfree hnew hfull => ?_, fun hfree hnew hroom => ?_⟩
    · exact State.request_takes hs (hcarry.trans (if_pos hbound))
    · exact State.request_takes hs (hcarry.trans ((if_neg (hunbound hfree)).trans (if_pos (hstands.2 hstanding))))
    · exact State.request_takes hs (hcarry.trans ((if_neg (hunbound hfree)).trans
        ((if_neg (hstands.not.2 hnew)).trans (if_pos hfull))))
    · exact State.request_takes hs (hcarry.trans ((if_neg (hunbound hfree)).trans
        ((if_neg (hstands.not.2 hnew)).trans (if_neg (Nat.not_le.2 hroom)))))

end Sys2Proof.Machine
end

section
/-! Leases: the SOFTSTART order and grants (R112, R135), the end of a lease (R124), expiries (R119, R122) and the overdraw notice
(R129). -/

namespace Sys2Proof.Machine

open Device

namespace Device

variable {d : Device} {i l k m : Nat} {t : TermId} {r : Record} {x : Line} {y : Lease}

/-! ## The SOFTSTART order -/

theorem orderSoftstart_refused (hx : d.line? l = some x) (hs : x.switch ≠ .off) : d.orderSoftstart l = d := by
  unfold orderSoftstart
  rw [hx]
  exact if_neg hs

/-- A SOFTSTART order to a line that is OFF; where its TRIP_N is asserted the trip is due at once (R135, R136). -/
theorem orderSoftstart_off (hx : d.line? l = some x) (hs : x.switch = .off) : d.orderSoftstart l = { d with
    lines := d.lines.modify l fun x => { x with switch := .softstart 2 }
    due := if x.tripLow = true then d.due.takeWhile Due.urgent ++ .trip l :: d.due.dropWhile Due.urgent else d.due } := by
  have hx' : (d.modLine l fun x => { x with switch := .softstart 2 }).line? l = some { x with switch := .softstart 2 } := by
    rw [line?_modLine_same, hx]
    rfl
  unfold orderSoftstart tripIfAsserted
  simp only [hx, if_pos hs, hx']
  cases x.tripLow <;> rfl

/-- A SOFTSTART order touches the lines and the events due, and nothing else. -/
theorem orderSoftstart_frame (d : Device) (l : Nat) : ∃ ls es, d.orderSoftstart l = { d with lines := ls, due := es } := by
  rcases hx : d.line? l with _ | x
  · refine ⟨d.lines, d.due, ?_⟩
    unfold orderSoftstart
    rw [hx]
  · by_cases hs : x.switch = .off
    · exact ⟨_, _, orderSoftstart_off hx hs⟩
    · exact ⟨d.lines, d.due, orderSoftstart_refused hx hs⟩

theorem onLineOf_orderSoftstart_frame (d : Device) (i : Nat) :
    ∃ ls es, d.onLineOf i orderSoftstart = { d with lines := ls, due := es } := by
  unfold onLineOf
  split
  · exact orderSoftstart_frame d _
  · exact ⟨d.lines, d.due, rfl⟩

/-! ## Grants -/

theorem grant_discarded (h : ∀ r, d.rec? i = some r → r.id = t → r.state ≠ .attached) : d.grant i t k = d.removeClaim i := by
  have hnone : d.transition i t .leaseGranted = none := by
    rcases hr : d.rec? i with _ | r
    · exact transition_none hr t _
    · by_cases hid : r.id = t
      · have hs := h r hr hid
        refine transition_unlisted hr ?_ t
        cases hst : r.state with
        | attached => exact absurd hst hs
        | _ => rfl
      · exact transition_other hr hid _
  unfold grant
  rw [hnone]

/-- The device with a record FED by a lease of its class, before its line soft-starts (R107, R112). -/
def leased (d : Device) (i : Nat) (t : TermId) (k : Nat) (c : Class) : Device :=
  (((d.modRec i fun r => { r with state := .fed, lease := true, idle := 0 }).removeClaim i).addCommitted k).addLease i t k c

theorem grant_taken (hr : d.rec? i = some r) (hid : r.id = t) (hs : r.state = .attached) :
    d.grant i t k = ((d.leased i t k r.cls).onLineOf i orderSoftstart).post i t (.grant k) := by
  unfold grant
  rw [transition_taken hr hid (st := .fed) (by rw [hs]; rfl), hr]
  rfl

theorem rec?_leased (hr : d.rec? i = some r) (k : Nat) (c : Class) :
    (d.leased i t k c).rec? i = some { r with state := .fed, lease := true, idle := 0 } := by
  have h : (d.leased i t k c).rec? i = (d.modRec i fun r => { r with state := .fed, lease := true, idle := 0 }).rec? i := rfl
  rw [h, rec?_modRec_same, hr]
  rfl

/-! ## The end of a lease -/

theorem modTest_eq (d : Device) (i : Nat) (f : Test → Test) : d.modTest i f = { d with test := { d.test with
    channels := d.test.channels.map (Option.map fun t => if t.index = i then f t else t) } } := by
  have hchannel : ∀ o : Option Test, (match o with
      | some t => if t.index = i then some (f t) else some t
      | none => none) = o.map fun t => if t.index = i then f t else t := by
    rintro (_ | t)
    · rfl
    · exact (apply_ite some _ _ _).symm
  unfold modTest
  exact congrArg (fun g : Option Test → Option Test => ({ d with test := { d.test with
    channels := d.test.channels.map g } } : Device)) (funext hchannel)

theorem leaseEndRecord_fed (hr : d.rec? i = some r) (hid : r.id = t) (hs : r.state = .fed) :
    d.leaseEndRecord i t = d.modRec i fun r => { r with state := .attached, lease := false } := by
  unfold leaseEndRecord
  rw [inState_eq hr, if_pos (by rw [hs]; rfl), request_taken hr hid (st := .attached) (by rw [hs]; rfl)]
  rfl

theorem leaseEndRecord_unfed (hr : d.rec? i = some r) (hs : r.state ≠ .fed) : d.leaseEndRecord i t =
    (d.modRec i fun r => { r with lease := false }).modTest i fun x => { x with leaseHeld := false } := by
  unfold leaseEndRecord
  rw [inState_eq hr, if_neg (by simpa using hs)]

theorem endLease_some (h : d.leaseOf i = some y) (w : LeaseEnd) : d.endLease i w = (d.endLeaseQuiet y w).serve := by
  unfold endLease
  rw [h]

/-! ## Expiries -/

theorem leaseExpired_live (h : d.leaseOf i = some y) (hp : y.phase = .live) (hc : y.countdown = 0) :
    d.leaseExpired i = d.endLease i .expired := by
  unfold leaseExpired
  rw [h]
  exact if_pos ⟨hp, hc⟩

theorem claimWaitExpired_over {c : ClaimEntry} (h : d.claimOf i = some c) (hw : c.wait = 0) :
    d.claimWaitExpired i = ((d.removeClaim i).post i c.id (.defer .timeout)).serve := by
  obtain ⟨-, rfl⟩ := claimOf_some h
  unfold claimWaitExpired
  rw [h]
  exact if_pos hw

/-! ## The overdraw notice -/

theorem overdrawLimit_suspended (h : ∀ y, d.leaseOf i = some y → y.phase = .suspended) : d.overdrawLimit (some i) = none := by
  unfold overdrawLimit
  rw [Option.bind_some]
  split
  · rename_i y hy
    exact if_neg (by simp [h y hy])
  · rfl

theorem overdrawLimit_live (h : d.leaseOf i = some y) (hp : y.phase = .live) :
    d.overdrawLimit (some i) = some ((y.steps + d.settings.overdrawMargin) * 25) := by
  unfold overdrawLimit
  rw [Option.bind_some, h]
  exact if_pos hp

/-- The device with a line's overdraw notice taken. -/
def noticeTaken (d : Device) (l : Nat) : Device := d.modLine l fun x => { x with overdraw := none }

/-- A notice without a LIVE lease is discarded (R129). -/
theorem takeNotice_unlimited (hx : d.line? l = some x) (hm : x.overdraw = some m) (hl : d.overdrawLimit x.binding = none) :
    d.takeNotice l = d.noticeTaken l := by
  have hl' : (d.noticeTaken l).overdrawLimit x.binding = none := hl
  unfold noticeTaken at hl' ⊢
  simp only [takeNotice, hx, hm, hl']

/-- The judgement of a notice against a LIVE lease (R129). -/
theorem takeNotice_live (hx : d.line? l = some x) (hm : x.overdraw = some m) (hb : x.binding = some i)
    (hy : d.leaseOf i = some y) (hp : y.phase = .live) : d.takeNotice l =
      if m ≤ (y.steps + d.settings.overdrawMargin) * 25 then d.noticeTaken l
      else if y.strikes = 0 then
        ((d.noticeTaken l).modLease i fun z => { z with strikes := 1 }).post i y.id (.limit y.steps)
      else (d.noticeTaken l).quarantineD i y.id .secondStrike := by
  have hl : (d.noticeTaken l).overdrawLimit (some i) = some ((y.steps + d.settings.overdrawMargin) * 25) :=
    overdrawLimit_live (d := d.noticeTaken l) hy hp
  have hy' : (d.noticeTaken l).leaseOf i = some y := hy
  obtain ⟨-, rfl⟩ := leaseOf_some hy
  unfold noticeTaken at hl hy' ⊢
  simp only [takeNotice, hx, hm, hb, hl, Option.bind_some, hy']

end Device

/-- Settles O37: each expiry by the entry that stands, and the notice by the limit of the line's LIVE lease. -/
theorem leaseEvents : Obligations.LeaseEvents := by
  unfold Obligations.LeaseEvents
  refine ⟨fun s d i y hd hy hp hc => ?_, fun s d i c hd hc hw => ?_, ?_⟩
  · rw [← leaseExpired_live hy hp hc]
    exact State.named_due hd
  · refine (State.named_due hd).trans ?_
    rw [show d.handle (.claimWait i) = _ from claimWaitExpired_over hc hw]
    rfl
  · intro s d l m x hd hx hm e
    have hexec : exec (.overdrawNotice l) s = .next ⟨d.takeNotice l, s.pending⟩ := State.outside_settled hd (·.takeNotice l)
    rw [hexec]
    refine ⟨fun hno => ?_, fun i y hb hy hp => ?_⟩
    · have hlimit : d.overdrawLimit x.binding = none := by
        rcases hno with hb | ⟨i, hb, hs⟩
        · rw [hb]
          rfl
        · rw [hb, overdrawLimit_suspended hs]
      rw [takeNotice_unlimited hx hm hlimit]
      rfl
    · rw [takeNotice_live hx hm hb hy hp]
      refine ⟨fun hle => ?_, fun hlt => ⟨fun hz => ?_, fun hz => ?_⟩⟩
      · rw [if_pos hle]
        rfl
      · rw [if_neg (Nat.not_le.2 hlt), if_pos hz]
        rfl
      · rw [if_neg (Nat.not_le.2 hlt), if_neg hz]
        rfl

/-- Settles O38: `endLeaseQuiet` step by step, the line by the lease's phase, the record by its state, the CUT by the reason. -/
theorem leaseEnds : Obligations.LeaseEnds := by
  unfold Obligations.LeaseEnds
  intro d y r why hr hid i e f g h
  have hf : (if y.phase = .live then e.onLineOf i orderOff else e) = f := by
    have hre : e.rec? i = some r := hr
    unfold f
    cases y.phase with
    | suspended => rfl
    | live =>
      rw [if_pos rfl]
      cases hl : r.line with
      | none => exact onLineOf_none hre hl
      | some l => exact (onLineOf_some hre hl).trans (orderOff_eq e l)
  have hrf : f.rec? i = some r := by
    obtain ⟨ls, hls⟩ := onLineOf_orderOff_lines e i
    rw [← hf]
    split
    · rw [hls]
      exact hr
    · exact hr
  have hg : f.leaseEndRecord i y.id = g := by
    unfold g
    split
    · exact leaseEndRecord_fed hrf hid ‹_›
    · exact (leaseEndRecord_unfed hrf ‹_›).trans (modTest_eq _ _ _)
  have hh : d.endLeaseQuiet y why = h := by
    have hquiet : d.endLeaseQuiet y why = match why.cut with
        | some c => g.post i y.id (.cut c)
        | none => g := by
      rw [← hg, ← hf]
      rfl
    rw [hquiet]
    cases why <;> rfl
  exact ⟨hh, fun hy => (endLease_some hy why).trans (congrArg serve hh)⟩

/-- Settles O41: `orderSoftstart` by the line's switch, `grant` by what the Roster makes of the request. -/
theorem grantMakesLease : Obligations.GrantMakesLease := by
  unfold Obligations.GrantMakesLease
  refine ⟨?_, ?_⟩
  · intro d l x hx urgent
    have hurgent : urgent = Due.urgent := by
      funext e
      cases e <;> rfl
    refine ⟨orderSoftstart_refused hx, fun hs => ?_⟩
    rw [hurgent, orderSoftstart_off hx hs]
  · intro d i t k e
    refine ⟨grant_discarded, ?_⟩
    intro r hr hid hs f
    have hf : d.leased i t k r.cls = f := rfl
    have hrf := rec?_leased (t := t) hr k r.cls
    rw [grant_taken hr hid hs]
    rw [hf] at hrf ⊢
    cases hl : r.line with
    | none => rw [onLineOf_none hrf hl]
    | some l => rw [onLineOf_some hrf hl]

end Sys2Proof.Machine
end

section
/-! CLAIM from a FED record, which resizes its lease (R114), and from a TESTING record (R115). -/

namespace Sys2Proof.Machine

open Device

/-- A new CLAIM sets the idle frames to 0 and goes to the claim intake (R71, R108). -/
theorem State.exec_claim_new {s : State} {n : Nat} {h : Holder} {r : Record} {w : List Byte} {d : Device}
    (hw : s.newWord n h r w d) (hk : upKind w = .claim) :
    exec .claim s = .next ⟨(d.resetIdle h.index).takeClaim h.index h.id (byteAt w 2 % 64), s.pending⟩ := by
  refine (UpKind.command_exec .claim s).trans ((State.takeRow_new .claim hw (FifoEntry.row_terminal n hk nofun)).trans ?_)
  rw [dispatch_claim hk]
  rfl

namespace Device

variable {d : Device} {i k : Nat} {t : TermId} {r : Record} {y : Lease}

theorem takeClaim_fed (hr : d.rec? i = some r) (hid : r.id = t) (hs : r.state = .fed) (hy : d.leaseOf i = some y) :
    d.takeClaim i t k = d.resizeClaim i r y k := by
  simp only [takeClaim, hr, hid, hs, hy, if_true]

theorem takeClaim_testing (hr : d.rec? i = some r) (hid : r.id = t) (hs : r.state = .testing) :
    d.takeClaim i t k = d.testingClaim i r := by
  simp only [takeClaim, hr, hid, hs, if_true]

/-- A CLAIM from a TESTING record reloads a LIVE lease and is deferred (R115). -/
theorem testingClaim_eq (d : Device) (i : Nat) (r : Record) : d.testingClaim i r =
    (if (d.leaseOf i).map Lease.phase = some .live then d.reload i else d).post i r.id (.defer .testing) := by
  simp only [testingClaim, hasLive_iff]
  rfl

/-! ## The resize of a lease (R114) -/

/-- The steps of a record's lease replaced. -/
def resized (d : Device) (i k : Nat) : Device := d.modLease i fun l => { l with steps := k }

theorem resizeClaim_overCap (h : k = 0 ∨ r.cap < k) :
    d.resizeClaim i r y k = (d.reload i).post i r.id (.defer .overCap) :=
  if_pos h

/-- The judgement of a resize within the claim cap: the steps fall, stay, or rise where headroom and queue admit it. -/
theorem resizeClaim_within (h0 : 1 ≤ k) (hcap : k ≤ r.cap) : d.resizeClaim i r y k =
    if k < y.steps then ((((d.reload i).resized i k).subCommitted (y.steps - k)).post i r.id (.grant k)).serve
    else if k = y.steps then (d.reload i).post i r.id (.grant k)
    else if k - y.steps ≤ d.headroom ∧ ∀ c ∈ d.lease.claims, y.cls.rank ≤ c.cls.rank then
      (((d.reload i).resized i k).addCommitted (k - y.steps)).post i r.id (.grant k)
    else (d.reload i).post i r.id (.defer .noHeadroom) := by
  have hfits : ¬(k = 0 ∨ r.cap < k) := by omega
  have hroom : (decide (k - y.steps ≤ d.headroom) && !(d.lease.claims.any fun e => e.cls.rank < y.cls.rank)) = true
      ↔ k - y.steps ≤ d.headroom ∧ ∀ c ∈ d.lease.claims, y.cls.rank ≤ c.cls.rank := by
    simp
  refine (if_neg hfits).trans (if_congr Iff.rfl rfl (if_congr Iff.rfl rfl ?_))
  exact if_congr hroom rfl rfl

end Device

/-- Settles O42: a new CLAIM of a FED record goes to `resizeClaim`, and its steps choose the branch. -/
theorem claimResizes : Obligations.ClaimResizes := by
  unfold Obligations.ClaimResizes
  intro s n h r w d y hw hk hs hy steps e sized
  obtain ⟨hr, hid⟩ := State.newWord_rec hw
  have hreset : (d.resetIdle h.index).rec? h.index = some { r with idle := 0 } := rec?_resetIdle hr
  have hy' : (d.resetIdle h.index).leaseOf h.index = some y := hy
  have hexec : exec .claim s = .next ⟨(d.resetIdle h.index).resizeClaim h.index { r with idle := 0 } y steps, s.pending⟩ := by
    rw [State.exec_claim_new hw hk, takeClaim_fed hreset hid hs hy']
  rw [hexec, ← hid]
  refine ⟨fun hover => ?_, fun h0 hcap => ?_⟩
  · rw [resizeClaim_overCap (r := { r with idle := 0 }) hover]
    rfl
  · rw [resizeClaim_within (r := { r with idle := 0 }) h0 hcap]
    refine ⟨fun hless => ?_, fun hsame => ?_, fun hmore hfit hfirst => ?_, fun hmore hno => ?_⟩
    · rw [if_pos hless]
      rfl
    · rw [if_neg (Nat.not_lt.2 hsame.ge), if_pos hsame]
      rfl
    · rw [if_neg (Nat.not_lt.2 hmore.le), if_neg hmore.ne', if_pos ⟨hfit, hfirst⟩]
      rfl
    · have hrefused : ¬(steps - y.steps ≤ (d.resetIdle h.index).headroom
          ∧ ∀ c ∈ (d.resetIdle h.index).lease.claims, y.cls.rank ≤ c.cls.rank) := by
        rintro ⟨hfit, hfirst⟩
        rcases hno with hroom | ⟨c, hc, hrank⟩
        · exact Nat.not_le.2 hroom hfit
        · exact Nat.not_le.2 hrank (hfirst c hc)
      rw [if_neg (Nat.not_lt.2 hmore.le), if_neg hmore.ne', if_neg hrefused]
      rfl

/-- Settles O43: a new CLAIM of a TESTING record goes to `testingClaim`. -/
theorem claimFromTesting : Obligations.ClaimFromTesting := by
  unfold Obligations.ClaimFromTesting
  intro s n h r w d hw hk hs e
  obtain ⟨hr, hid⟩ := State.newWord_rec hw
  rw [State.exec_claim_new hw hk, takeClaim_testing (rec?_resetIdle hr) hid hs, testingClaim_eq, ← hid]
  rfl

end Sys2Proof.Machine
end

section
/-! Tests: the delivery of TEST_BEGIN (R130, R160) and the end of a test with its automatic claim (R116, R131, R164 to R166). -/

namespace Sys2Proof.Machine

open Device

/-- The demand of a record: its own, else its class's (R116). -/
theorem Class.demand_spelt (o : Option Capabilities) (c : Class) : (match o, c with
    | some k, _ => k.demand
    | none, .lifeline => 12
    | none, .standard => 10
    | none, .deferrable => 8) = o.elim c.defaultDemand Capabilities.demand := by
  cases o with
  | some k => rfl
  | none => cases c <;> rfl

theorem Device.autoSteps_eq (r : Record) :
    autoSteps r = min (r.capabilities.elim r.cls.defaultDemand Capabilities.demand) r.cap := by
  unfold autoSteps
  cases r.capabilities <;> rfl

/-- A record back from its test: FED with its lease or ATTACHED without one (R164). -/
def Record.untested (r : Record) (leased : Bool) : Record := { r with
  state := if leased then .fed else .attached
  lease := leased
  idle := if leased then 0 else r.idle }

/-- A record whose test has ended, with the results stored (R164, R165). -/
def Record.testEnded (r : Record) (leased : Bool) (o : TestOutcome) (drop : Nat) : Record :=
  (r.untested leased).storeOutcome o drop

section

variable (r : Record) (leased : Bool) (o : TestOutcome) (drop : Nat)

@[simp] theorem Record.testEnded_state : (r.testEnded leased o drop).state = if leased then .fed else .attached := by
  cases o <;> rfl

@[simp] theorem Record.testEnded_report : (r.testEnded leased o drop).report = r.report := by cases o <;> rfl

/-- The end of a test leaves what an automatic claim asks for. -/
theorem Record.autoSteps_testEnded : autoSteps (r.testEnded leased o drop) = autoSteps r := by cases o <;> rfl

end

namespace Device

variable {d : Device} {i c k : Nat} {t : TermId} {r : Record} {x : Test} {y : Lease} {o : TestOutcome}

/-! ## TEST_BEGIN delivered -/

theorem testBegun_running (hc : d.channelOf i = some c) (hx : d.test? c = some x) (hp : x.phase = .running) :
    d.testBegun i k = d := by
  simp only [testBegun, hc, Option.bind_some, hx, hp, reduceCtorEq, if_false]

theorem testBegun_beginning (hc : d.channelOf i = some c) (hx : d.test? c = some x) (hp : x.phase = .beginning) :
    d.testBegun i k = (d.modTest i fun x => { x with phase := .running, countdown := k }).suspend i := by
  simp only [testBegun, hc, Option.bind_some, hx, hp, if_true]

/-- Without a LIVE lease there is nothing to suspend (R130). -/
theorem suspend_unlive (h : ∀ y, d.leaseOf i = some y → y.phase = .suspended) : d.suspend i = d := by
  refine if_neg fun hlive => ?_
  obtain ⟨y, hy, hp⟩ := Option.map_eq_some_iff.1 (hasLive_iff.1 hlive)
  cases (h y hy).symm.trans hp

theorem suspend_live (hy : d.leaseOf i = some y) (hp : y.phase = .live) :
    d.suspend i = (d.modLease i fun x => { x with phase := .suspended }).onLineOf i orderOff :=
  if_pos (hasLive_iff.2 (by rw [hy, Option.map_some, hp]))

/-! ## A lease resumed -/

theorem resume_unleased (h : d.leaseOf i = none) : d.resume i = d := by
  unfold resume
  rw [h]

/-- A lease LIVE again and reloaded, before its line soft-starts (R131). -/
def revived (d : Device) (i : Nat) : Device :=
  d.modLease i fun z => { z with phase := .live, countdown := d.settings.leaseLength }

theorem resume_leased (h : d.leaseOf i = some y) :
    d.resume i = if y.phase = .suspended then (d.revived i).onLineOf i orderSoftstart else d := by
  unfold resume
  rw [h]
  rfl

/-- A change of a lease that keeps its index gives no record a lease and takes none. -/
theorem leaseOf_modLease_isSome {f : Lease → Lease} (hf : ∀ y, (f y).index = y.index) (d : Device) (i j : Nat) :
    ((d.modLease i f).leaseOf j).isSome = (d.leaseOf j).isSome := by
  have hindex : ((fun y : Lease => y.index == j) ∘ fun y => if y.index = i then f y else y) = fun y => y.index == j := by
    funext y
    rw [Function.comp_apply, apply_ite Lease.index, hf, ite_self]
  unfold leaseOf modLease
  rw [List.find?_map, Option.isSome_map, hindex]

/-- What a resume keeps: every record, and which record has a lease. -/
theorem resume_keeps (d : Device) (i : Nat) :
    (d.resume i).roster = d.roster ∧ ((d.resume i).leaseOf i).isSome = (d.leaseOf i).isSome := by
  rcases hy : d.leaseOf i with _ | y
  · rw [resume_unleased hy, hy]
    exact ⟨rfl, rfl⟩
  · rw [resume_leased hy, ← hy]
    split
    · obtain ⟨ls, es, he⟩ := onLineOf_orderSoftstart_frame (d.revived i) i
      rw [he]
      exact ⟨rfl, leaseOf_modLease_isSome (by simp) d i i⟩
    · exact ⟨rfl, rfl⟩

/-! ## The parts of a test's end -/

/-- VERDICT raised for a verdict (R165). -/
def verdictRaised (d : Device) (i : Nat) (o : TestOutcome) : Device := match o with
  | .verdict _ => { d with port := { d.port with records := d.port.records.modify i fun z => { z with verdict := true } } }
  | .aborted _ => d

theorem verdictRaised_roster (d : Device) (i : Nat) (o : TestOutcome) : (d.verdictRaised i o).roster = d.roster := by
  cases o <;> rfl

theorem storeOutcome_named (hr : d.rec? i = some r) (hid : r.id = t) (o : TestOutcome) (k : Nat) :
    d.storeOutcome i t o k = (d.modRec i fun r => r.storeOutcome o k).verdictRaised i o := by
  cases o with
  | aborted why => rfl
  | verdict v =>
    have hstored : (d.modRec i fun r => r.storeOutcome (.verdict v) k).rec? i = some (r.storeOutcome (.verdict v) k) := by
      rw [rec?_modRec_same, hr]
      rfl
    subst hid
    exact raiseRec_named hstored _

/-- The record of an ended test goes back to FED or ATTACHED (R164, steps 1 to 3). -/
theorem resumeRecord_testing (hr : d.rec? i = some r) (hid : r.id = t) (hs : r.state = .testing) : d.resumeRecord i t =
    (d.resume i).modRec i fun r => r.untested (d.leaseOf i).isSome := by
  obtain ⟨hroster, hlease⟩ := resume_keeps d i
  have hr' : (d.resume i).rec? i = some r := (rec?_congr (congrArg Roster.records hroster) i).trans hr
  unfold resumeRecord
  simp only [hlease]
  cases (d.leaseOf i).isSome with
  | false => exact request_taken hr' hid (congrArg (Cause.target .testEndedNoLease) hs)
  | true => exact request_taken hr' hid (congrArg (Cause.target .testEndedLease) hs)

/-- Steps 1 to 5 of a test's end (R164, R165). -/
theorem closeTest_testing (hr : d.rec? x.index = some r) (hid : r.id = x.id) (hs : r.state = .testing) (o : TestOutcome) (k : Nat) :
    d.closeTest x o k = (((d.resume x.index).modRec x.index fun r =>
      r.testEnded (d.leaseOf x.index).isSome o k).verdictRaised x.index o).post x.index x.id (.testEnd o) := by
  have hr' : (d.resumeRecord x.index x.id).rec? x.index = some (r.untested (d.leaseOf x.index).isSome) := by
    obtain ⟨hroster, -⟩ := resume_keeps d x.index
    rw [resumeRecord_testing hr hid hs, rec?_modRec_same, rec?_congr (congrArg Roster.records hroster), hr]
    rfl
  unfold closeTest
  rw [storeOutcome_named hr' hid, resumeRecord_testing hr hid hs, modRec_modRec]
  rfl

theorem rec?_closeTest (hr : d.rec? x.index = some r) (hid : r.id = x.id) (hs : r.state = .testing) (o : TestOutcome) (k : Nat) :
    (d.closeTest x o k).rec? x.index = some (r.testEnded (d.leaseOf x.index).isSome o k) := by
  obtain ⟨hroster, -⟩ := resume_keeps d x.index
  rw [closeTest_testing hr hid hs, rec?_congr (congrArg Roster.records (post_roster ..)),
    rec?_congr (congrArg Roster.records (verdictRaised_roster ..)), rec?_modRec_same,
    rec?_congr (congrArg Roster.records hroster), hr]
  rfl

theorem autoClaim_some (hr : d.rec? i = some r) (t : TermId) : d.autoClaim i t = d.takeClaim i t (autoSteps r) := by
  unfold autoClaim
  rw [hr]

theorem nearCutoff_some (hr : d.rec? i = some r) : d.nearCutoff i = r.report.any BatteryReport.cutoffNear := by
  unfold nearCutoff
  rw [hr, Option.bind_some]
  cases r.report <;> rfl

/-- After its first steps the end of a test makes an automatic claim for a record near cutoff without a lease, frees the channel and
examines the agenda (R164, R166). -/
theorem endTest_testing (hr : d.rec? x.index = some r) (hid : r.id = x.id) (hs : r.state = .testing) (o : TestOutcome) (k : Nat)
    (near : Bool) : d.endTest c x o k near =
      ((if d.leaseOf x.index = none ∧ (near = true ∨ r.report.any BatteryReport.cutoffNear = true) then
        (d.closeTest x o k).takeClaim x.index x.id (autoSteps r) else d.closeTest x o k).putChannel c none).examineAgenda := by
  have hclosed := rec?_closeTest hr hid hs o k
  have hclaims : ((d.closeTest x o k).inState x.index .attached && (near || (d.closeTest x o k).nearCutoff x.index)) = true
      ↔ d.leaseOf x.index = none ∧ (near = true ∨ r.report.any BatteryReport.cutoffNear = true) := by
    rw [inState_eq hclosed, nearCutoff_some hclosed, Record.testEnded_state, Record.testEnded_report]
    cases d.leaseOf x.index <;> simp
  unfold endTest
  simp only [hclaims, autoClaim_some hclosed, Record.autoSteps_testEnded]

end Device

/-- Settles O45: `testBegun` by the test's phase and the lease's, `endTest` by `closeTest_testing` and the condition of R166. -/
theorem testBeginsAndEnds : Obligations.TestBeginsAndEnds := by
  unfold Obligations.TestBeginsAndEnds
  refine ⟨?_, ?_, fun r => ?_⟩
  · intro d i c w x r hc hx hr running
    have hrunning : (d.modTest i fun x => { x with phase := .running, countdown := w }) = running := modTest_eq _ _ _
    refine ⟨testBegun_running hc hx, fun hp hno => ?_, ?_⟩
    · rw [testBegun_beginning hc hx hp, hrunning]
      exact suspend_unlive (d := running) hno
    · intro y hp hy hlive e
      have hsuspended : d.testBegun i w = e.onLineOf i orderOff := by
        rw [testBegun_beginning hc hx hp, hrunning]
        exact suspend_live (d := running) hy hlive
      have hre : e.rec? i = some r := hr
      rw [hsuspended]
      cases hl : r.line with
      | none => exact onLineOf_none hre hl
      | some l => exact (onLineOf_some hre hl).trans (orderOff_eq e l)
  · intro d c x o drop near r hr hid hs i demand e f g k
    have he : d.resume i = e := by
      unfold e
      cases hy : d.leaseOf i with
      | none => exact resume_unleased hy
      | some y =>
        rw [resume_leased hy]
        cases hl : r.line with
        | none => rw [onLineOf_none (d := d.revived i) hr hl]; rfl
        | some l => rw [onLineOf_some (d := d.revived i) hr hl]; rfl
    have hf : (e.modRec i fun r => r.testEnded (d.leaseOf i).isSome o drop) = f := by
      refine congrArg (e.modRec i) (funext fun q => ?_)
      cases o with
      | aborted why => rfl
      | verdict v => cases v <;> rfl
    have hg : f.verdictRaised i o = g := by
      unfold g
      cases o <;> rfl
    have hk : d.closeTest x o drop = k := by
      rw [closeTest_testing hr hid hs, he, hf, hg]
    have hsteps : autoSteps r = min demand r.cap :=
      (autoSteps_eq r).trans (congrArg (min · r.cap) (Class.demand_spelt _ _).symm)
    rw [endTest_testing hr hid hs, hk, hsteps]
  · exact (autoSteps_eq r).trans (congrArg (min · r.cap) (Class.demand_spelt _ _).symm)

end Sys2Proof.Machine
end

section
/-! Tests: the countdowns of TEST_WINDOW_END and TEST_BEGIN_TIMEOUT (R161, R163). -/

namespace Sys2Proof.Machine

open Device

namespace Device

variable {d : Device} {c a b : Nat} {x : Test}

/-- A window that ends before any report has come (R163). -/
theorem testExpired_unreported (hx : d.test? c = some x) (hp : x.phase = .running) (hz : x.countdown = 0)
    (ha : x.startV = none) : d.testExpired c .running = d.endTest c x (.aborted .noReport) 0 false := by
  simp only [testExpired, hx, hp, hz, ha, and_self, if_true]

/-- A window that ends with voltages: their drop is judged by table 7-3 (R163). -/
theorem testExpired_reported (hx : d.test? c = some x) (hp : x.phase = .running) (hz : x.countdown = 0)
    (ha : x.startV = some a) (hb : x.lastV = some b) :
    d.testExpired c .running = d.endTest c x (.verdict (judgeDrop d.settings (a - b))) (a - b) false := by
  simp only [testExpired, hx, hp, hz, ha, hb, and_self, if_true]

/-- A BEGINNING phase that runs out (R161). -/
theorem testExpired_beginning (hx : d.test? c = some x) (hp : x.phase = .beginning) (hz : x.countdown = 0) :
    d.testExpired c .beginning = d.endTest c x (.aborted .noReport) 0 false := by
  simp only [testExpired, hx, hp, hz, and_self, if_true]

end Device

/-- What a due event leaves when it is named, by what its handling does. -/
theorem State.named_handled {s : State} {e : Due} {d f : Device} (hd : s.dueNow e d) (hf : d.handle e = f) :
    s.named e = .next ⟨f.finish, s.pending⟩ := by
  rw [State.named_due hd, hf]

/-- Settles O44: a countdown's end by the phase and, for the window, by whether the test has voltages. -/
theorem testCountdowns : Obligations.TestCountdowns := by
  unfold Obligations.TestCountdowns
  refine ⟨fun s d c x hd hx hp hz => ⟨fun ha => ?unreported, fun a b ha hb => ?reported⟩,
    fun s d c x hd hx hp hz => ?beginning⟩
  case unreported => exact State.named_handled hd (testExpired_unreported hx hp hz ha)
  case reported => exact State.named_handled hd (testExpired_reported hx hp hz ha hb)
  case beginning => exact State.named_handled hd (testExpired_beginning hx hp hz)

end Sys2Proof.Machine
end

section
/-! The Host Port (chapter 8): FETCH and a transaction of an unknown type (R173 to R175), a REQUEST while the port is not IDLE
(R175), IDENTIFY (R177) and READ_CONFIG (R185). -/

namespace Sys2Proof.Machine

open Device

/-! ## FETCH and a transaction of an unknown type -/

namespace Device

variable {d : Device} {n : Nat} {r : Response}

theorem fetchTransaction_zero (d : Device) : d.fetchTransaction 0 = d := rfl

/-- Without a response READY the bytes after the status byte have no meaning (R174, log 8). -/
theorem fetchTransaction_unready (hn : 1 ≤ n) (h : d.port.status ≠ .ready ∨ d.port.response = none) :
    d.fetchTransaction n = d.shiftOut (d.idleBytes (n - 1)) (n - 1) := by
  have hpos : n ≠ 0 := by omega
  unfold fetchTransaction
  rw [if_neg hpos]
  split
  case h_1 hs hr =>
    rcases h with h | h
    · exact absurd hs h
    · rw [hr] at h
      cases h
  case h_2 => rfl

/-- With a response READY its bytes follow the status byte, and then bytes of no meaning; shifted out whole, it frees the buffer
(R174). -/
theorem fetchTransaction_ready (hn : 1 ≤ n) (hs : d.port.status = .ready) (hr : d.port.response = some r) :
    let free := n - 1 - r.bytes.length
    let e := d.shiftOut ((r.bytes.take (n - 1)).map some ++ d.idleBytes free) free
    d.fetchTransaction n =
      if r.bytes.length ≤ n - 1 then { e with port := { e.port with status := .idle, response := none } } else e := by
  have hpos : n ≠ 0 := by omega
  unfold fetchTransaction
  simp only [hs, hr, if_neg hpos]

/-- A response shifted out in part stays in the buffer. -/
theorem fetchTransaction_part (hn : 1 ≤ n) (hs : d.port.status = .ready) (hr : d.port.response = some r)
    (hlen : n - 1 < r.bytes.length) : d.fetchTransaction n = d.shiftOut ((r.bytes.take (n - 1)).map some) 0 := by
  have hfree : n - 1 - r.bytes.length = 0 := by omega
  have hnone : d.idleBytes 0 = [] := rfl
  rw [fetchTransaction_ready hn hs hr, if_neg hlen.not_ge, hfree, hnone, List.append_nil]

/-- A response shifted out whole, its check byte last, leaves the port IDLE. -/
theorem fetchTransaction_whole (hn : 1 ≤ n) (hs : d.port.status = .ready) (hr : d.port.response = some r)
    (hlen : r.bytes.length ≤ n - 1) :
    let e := d.shiftOut (r.bytes.map some ++ d.idleBytes (n - 1 - r.bytes.length)) (n - 1 - r.bytes.length)
    d.fetchTransaction n = { e with port := { e.port with status := .idle, response := none } } := by
  rw [fetchTransaction_ready hn hs hr, if_pos hlen, List.take_of_length_le hlen]

/-- A type byte that names neither transaction: the status byte alone is shifted out (R173). -/
theorem transaction_unknown {b : Byte} (hreq : b ≠ 0xA1) (hfetch : b ≠ 0xB2) (rest : List Byte) :
    d.transaction (b :: rest) = d.shiftOut [] 0 := by
  simp only [transaction, if_neg hreq, if_neg hfetch]

end Device

/-- Settles O46: FETCH by whether a response is READY and shifted out whole, the other by its type byte. -/
theorem portTransactions : Obligations.PortTransactions := by
  unfold Obligations.PortTransactions
  refine ⟨fun s d n hd => ?fetch, fun s d bytes hd => ?unknown⟩
  case fetch =>
    intro out
    have hexec : exec (.fetch n) s = .next ⟨d.fetchTransaction n, s.pending⟩ :=
      State.outside_settled hd fun d => d.fetchTransaction n
    rw [hexec]
    refine ⟨?empty, fun hn h => ?unready, fun r hn hs hr => ⟨fun hlen => ?part, fun hlen => ?whole⟩⟩
    case empty =>
      rintro rfl
      rw [fetchTransaction_zero]
    case unready =>
      rw [fetchTransaction_unready hn h]
      rfl
    case part =>
      rw [fetchTransaction_part hn hs hr hlen]
      rfl
    case whole =>
      rw [fetchTransaction_whole hn hs hr hlen]
      rfl
  case unknown =>
    have hexec : exec (.unknownTransaction bytes) s = .next ⟨d.transaction bytes, s.pending⟩ :=
      State.outside_settled hd fun d => d.transaction bytes
    rw [hexec]
    refine ⟨?_, ?_⟩
    · rintro rfl
      rfl
    · rintro b rest rfl hreq hfetch
      rw [transaction_unknown hreq hfetch]
      rfl

/-! ## A REQUEST while the port is not IDLE -/

namespace Device

variable {d : Device}

/-- The device after a REQUEST of `n` bytes past its type byte that it has discarded: the overlap mark is set (R175). -/
def discarded (d : Device) (n : Nat) : Device := { d with
  port := { d.port with sdo := some d.statusByte :: d.idleBytes n, overlap := true }
  freeCount := d.freeCount + n }

/-- A REQUEST that ends while the port is not IDLE is not carried out, whatever its bytes (R175). -/
theorem requestTransaction_busy (hb : d.port.status ≠ .idle) (bytes : List Byte) (carry : Device → Device × Option Answer) :
    d.requestTransaction bytes carry = d.discarded (bytes.length - 1) := by
  unfold requestTransaction
  cases hs : d.port.status with
  | idle => exact absurd hs hb
  | working => rfl
  | ready => rfl

theorem hostRequest_busy (hb : d.port.status ≠ .idle) (code : Byte) (p : List Byte) (carry : Device → Device × Option Answer) :
    d.hostRequest code p carry = d.discarded (3 + p.length) := by
  have hlen : (requestBytes code p).length - 1 = 3 + p.length := by
    rw [requestBytes_length]
    omega
  unfold hostRequest
  rw [requestTransaction_busy hb, hlen]

end Device

/-- Settles O47: a request of any code is a REQUEST transaction, which a busy port discards (`requestTransaction_busy`). -/
theorem busyPortDiscards : Obligations.BusyPortDiscards := by
  unfold Obligations.BusyPortDiscards
  intro s d c n hd hb hc
  have hrequest : ∀ code p carry, 3 + p.length = n → (s.outside fun d => d.hostRequest code p carry) =
      .next ⟨d.discarded n, s.pending⟩ := by
    rintro code p carry rfl
    rw [State.outside_settled hd, hostRequest_busy hb]
  cases c <;> simp only [reduceCtorEq, Option.some.injEq] at hc
  case requestBadFrame bytes =>
    subst hc
    change (s.outside fun d => d.rawRequest bytes) = _
    rw [State.outside_settled hd, rawRequest, requestTransaction_busy hb]
    rfl
  all_goals exact hrequest _ _ _ hc

/-! ## IDENTIFY and READ_CONFIG -/

theorem Device.carryIdentify_nil (d : Device) : carryIdentify [] d = (d, .ok, identifyFields) := bare_nil _ _

/-- Settles O49: IDENTIFY has no parameters, and its answer leaves the device as it is. -/
theorem identifyAnswer : Obligations.IdentifyAnswer := by
  unfold Obligations.IdentifyAnswer
  intro s d ht
  exact State.request_takes ht (carryIdentify_nil _)

/-- A number names a setting when it is the number of a row of table 8-4 (R192). -/
theorem Settings.get_isSome_iff (s : Settings) (n : Nat) : (s.get n).isSome = true ↔ 1 ≤ n ∧ n ≤ 27 := by
  rcases Nat.lt_or_ge 27 n with hn | hn
  · rw [get_beyond hn]
    simp only [Option.isSome_none, Bool.false_eq_true, false_iff]
    omega
  · interval_cases n <;> simp [get]

/-- READ_CONFIG goes by the count of the numbers named and by whether each is that of a setting (R185). -/
theorem Device.carryReadConfig_eq (p : List Byte) (d : Device) : carryReadConfig p d =
    if 1 ≤ p.length ∧ p.length ≤ 16 ∧ ∀ b ∈ p, 1 ≤ b.toNat ∧ b.toNat ≤ 27 then
      (d, .ok, p.flatMap fun b => b :: bytesBE 2 ((d.settings.get b.toNat).getD 0))
    else (d, fails .badValue) := by
  simp only [carryReadConfig, List.all_eq_true, Settings.get_isSome_iff]

/-- Settles O50: the numbers by `Settings.get`, the request by `carryReadConfig_eq`. -/
theorem readConfigAnswer : Obligations.ReadConfigAnswer := by
  unfold Obligations.ReadConfigAnswer
  refine ⟨fun s => ⟨fun n hn => Settings.get_beyond hn s, rfl⟩, fun s d p ht => ?_⟩
  intro ok
  refine ⟨fun hbad => ?_, fun hgood => ?_⟩
  · exact State.request_takes ht ((carryReadConfig_eq p _).trans (if_neg hbad))
  · exact State.request_takes ht ((carryReadConfig_eq p _).trans (if_pos hgood))

end Sys2Proof.Machine
end

section
/-! A step on a queue that holds a command. -/

namespace Sys2Proof.Machine

open Sys2Proof

/-- A step on a queue that holds a command is the meaning of its oldest one (log 3). -/
theorem step_of_pending_eq_cons {s : State} {c : Instr} {rest : List Instr} (h : s.pending = c :: rest) :
    step s = exec c { s with pending := rest } := by
  unfold step
  rw [h]

/-- Settles O1: the queue is taken apart at its front, and the command is handed the same device. -/
theorem stepRunsFrontCommand : Obligations.StepRunsFrontCommand := by
  unfold Obligations.StepRunsFrontCommand
  intro c rest d
  exact step_of_pending_eq_cons (s := ⟨d, c :: rest⟩) rfl

end Sys2Proof.Machine
end
